-- ==== Sys2Proof/Word.lean ====
section
/-!
DEFINITION. The words of the machine (R8, R10) and the sparse map that every register file, memory and table uses.
-/

namespace Sys2Proof

/-- 32 bits, `.w` (R10). -/
abbrev Word := BitVec 32
/-- 64 bits, `.d` (R10). -/
abbrev DWord := BitVec 64
/-- 8 bits, `.b` (R10). -/
abbrev Byte := BitVec 8
/-- A 16-byte granule (R10). -/
abbrev Granule := BitVec 128
/-- A 64-byte line, and a 64-byte record of sixteen words (R10, R247). -/
abbrev Line := BitVec 512
/-- A 512-byte accumulator row, that is, a vector register (R122). -/
abbrev Row := BitVec 4096
/-- An instruction (R31). -/
abbrev Code := BitVec 96

/-- A sparse map from natural numbers: pairs with keys strictly rising. What an absent key stands for is
the reader's: each use names its default. -/
abbrev FMap (α : Type) := List (Nat × α)

end Sys2Proof
end

