-- ==== Sys2Proof/Machine/Store.lean ====
section
/-!
DEFINITION. Sparse maps and bytes: reading and writing the lists that hold registers, scratchpads and memory, and
the canonical form of a byte memory. Multi-byte quantities are little-endian (R8).
-/

namespace Sys2Proof.Machine

/-! ## Sparse maps -/

def FMap.find {α : Type} : FMap α → Nat → Option α
  | [], _ => none
  | (a, v) :: t, k => if a = k then some v else FMap.find t k

/-- The value at a key, or the default. -/
def FMap.get {α : Type} (m : FMap α) (k : Nat) (dflt : α) : α := (FMap.find m k).getD dflt

/-- Insertion keeps keys strictly rising. -/
def FMap.set {α : Type} : FMap α → Nat → α → FMap α
  | [], k, v => [(k, v)]
  | (a, w) :: t, k, v => if k < a then (k, v) :: (a, w) :: t else if k = a then (k, v) :: t else (a, w) :: FMap.set t k v

def FMap.erase {α : Type} (m : FMap α) (k : Nat) : FMap α := m.filter fun p => p.1 != k

/-- A write that never lists the default, so that equal contents are equal lists. -/
def FMap.put {α : Type} [DecidableEq α] (m : FMap α) (k : Nat) (v dflt : α) : FMap α :=
  if v = dflt then FMap.erase m k else FMap.set m k v

/-- Keys strictly rising. -/
def FMap.sorted {α : Type} : FMap α → Bool
  | [] => true
  | [_] => true
  | (a, _) :: (b, w) :: t => a < b && FMap.sorted ((b, w) :: t)

/-! ## Sorted sets of numbers -/

def insertNat (l : List Nat) (k : Nat) : List Nat :=
  match l with
  | [] => [k]
  | a :: t => if k < a then k :: a :: t else if k = a then a :: t else a :: insertNat t k

def removeNat (l : List Nat) (k : Nat) : List Nat := l.filter (· != k)

/-- Sets or clears membership. -/
def markNat (l : List Nat) (k : Nat) (b : Bool) : List Nat := if b then insertNat l k else removeNat l k

/-! ## Byte memories -/

/-- What a byte that no write has listed reads as: zero (R361 for vaults and DRAM rows). (DESIGN CHOICE, log entry 4.) -/
def unlistedByte : Byte := 0

/-- The canonical form of a byte memory: keys strictly rising, no entry equal to an unlisted byte. -/
def Memory.wf (m : FMap Byte) : Bool := FMap.sorted m && m.all fun p => p.2 != unlistedByte

def readByte (m : FMap Byte) (a : Nat) : Byte := FMap.get m a unlistedByte

def writeByte (m : FMap Byte) (a : Nat) (v : Byte) : FMap Byte := FMap.put m a v unlistedByte

def readBytes (m : FMap Byte) (a n : Nat) : List Byte := (List.range n).map fun i => readByte m (a + i)

def writeBytes (m : FMap Byte) (a : Nat) : List Byte → FMap Byte
  | [] => m
  | b :: t => writeBytes (writeByte m a b) (a + 1) t

/-- The little-endian value of bytes. -/
def leValue : List Byte → Nat
  | [] => 0
  | b :: t => b.toNat + 256 * leValue t

/-- The low `n` bytes of a number, lowest first. -/
def leBytes : Nat → Nat → List Byte
  | 0, _ => []
  | n + 1, v => BitVec.ofNat 8 v :: leBytes n (v / 256)

/-- `n` bytes at `a` as a number. -/
def readLE (m : FMap Byte) (a n : Nat) : Nat := leValue (readBytes m a n)

def writeLE (m : FMap Byte) (a n v : Nat) : FMap Byte := writeBytes m a (leBytes n v)

def readWord (m : FMap Byte) (a : Nat) : Word := BitVec.ofNat 32 (readLE m a 4)

/-- Bytes of `new` where the mask has a one, of `old` elsewhere (R83, R85). -/
def mergeLine (old new : Line) (mask : BitVec 64) : Line :=
  BitVec.ofNat 512 (leValue ((List.range 64).map fun i =>
    if mask.getLsbD i then new.extractLsb' (8 * i) 8 else old.extractLsb' (8 * i) 8))

/-- The mask of `n` bytes from byte `k` of a line. -/
def byteMask (k n : Nat) : BitVec 64 := BitVec.ofNat 64 ((2 ^ n - 1) * 2 ^ k)

/-- A whole line of a byte memory. -/
def readLine (m : FMap Byte) (pa : Nat) : Line := BitVec.ofNat 512 (readLE m pa 64)

/-- The masked bytes of a line written into a byte memory. -/
def writeMasked (m : FMap Byte) (pa : Nat) (data : Line) (mask : BitVec 64) : FMap Byte :=
  (List.range 64).foldl (fun m i => if mask.getLsbD i then writeByte m (pa + i) (data.extractLsb' (8 * i) 8) else m) m

/-! ## Words of a record or line -/

def lineWord (l : Line) (k : Nat) : Word := l.extractLsb' (32 * k) 32

/-- A line with word `k` replaced. -/
def setLineWord (l : Line) (k : Nat) (v : Word) : Line :=
  BitVec.ofNat 512 (leValue ((List.range 64).map fun i =>
    if i / 4 = k then v.extractLsb' (8 * (i % 4)) 8 else l.extractLsb' (8 * i) 8))

/-- Sixteen words as a line; missing words are zero. -/
def lineOfWords (ws : List Word) : Line :=
  BitVec.ofNat 512 (leValue ((List.range 64).map fun i => ((ws[i / 4]?).getD 0).extractLsb' (8 * (i % 4)) 8))

/-- A bit field [hi:lo] of a word, as a number. -/
def bits {w : Nat} (v : BitVec w) (hi lo : Nat) : Nat := v.toNat / 2 ^ lo % 2 ^ (hi + 1 - lo)

/-- A word with the field of `n` bits at `lo` replaced. -/
def setBits (v : Word) (lo n : Nat) (x : Nat) : Word :=
  BitVec.ofNat 32 (v.toNat - (v.toNat / 2 ^ lo % 2 ^ n) * 2 ^ lo + (x % 2 ^ n) * 2 ^ lo)

/-! ## Lists -/

/-- A list without its element number `k`. -/
def dropAt {α : Type} (l : List α) (k : Nat) : List α := l.eraseIdx k

/-- A list with element `k` replaced by its image. -/
def mapAt {α : Type} (l : List α) (k : Nat) (f : α → α) : List α := l.modify k f

end Sys2Proof.Machine
end

