-- ==== Sys2Proof/Machine/Crypto.lean ====
section
/-!
DEFINITION. The digest and the signatures of R362: SHAKE256, and Ed448 as RFC 8032 defines it, pure form with an empty
context. The rule names both and defines them by reference. (PRESUMED, log entry 14: FIPS 202 and RFC 8032.)
-/

namespace Sys2Proof.Machine

/-! ## SHAKE256 (FIPS 202)

A state is 25 lanes of 64 bits; lane (x, y) is number x + 5 y. -/

def lane (l : List Nat) (i : Nat) : Nat := (l[i]?).getD 0
def rotl64 (v n : Nat) : Nat := (v <<< n ||| v >>> (64 - n)) % 2 ^ 64

/-- Rotation offsets of the lanes. -/
def rhoOffsets : List Nat :=
  [0, 1, 62, 28, 27, 36, 44, 6, 55, 20, 3, 10, 43, 25, 39, 41, 45, 15, 21, 8, 18, 2, 61, 56, 14]

def roundConstants : List Nat :=
  [0x1, 0x8082, 0x800000000000808A, 0x8000000080008000, 0x808B, 0x80000001, 0x8000000080008081, 0x8000000000008009, 0x8A,
   0x88, 0x80008009, 0x8000000A, 0x8000808B, 0x800000000000008B, 0x8000000000008089, 0x8000000000008003, 0x8000000000008002,
   0x8000000000000080, 0x800A, 0x800000008000000A, 0x8000000080008081, 0x8000000000008080, 0x80000001, 0x8000000080008008]

/-- Columns folded into their neighbours. -/
def keccakTheta (a : List Nat) : List Nat :=
  let c := (List.range 5).map fun x => (List.range 5).foldl (fun v y => v ^^^ lane a (x + 5 * y)) 0
  let e := (List.range 5).map fun x => lane c ((x + 4) % 5) ^^^ rotl64 (lane c ((x + 1) % 5)) 1
  (List.range 25).map fun i => lane a i ^^^ lane e (i % 5)

/-- Lanes rotated and moved. -/
def keccakRhoPi (a : List Nat) : List Nat :=
  (List.range 25).map fun i =>
    let k := (i % 5 + 3 * (i / 5)) % 5 + 5 * (i % 5)
    rotl64 (lane a k) (lane rhoOffsets k)

/-- Rows combined. -/
def keccakChi (b : List Nat) : List Nat :=
  (List.range 25).map fun i =>
    let at_ (k : Nat) : Nat := lane b ((i % 5 + k) % 5 + 5 * (i / 5))
    at_ 0 ^^^ ((at_ 1 ^^^ (2 ^ 64 - 1)) &&& at_ 2)

/-- Keccak-f[1600]. -/
def keccak (a : List Nat) : List Nat :=
  roundConstants.foldl (fun a rc => match keccakChi (keccakRhoPi (keccakTheta a)) with
    | x :: t => (x ^^^ rc) :: t
    | [] => []) a

/-- Bytes of a block of SHAKE256. -/
def shakeRate : Nat := 136

/-- The message padded to whole blocks: 0x1F, zeros, and the top bit of the last byte. -/
def shakePad (m : List Byte) : List Byte :=
  let z := shakeRate - 1 - m.length % shakeRate
  if z = 0 then m ++ [0x9F] else m ++ [0x1F] ++ List.replicate (z - 1) 0 ++ [0x80]

/-- A block taken in. -/
def shakeBlock (a : List Nat) (m : List Byte) : List Nat :=
  keccak ((List.range 25).map fun i => lane a i ^^^ leValue ((m.drop (8 * i)).take (if i < 17 then 8 else 0)))

def shakeAbsorb : Nat → List Nat → List Byte → List Nat
  | 0, a, _ => a
  | n + 1, a, m => shakeAbsorb n (shakeBlock a (m.take shakeRate)) (m.drop shakeRate)

/-- The first `n` bytes of SHAKE256 of a message, at most a block. -/
def shake256 (m : List Byte) (n : Nat) : List Byte :=
  (((shakeAbsorb (m.length / shakeRate + 1) (List.replicate 25 0) (shakePad m)).flatMap (leBytes 8)).take n)

/-- The 64-byte digest that signatures are made over. -/
def digest (m : List Byte) : BitVec 512 := BitVec.ofNat 512 (leValue (shake256 m 64))

/-! ## Ed448 (RFC 8032, section 5.2) -/

/-- The field, the order of the base point, and the curve's constant d = -39081. -/
def edP : Nat := 2 ^ 448 - 2 ^ 224 - 1
def edL : Nat := 2 ^ 446 - 0x8335dc163bb124b65129c96fde933d8d723a70aadc873d6d54a7bb0d
def edD : Nat := edP - 39081

def fadd (a b : Nat) : Nat := (a + b) % edP
def fsub (a b : Nat) : Nat := (a + edP - b) % edP
def fmul (a b : Nat) : Nat := a * b % edP

/-- The low `fuel` bits of an exponent, from the lowest on. -/
def fpow : Nat → Nat → Nat → Nat → Nat
  | 0, _, _, acc => acc
  | fuel + 1, b, e, acc => fpow fuel (fmul b b) (e / 2) (if e % 2 = 1 then fmul acc b else acc)

/-- A point in projective coordinates. -/
structure EdPoint where
  x : Nat
  y : Nat
  z : Nat
  deriving DecidableEq, Repr

def edZero : EdPoint := ⟨0, 1, 1⟩
def edBase : EdPoint :=
  ⟨224580040295924300187604334099896036246789641632564134246125461686950415467406032909029192869357953282578032075146446173674602635247710,
   298819210078481492676017930443930673437544040154080242095928241372331506189835876003536878655418784733982303233503462500531545062832660, 1⟩

def EdPoint.add (p q : EdPoint) : EdPoint :=
  let a := fmul p.z q.z
  let b := fmul a a
  let c := fmul p.x q.x
  let d := fmul p.y q.y
  let e := fmul edD (fmul c d)
  let f := fsub b e
  let g := fadd b e
  let h := fmul (fadd p.x p.y) (fadd q.x q.y)
  ⟨fmul (fmul a f) (fsub (fsub h c) d), fmul (fmul a g) (fsub d c), fmul f g⟩

def EdPoint.double (p : EdPoint) : EdPoint :=
  let s := fadd p.x p.y
  let b := fmul s s
  let c := fmul p.x p.x
  let d := fmul p.y p.y
  let e := fadd c d
  let h := fmul p.z p.z
  let j := fsub e (fadd h h)
  ⟨fmul (fsub b e) j, fmul e (fsub c d), fmul e j⟩

/-- A multiple of a point, by the `fuel` lowest bits of the factor. -/
def EdPoint.times : Nat → Nat → EdPoint → EdPoint → EdPoint
  | 0, _, _, acc => acc
  | fuel + 1, k, p, acc => EdPoint.times fuel (k / 2) p.double (if k % 2 = 1 then acc.add p else acc)

def EdPoint.mul (k : Nat) (p : EdPoint) : EdPoint := p.times 456 k edZero

def EdPoint.same (p q : EdPoint) : Bool := fmul p.x q.z == fmul q.x p.z && fmul p.y q.z == fmul q.y p.z

/-- The 57 bytes of a point: y, and in the last bit the lowest bit of x. -/
def EdPoint.encode (p : EdPoint) : List Byte :=
  let i := fpow 448 p.z (edP - 2) 1
  leBytes 57 (fmul p.y i + fmul p.x i % 2 * 2 ^ 455)

/-- The point that 57 bytes encode. -/
def edDecode (b : List Byte) : Option EdPoint :=
  let n := leValue b
  let y := n % 2 ^ 455
  let sign := n / 2 ^ 455
  if b.length ≠ 57 ∨ edP ≤ y then none
  else
    let u := fsub (fmul y y) 1
    let v := fsub (fmul edD (fmul y y)) 1
    let u3v := fmul (fmul (fmul u u) u) v
    let u5v3 := fmul (fmul u3v (fmul u u)) (fmul v v)
    let x := fmul u3v (fpow 448 u5v3 ((edP - 3) / 4) 1)
    if fmul v (fmul x x) ≠ u ∨ (x = 0 ∧ sign = 1) then none
    else some ⟨if x % 2 = sign then x else edP - x, y, 1⟩

/-- `dom4` of the pure form with an empty context. -/
def edDom : List Byte := [0x53, 0x69, 0x67, 0x45, 0x64, 0x34, 0x34, 0x38, 0, 0]

def edHash (m : List Byte) : Nat := leValue (shake256 (edDom ++ m) 114) % edL

/-- The scalar and the prefix of a private key of 57 bytes. -/
def edSecret (sk : List Byte) : Nat × List Byte :=
  let h := shake256 sk 114
  (leValue (h.take 57) % 2 ^ 447 / 4 * 4 + 2 ^ 447, h.drop 57)

/-- The public key of a private key. -/
def edPublic (sk : List Byte) : List Byte := (edBase.mul (edSecret sk).1).encode

/-- The 114 bytes of a signature of a message. -/
def ed448Sign (sk m : List Byte) : List Byte :=
  let s := edSecret sk
  let r := edHash (s.2 ++ m)
  let big := (edBase.mul r).encode
  let k := edHash (big ++ edPublic sk ++ m)
  big ++ leBytes 57 ((r + k * s.1) % edL)

/-- Whether a signature verifies under a public key. -/
def ed448Verify (pk m sig : List Byte) : Bool :=
  let s := leValue (sig.drop 57)
  match edDecode pk, edDecode (sig.take 57) with
  | some a, some r =>
    let k := edHash (sig.take 57 ++ pk ++ m)
    sig.length == 114 && decide (s < edL) && ((edBase.mul s).mul 4).same ((r.add (a.mul k)).mul 4)
  | _, _ => false

end Sys2Proof.Machine
end

