-- ==== Sys2Proof/Syntax.lean ====
section
/-!
DEFINITION. The instructions of Orotor and the events of the K4: one constructor of Instr for each row of the
operation table. Operand types follow the field codes of R32; what a type cannot say, WellFormed checks.
-/

namespace Sys2Proof

/-! ## Operands (R9, R32) -/

/-- A source of classes 0 to 4 and 7 to B (R32). Register numbers are the manual's. -/
inductive Src
  | g (n : Fin 48) | gz | o (n : Fin 8) | x (n : Fin 2) | q (n : Fin 8)
  deriving DecidableEq, Repr

/-- A register destination (R32): a latch is never one. -/
inductive Dst
  | g (n : Fin 48) | gz | o (n : Fin 8) | q (n : Fin 8)
  deriving DecidableEq, Repr

/-- A mesh direction, coded 0 N, 1 E, 2 S, 3 W (R32, R127, R165). -/
inductive Dir
  | n | e | s | w
  deriving DecidableEq, Repr

/-- A destination of classes 0 and 4: a register, or a window of a neighbour with its byte offset I (R32). -/
inductive WDst
  | reg (d : Dst) | win (dir : Dir) (slot : Fin 16) (off : Word)
  deriving DecidableEq, Repr

/-- A register pair as R55 forms it for reading: `even n` is the pair at g(2n), and gz reads as zero. (DEDUCED, log entry 16.) -/
inductive PairReg
  | even (n : Fin 24) | gz
  deriving DecidableEq, Repr

/-- A pair that is written (R55): `n` names g(2n) and g(2n+1). -/
abbrev PairDst := Fin 24

/-- A last source with its immediate form (R33). -/
inductive ISrc
  | reg (s : Src) | imm (v : Word)
  deriving DecidableEq, Repr

/-- The last source of a `.d` form: a pair, or SextI (R59). -/
inductive PSrc
  | reg (p : PairReg) | imm (v : Word)
  deriving DecidableEq, Repr

/-! ## Class 0 (R40, R58 to R64) -/

/-- Three operands, 32-bit or `.d`. -/
inductive Int3
  | w (d : WDst) (a : Src) (b : ISrc) | d (d : PairReg) (a : PairReg) (b : PSrc)
  deriving DecidableEq, Repr
/-- Three operands without a `.d` form. -/
structure Int3W where
  d : WDst
  a : Src
  b : ISrc
  deriving DecidableEq, Repr
/-- Two operands without an immediate form. -/
structure Int2W where
  d : WDst
  a : Src
  deriving DecidableEq, Repr
/-- `bfx`, `bfi`: position and length − 1 in X (R61). -/
structure BitField where
  d : WDst
  a : Src
  pos : Fin 32
  len1 : Fin 32
  deriving DecidableEq, Repr
/-- A compare: its `.d` form writes one 32-bit word (R59). -/
inductive Cmp
  | w (d : WDst) (a : Src) (b : ISrc) | d (d : WDst) (a : PairReg) (b : PSrc)
  deriving DecidableEq, Repr
structure SelOp where
  d : WDst
  a : Src
  b : Src
  c : Src
  deriving DecidableEq, Repr
/-- `lea`: shift in X, offset in I (R59). -/
inductive LeaOp
  | w (d : WDst) (a : Src) (b : Src) (s : Fin 8) (off : Word)
  | d (d : PairReg) (a : PairReg) (b : Src) (s : Fin 8) (off : Word)
  deriving DecidableEq, Repr
structure ChkOp where
  a : Src
  b : ISrc
  deriving DecidableEq, Repr
inductive MovOp
  | w (d : WDst) (a : ISrc) | d (d : PairReg) (a : PSrc)
  deriving DecidableEq, Repr
/-- The source of `kmov.d`: an even register or the immediate (R38). -/
inductive KSrc
  | reg (n : PairDst) | imm (v : Word)
  deriving DecidableEq, Repr
/-- `kmov`: `k` is the control-register number of X (R37, R38). -/
inductive KmovOp
  | w (k : Fin 43) (a : ISrc) | d (k : Fin 43) (a : KSrc)
  deriving DecidableEq, Repr
inductive KgetOp
  | w (d : WDst) (k : Fin 43) | d (d : PairDst) (k : Fin 43)
  deriving DecidableEq, Repr

/-! ## Class 1 (R41, R69) -/

/-- A label operand: lines from the transferring group's line, and the slot (R41). -/
structure Disp where
  lines : BitVec 26
  slot : Fin 8
  deriving DecidableEq, Repr
structure BccOp where
  a : Src
  b : Src
  i : Disp
  deriving DecidableEq, Repr
structure BdecOp where
  d : Fin 48
  i : Disp
  deriving DecidableEq, Repr
structure CallOp where
  d : PairDst
  i : Disp
  deriving DecidableEq, Repr
structure CallrOp where
  d : PairDst
  a : PairReg
  deriving DecidableEq, Repr
/-- `fork`: `n` arguments from register `a` (R69). -/
structure ForkOp where
  a : Fin 48
  n : Fin 7
  i : Disp
  deriving DecidableEq, Repr

/-! ## Class 2 (R42, R75 to R79) -/

/-- Address space and base (R76). -/
inductive Base
  | glob (p : PairReg) | sp (a : Src) | nb (a : Src)
  deriving DecidableEq, Repr
/-- The widths of one register. -/
inductive SubW
  | b | h | w
  deriving DecidableEq, Repr
/-- A load's destination with its width (R78). `quad n` is g(4n) to g(4n+3), `line n` is g(16n) to g(16n+15). -/
inductive LdDst
  | sub (wd : SubW) (d : Dst) | pair (p : PairDst) | dq (q : Fin 8)
  | quad (n : Fin 12) | quadO | quadQ (q : Fin 8) | line (n : Fin 3)
  deriving DecidableEq, Repr
/-- A store's data with its width (R78). -/
inductive StSrc
  | sub (wd : SubW) (a : Src) | pair (p : PairReg) | dq (q : Fin 8)
  | quad (n : Fin 12) | quadO | quadQ (q : Fin 8) | line (n : Fin 3)
  deriving DecidableEq, Repr
structure LdOp where
  d : LdDst
  base : Base
  off : Word
  deriving DecidableEq, Repr
/-- `lds`: a byte, or a halfword when `half`. -/
structure LdsOp where
  half : Bool
  d : Dst
  base : Base
  off : Word
  deriving DecidableEq, Repr
structure StOp where
  v : StSrc
  base : Base
  off : Word
  deriving DecidableEq, Repr
/-- The scopes, codes 0 to 10 (R57, R278). -/
inductive Scope
  | stream | core | team | cluster | quad | die | part | pkg | host | fab | sys
  deriving DecidableEq, Repr
structure PfOp where
  a : PairReg
  off : Word
  deriving DecidableEq, Repr
/-- A range: base pair and length (R85). -/
structure RangeOp where
  a : PairReg
  b : Src
  deriving DecidableEq, Repr
structure RinvOp where
  d : Dst
  a : PairReg
  b : Src
  deriving DecidableEq, Repr
/-- Destination and one source. -/
structure DA where
  d : Dst
  a : Src
  deriving DecidableEq, Repr
/-- Two sources. -/
structure AB where
  a : Src
  b : Src
  deriving DecidableEq, Repr
/-- A source and the offset I. -/
structure AOff where
  a : Src
  off : Word
  deriving DecidableEq, Repr
structure DAOff where
  d : Dst
  a : Src
  off : Word
  deriving DecidableEq, Repr
structure ABOff where
  a : Src
  b : Src
  off : Word
  deriving DecidableEq, Repr

/-! ## Class 3 (R43, R90) -/

/-- The order of an atomic (R34). -/
inductive Ord3
  | relaxed | acq | rel | ar
  deriving DecidableEq, Repr
inductive AmoArgs
  | w (d : Dst) (a : PairReg) (b : Src) | d (d : PairDst) (a : PairReg) (b : PairReg)
  deriving DecidableEq, Repr
structure AmoOp where
  args : AmoArgs
  ord : Ord3
  scope : Scope
  deriving DecidableEq, Repr
inductive CasArgs
  | w (d : Dst) (a : PairReg) (b : Src) (c : Src)
  | d (d : PairDst) (a : PairReg) (b : PairReg) (c : PairReg)
  deriving DecidableEq, Repr
structure CasOp where
  args : CasArgs
  ord : Ord3
  scope : Scope
  deriving DecidableEq, Repr

/-! ## Class 4 (R44, R65) -/

/-- The rounding modes (R102). -/
inductive Rm
  | rne | rtz | rup | rdn
  deriving DecidableEq, Repr
/-- A rounding form of three operands; no mode means `k.frm` (R66). -/
structure F3R where
  d : WDst
  a : Src
  b : ISrc
  rm : Option Rm
  deriving DecidableEq, Repr
structure F2R where
  d : WDst
  a : Src
  rm : Option Rm
  deriving DecidableEq, Repr

/-! ## Classes 5 and 6 (R45, R46, R127) -/

/-- Element types with their codes 0 to 5 (R34). -/
inductive VTy
  | i32 | f32 | i16 | bf16 | f16 | i8
  deriving DecidableEq, Repr
/-- A source: a vector register, a scalar, or the broadcast of I (code 0x7E). -/
inductive VSrc
  | v (n : Fin 128) | s (a : Src) | imm
  deriving DecidableEq, Repr
/-- A destination: a vector register, or a neighbour's window whose offset is I (R133). -/
inductive VDst
  | v (n : Fin 128) | win (dir : Dir) (slot : Fin 16)
  deriving DecidableEq, Repr
/-- Two-source element-wise forms. `i` is the field I: the broadcast value or the window offset. -/
structure V3 where
  ty : VTy
  d : VDst
  a : VSrc
  b : VSrc
  pred : Option (Fin 128)
  i : Word
  deriving DecidableEq, Repr
/-- `vfma`: the destination is also read. -/
structure VFma where
  ty : VTy
  d : Fin 128
  a : VSrc
  b : VSrc
  pred : Option (Fin 128)
  i : Word
  deriving DecidableEq, Repr
structure V2 where
  ty : VTy
  d : VDst
  a : VSrc
  pred : Option (Fin 128)
  i : Word
  deriving DecidableEq, Repr
structure VSelOp where
  ty : VTy
  d : VDst
  a : VSrc
  b : VSrc
  c : Fin 128
  pred : Option (Fin 128)
  i : Word
  deriving DecidableEq, Repr
structure VCvtOp where
  src : VTy
  dst : VTy
  d : VDst
  a : Fin 128
  pred : Option (Fin 128)
  i : Word
  deriving DecidableEq, Repr
structure VRandOp where
  ty : VTy
  d : VDst
  pred : Option (Fin 128)
  i : Word
  deriving DecidableEq, Repr
structure VRed where
  ty : VTy
  d : Fin 128
  a : Fin 128
  pred : Option (Fin 128)
  deriving DecidableEq, Repr
structure VResidOp where
  ty : VTy
  d : Fin 128
  a : Fin 128
  b : Fin 128
  pred : Option (Fin 128)
  deriving DecidableEq, Repr
/-- `vld`, `vmask`: scalar base and offset. -/
structure VLdOp where
  ty : VTy
  d : Fin 128
  a : Src
  pred : Option (Fin 128)
  off : Word
  deriving DecidableEq, Repr
structure VStOp where
  ty : VTy
  a : Src
  b : Fin 128
  pred : Option (Fin 128)
  off : Word
  deriving DecidableEq, Repr
structure VGathOp where
  ty : VTy
  d : Fin 128
  a : Src
  b : Fin 128
  pred : Option (Fin 128)
  off : Word
  deriving DecidableEq, Repr
structure VScatOp where
  ty : VTy
  a : Src
  b : Fin 128
  c : Fin 128
  pred : Option (Fin 128)
  off : Word
  deriving DecidableEq, Repr
/-- `gkey`, `gctr` (R150): the lane form names a vector register, the stream form a scalar code in D. -/
inductive GenOp
  | lane (d : Fin 128) (a : Src) (pred : Option (Fin 128)) | stream (d : Src) (a : Src)
  deriving DecidableEq, Repr

/-! ## Class 7 (R47, R165) -/

/-- Tile formats, codes 0 to 6 (R34). -/
inductive TFmt
  | i32 | f32 | i16 | bf16 | f16 | i8 | ps8
  deriving DecidableEq, Repr
/-- A tile register or an accumulator. -/
inductive TileX
  | tile (t : Fin 8) | acc (n : Fin 2)
  deriving DecidableEq, Repr
/-- `tld`, `texp`: tile, base, offset, `.take`. -/
structure TldOp where
  t : Fin 8
  a : Src
  off : Word
  take : Bool
  deriving DecidableEq, Repr
structure TstOp where
  a : Src
  t : TileX
  off : Word
  fill : Bool
  deriving DecidableEq, Repr
structure MwlOp where
  fmt : TFmt
  t : Fin 8
  tag : Byte
  deriving DecidableEq, Repr
structure MmaOp where
  fmt : TFmt
  acc : Fin 2
  t : Fin 8
  m : Src
  block : Fin 4
  tag : Byte
  deriving DecidableEq, Repr
/-- `mmt` (R177): receive and forward directions. -/
structure MmtOp where
  fmt : TFmt
  acc : Fin 2
  t : Fin 8
  m : Src
  block : Fin 4
  rx : Option Dir
  fwd : Option Dir
  tag : Byte
  deriving DecidableEq, Repr
structure MclrOp where
  acc : Fin 2
  tag : Byte
  deriving DecidableEq, Repr
/-- `mcvt` (R180): to `.bf16` when `bf`, else to `.f32`. -/
structure McvtOp where
  bf : Bool
  d : Fin 2
  a : Fin 2
  m : Src
  tile : Option (Fin 8)
  deriving DecidableEq, Repr
structure BsumOp where
  a : Fin 2
  b : PairDst
  tile : Option (Fin 8)
  deriving DecidableEq, Repr
/-- `bacc.i32` (R182): the running value is at g(2n). -/
structure BaccIOp where
  n : Fin 23
  a : Src
  b : Src
  deriving DecidableEq, Repr
structure BaccFOp where
  bf : Bool
  d : Dst
  n : Fin 23
  deriving DecidableEq, Repr
structure TmovOp where
  t : Fin 8
  u : Fin 8
  deriving DecidableEq, Repr

/-! ## Class 9 (R49, R276) -/

/-- What a form does when its queue is full (R241, R265). -/
inductive Full
  | stall | busy (d : Dst) | trap
  deriving DecidableEq, Repr
/-- `regs`: the sixteen words start at g(16 · regs). `net`: 0 request, 1 reply, 2 privileged. -/
structure SendOp where
  full : Full
  regs : Fin 3
  b : Src
  net : Fin 3
  deriving DecidableEq, Repr
structure SendmOp where
  full : Full
  regs : Fin 3
  b : Src
  c : Src
  net : Fin 3
  deriving DecidableEq, Repr
structure ReplOp where
  full : Full
  regs : Fin 3
  deriving DecidableEq, Repr
structure HdefOp where
  a : Src
  b : PairReg
  c : Src
  deriving DecidableEq, Repr
structure DcntOp where
  full : Full
  a : Src
  b : Src
  deriving DecidableEq, Repr
/-- `cpq`: the card is read from g(8n) to g(8n+7). -/
structure CpqOp where
  full : Full
  n : Fin 6
  tag : Byte
  deriving DecidableEq, Repr
structure CardOp where
  full : Full
  a : Src
  tag : Byte
  off : Word
  deriving DecidableEq, Repr
structure MbxOp where
  d : Dst
  a : Src
  b : Src
  deriving DecidableEq, Repr

/-! ## Class A (R50, R199) and class B (R51, R94) -/

structure DlineOp where
  n : Fin 3
  a : PairReg
  off : Word
  deriving DecidableEq, Repr
structure DpushOp where
  a : PairReg
  b : Src
  c : Src
  len : Word
  tag : BitVec 4
  deriving DecidableEq, Repr
/-- Status destination and row address. -/
structure DrowOp where
  d : Dst
  a : PairReg
  deriving DecidableEq, Repr
structure TlbprbOp where
  d : PairDst
  a : PairReg
  deriving DecidableEq, Repr

/-! ## The arguments of events -/

/-- What an uncorrectable error strikes (R341). Errors of granules and rows, those of copies and of payloads on their way
included (R338), poison; the others end work. -/
inductive ErrTarget
  | spGranule (core gran : Nat) | memGranule (pa : Nat) | vecRow (core row : Nat) | tileRow (core t row : Nat)
  | weightLatch (core : Nat) | activation (core : Nat) (unitCode : Byte) | fetchLine (core : Nat) (va : Nat)
  | waitingRecord (core k : Nat) | privRecord (core k : Nat) | redelivery (core k : Nat) | task (core k : Nat) | spilledRecord (core k : Nat) | sendRecord (core net k : Nat)
  | token (core k : Nat) | job (k : Nat) | fifoCard (core k : Nat) | dieTable (die : Nat) (unitCode : Byte)
  | copyGranule (cluster ln gran : Nat) | journalGranule (core gran : Nat)
  | flightGranule (k gran : Nat) | packetGranule (src dst k gran : Nat) | storeGranule (core : Nat) (hind : Bool) (k gran : Nat)
  | nbWrite (core k : Nat) | pushGranule (core k : Nat) | linkRow (k : Nat) | linkBuffer (core dir k : Nat)
  | bankWrite (bank k gran : Nat) | waitingLine (channel k gran : Nat)
  deriving DecidableEq, Repr

/-- A DMA access of a device behind a root port (R354): a read, or a write of one byte list. (DESIGN CHOICE, log entry 79.) -/
inductive DmaOp
  | read (pa len : Nat) | write (pa : Nat) (bytes : List Byte)
  deriving DecidableEq, Repr

/-- Who writes a device register (R356, R357). (DESIGN CHOICE, log entry 79.) -/
inductive RegAgent
  | application | management (die : Nat)
  deriving DecidableEq, Repr

/-- An access to a device register: who makes it, and how many bytes it has (R356). -/
structure RegAccess where
  agent : RegAgent
  bytes : Nat
  deriving DecidableEq, Repr

/-- A register of a partition as an access reaches it. -/
structure PartAccess where
  ac : RegAccess
  part : Nat
  deriving DecidableEq, Repr

/-- The three words of a bind record (R302). -/
structure BindWords where
  w0 : Word
  w1 : Word
  w2 : Word
  deriving DecidableEq, Repr

/-- A die of a package (R308, R310). -/
structure DieAt where
  pkg : Nat
  die : Nat
  deriving DecidableEq, Repr

/-- What a message between dies carries (R293): a write-back with its mask, the poison of its granules (R338), and the core and the
release round that count it, for one that goes before an access at the home (R280); a core's outstanding access; what a load has
read, and the number of the access that asked; or the answer to a store. -/
inductive PacketBody
  | writeBack (pa : Nat) (data : Line) (mask : BitVec 64) (poison : BitVec 4) (counted : Option (Nat × Nat))
  | access (core : Nat) (hind : Bool)
  | reply (core : Nat) (hind : Bool) (number value : Nat) (poison : BitVec 4)
  | ack
  deriving DecidableEq, Repr

/-- What another package sends to a core of this one (R294, R310): a record, and whether it counts as received when it is
accepted (R245, R319); a decrement, from a source, of the descriptor at an offset; tokens for a mailbox. -/
inductive FabricMsg
  | record (r : Line) (counts : Bool) | decrement (src off : Nat) | token (mbox n : Nat)
  deriving DecidableEq, Repr

/-- A firmware image as the boot ROM reads it (R361, R363). -/
structure Image where
  bytes : List Byte
  signature : List Byte
  version : Nat
  deriving DecidableEq, Repr

/-- A lane that joins two dies, or a fabric rail group (R347, R348). -/
inductive Link
  | boundary (a b : Nat) | group (k : Nat)
  deriving DecidableEq, Repr

/-! ## Instructions and events -/

/-- One constructor for each row of the operation table, in its order. The first 202 are instructions; from
`activationDispatch` on they are events, whose arguments name the unit they happen at. -/
inductive Instr
  | nop
  | add (f : Int3) | sub (f : Int3) | adds (f : Int3) | subs (f : Int3) | mul (f : Int3)
  | mulh (f : Int3W) | mulhu (f : Int3W)
  | div (f : Int3W) | divu (f : Int3W) | rem (f : Int3W) | remu (f : Int3W)
  | min (f : Int3) | max (f : Int3) | minu (f : Int3) | maxu (f : Int3)
  | and (f : Int3) | or (f : Int3) | xor (f : Int3) | andn (f : Int3)
  | shl (f : Int3) | shr (f : Int3) | sra (f : Int3) | rol (f : Int3)
  | clz (f : Int2W) | ctz (f : Int2W) | popc (f : Int2W)
  | bfx (f : BitField) | bfi (f : BitField)
  | seq (f : Cmp) | sne (f : Cmp) | slt (f : Cmp) | sge (f : Cmp) | sltu (f : Cmp) | sgeu (f : Cmp)
  | sel (f : SelOp) | lea (f : LeaOp) | chkb (f : ChkOp)
  | mov (f : MovOp) | kmov (f : KmovOp) | kget (f : KgetOp)
  | br (i : Disp) | bEq (f : BccOp) | bNe (f : BccOp) | bLt (f : BccOp) | bGe (f : BccOp) | bLtu (f : BccOp) | bGeu (f : BccOp)
  | bdec (f : BdecOp) | jr (a : PairReg) | call (f : CallOp) | callr (f : CallrOp) | ret (a : PairReg)
  | split (i : Disp) | haltH | done | fork (f : ForkOp) | join (f : AOff)
  | ld (f : LdOp) | lds (f : LdsOp) | ldAcq (f : LdOp) (sc : Scope) | ldVol (f : LdOp) | ldTake (f : LdOp) | ldWait (f : LdOp)
  | st (f : StOp) | stRel (f : StOp) (sc : Scope) | stVol (f : StOp) | stFill (f : StOp)
  | pf (f : PfOp) | rwb (f : RangeOp) | rinv (f : RinvOp) | rinvChk (f : RinvOp) | cobj (f : DA) | cfree (a : Src)
  | fset (f : AOff) | fclr (f : AOff) | fget (f : DAOff) | ltag (f : ABOff)
  | amoAdd (f : AmoOp) | amoMin (f : AmoOp) | amoMax (f : AmoOp) | amoAnd (f : AmoOp) | amoOr (f : AmoOp) | amoXor (f : AmoOp)
  | amoSwap (f : AmoOp) | cas (f : CasOp)
  | fenceAcq (sc : Scope) | fenceRel (sc : Scope) | fenceAr (sc : Scope) | relq (d : Dst) (sc : Scope)
  | fadd (f : F3R) | fsub (f : F3R) | fmul (f : F3R) | fma (f : F3R) | fms (f : F3R) | fdiv (f : F3R) | fsqrt (f : F2R)
  | fmin (f : Int3W) | fmax (f : Int3W) | fabs (f : Int2W) | fneg (f : Int2W) | feq (f : Int3W) | flt (f : Int3W) | fle (f : Int3W)
  | fcvtI32F32 (f : F2R) | fcvtU32F32 (f : F2R) | fcvtF32I32 (f : F2R) | fcvtF32U32 (f : F2R) | fclass (f : Int2W)
  | vadd (f : V3) | vsub (f : V3) | vmul (f : V3) | vfma (f : VFma) | vmin (f : V3) | vmax (f : V3) | vabs (f : V2) | vneg (f : V2)
  | vadds (f : V3) | vsubs (f : V3) | vand (f : V3) | vor (f : V3) | vxor (f : V3) | vshl (f : V3) | vshr (f : V3) | vsra (f : V3)
  | vceq (f : V3) | vcne (f : V3) | vclt (f : V3) | vcle (f : V3) | vsel (f : VSelOp) | vmov (f : V2)
  | vld (f : VLdOp) | vst (f : VStOp) | vgath (f : VGathOp) | vscat (f : VScatOp)
  | vcvt (f : VCvtOp) | vcvtSr (f : VCvtOp)
  | vexp2 (f : V2) | vlog2 (f : V2) | vrcp (f : V2) | vrsqrt (f : V2) | vtanh (f : V2)
  | vmaxr (f : VRed) | vsum (f : VRed) | vresid (f : VResidOp) | vmask (f : VLdOp) | vpop (f : VRed) | vrand (f : VRandOp)
  | gkey (f : GenOp) | gctr (f : GenOp)
  | tld (f : TldOp) | tst (f : TstOp) | texp (f : TldOp) | mwl (f : MwlOp) | mma (f : MmaOp) | mmt (f : MmtOp) | mclr (f : MclrOp)
  | mcvt (f : McvtOp) | bsum (f : BsumOp) | baccI32 (f : BaccIOp) | baccFloat (f : BaccFOp)
  | msync | mstat (d : Dst) | tzero (t : Fin 8) | tmov (f : TmovOp)
  | pbeg | pcom (f : DA) | pabt | psta (d : Dst) | pcap (d : Dst)
  | send (f : SendOp) | sendm (f : SendmOp) | repl (f : ReplOp) | hdef (f : HdefOp)
  | dqctlStat (d : Dst) | dqctlLim (a : Src) | dqctlSpill (a : Src) | dqctlUnspill
  | dcnt (f : DcntOp) | cpq (f : CpqOp) | gath (f : CardOp) | coll (f : CardOp)
  | evx (f : AB) | evw (f : DA) | mbx (f : MbxOp) | mack (f : AB)
  | dldL (f : DlineOp) | dstL (f : DlineOp) | dpush (f : DpushOp)
  | dpro (f : DrowOp) | ddem (f : DrowOp) | dpin (f : DrowOp) | dpinClr (f : DrowOp) | dstat (f : DrowOp)
  | trap (i : Word) | svc (i : Word) | rett | tlbinv (a : PairReg) | tlbinva | tlbprb (f : TlbprbOp)
  | rdcyc (d : PairDst) | rdtime (d : PairDst)
  | activationDispatch (core : Nat) | recordArrival (k : Nat) | memoryQueueTakeBack (core : Nat) | recordAging (core k : Nat)
  | sendQueueDepart (core net : Nat) | multicastAckComplete (k : Nat) | mackTokenArrival (k : Nat) | dcntArrival (k : Nat)
  | stealRequest (core : Nat) | stealAnswer (core : Nat) | stealBackoffExpiry (core : Nat)
  | mxuCommandStart (core : Nat) | mxuRowStream (core : Nat) | governorWindow (die : Nat) | linkRowArrival (k : Nat)
  | mxuCommandComplete (core : Nat) | vectorInstructionComplete (core : Nat)
  | globalLoadReturn (core : Nat) (hind : Bool) (k : Nat) | accessAtHome (core : Nat) (hind : Bool) (k : Nat)
  | releaseQueryReply (core : Nat) | proposalLockGrant (core : Nat) (hind : Bool)
  | neighbourWriteArrival (core : Nat) | dpushGranuleArrival (core : Nat) | bankOperation (bank : Nat) | pageWalkLevel (k : Nat)
  | cardLeavesFifo (core : Nat) | jobEntersInbox (k : Nat) | copyGranule (k : Nat) | gatherElement (k : Nat)
  | collectiveGroupExecute (k : Nat) | jobRetry (k : Nat) | jobComplete (k : Nat) | termFire (core t : Nat)
  | bindRecordWrite (ac : RegAccess) (die team : Nat) (w : BindWords) (twin : Option Nat) | teamUnbind (die team : Nat) 
  | teamMigration (src : DieAt) (team : Nat) (dst : DieAt) (toTeam : Nat)
  | claimRecordArrival (k : Nat) | claimDelivery (die pool : Nat) | egressSend (slot : Nat)
  | quiescenceSweep (part : Nat) | sweepResult (part : Nat)
  | launchEntrySkip (part : Nat) | launchEntryRecord (part : Nat) | launchEntryHandler (part : Nat) | launchEntryControl (part : Nat)
  | launchEntryScratchpad (part : Nat) | launchEntryDram (part : Nat) | launchEntryBatchEnd (part : Nat)
  | lchStatRetry (part : Nat) | lchStatSkip (part : Nat) | lchTailWrite (part : Nat) (v : Word)
  | partSupWrite (reg : PartAccess) (v : Word) | partQosWrite (reg : PartAccess) (v : Word)
  | diePartWrite (ac : RegAccess) (die : Nat) (v : Word) | partNinjSend (reg : PartAccess)
  | deviceRegisterWrite (ac : RegAccess) (addr : Nat) (v : Word) | heldNoticeDelivery (part : Nat)
  | uncorrectableError (t : ErrTarget)
  | partitionPreempt (part incoming : Nat) | partitionReset (part : Nat) | deviceInterrupt (part : Nat) (vector : Word)
  | dieLinkPacketArrival (src dst seqNo : Nat) (body : PacketBody) (alt : Bool) (lost : Nat)
  | fabricRecordArrival (dst fromPkg : Nat) (m : FabricMsg) (seqNo : Nat)
  | railLoss (l : Link) | retrainComplete (l : Link) | boundaryDown (l : Link) | retrainRetry (l : Link) (ok : Bool)
  | boot (fw app : Image) | attestationRequest (nonce : BitVec 256) | deviceDma (op : DmaOp)
  | egressSlotControlWrite (slot : Nat) (v : Word) | packageNumberAssignment (n : Nat)
  deriving DecidableEq, Repr

end Sys2Proof
end

