-- ==== Sys2Proof/WellFormed.lean ====
section
/-!
DEFINITION. Which instructions are well formed: what the operand types of Syntax.lean do not say and the rules on
fields do (R31 to R38, R58 to R69, R75 to R79, R127 to R150, R165). The decoder refuses every other word as ILLOP.
-/

namespace Sys2Proof

/-! ## One field for two uses -/

/-- A window takes I for its offset (R32), so the immediate form excludes it (Q[0] must be 0). -/
def WDst.free : WDst → ISrc → Bool
  | .win _ _ _, .imm _ => false
  | _, _ => true

def WDst.freeP : WDst → PSrc → Bool
  | .win _ _ _, .imm _ => false
  | _, _ => true

def Int3.wf : Int3 → Bool
  | .w dst _ b => dst.free b
  | .d _ _ _ => true

def Int3W.wf (f : Int3W) : Bool := f.d.free f.b

def Cmp.wf : Cmp → Bool
  | .w dst _ b => dst.free b
  | .d dst _ b => dst.freeP b

/-- `bfx`, `bfi`: position + length at most 32 (R61). -/
def BitField.wf (f : BitField) : Bool := f.pos.val + f.len1.val < 32

/-- A destination that is also read is no window: a window is no source (R32, R61, R65). -/
def WDst.readable : WDst → Bool
  | .win _ _ _ => false
  | _ => true

/-- With a window destination, `lea`'s offset and the window's are one field I (R32, R58). -/
def LeaOp.wf : LeaOp → Bool
  | .w (.win _ _ o) _ _ _ off => o == off
  | _ => true

def MovOp.wf : MovOp → Bool
  | .w dst a => dst.free a
  | .d _ _ => true

/-- The control registers marked RO in R37. -/
def readOnlyK (k : Fin 43) : Bool := k.val == 11 || k.val == 15 || k.val == 41 || k.val == 42

/-- R38: a write to a register marked RO is ILLOP. -/
def KmovOp.wf : KmovOp → Bool
  | .w k _ => !readOnlyK k
  | .d k _ => !readOnlyK k

def F3R.wf (f : F3R) : Bool := f.d.free f.b

/-- R69. -/
def ForkOp.wf (f : ForkOp) : Bool :=
  if f.n.val = 0 then f.a.val == 0 else f.a.val + f.n.val ≤ 48

/-! ## Memory forms (R75, R79) -/

def LdDst.wordOrPair : LdDst → Bool
  | .sub .w _ | .pair _ | .dq _ => true
  | _ => false

def StSrc.wordOrPair : StSrc → Bool
  | .sub .w _ | .pair _ | .dq _ => true
  | _ => false

/-- An even main-file pair: where a table of the spec names one and not gz (R78, R90, R94, R199, R276). -/
def PairReg.main : PairReg → Bool
  | .even _ => true
  | .gz => false

/-- R78: `st.d` takes an even pair, or a queue register. (DEDUCED, log entry 16.) -/
def StSrc.wf : StSrc → Bool
  | .pair p => p.main
  | _ => true

/-- R90: with `.d`, B and C name even main-file pairs. (DEDUCED, log entry 16.) -/
def AmoArgs.wf : AmoArgs → Bool
  | .w _ _ _ => true
  | .d _ _ b => b.main

def CasArgs.wf : CasArgs → Bool
  | .w _ _ _ _ => true
  | .d _ _ b c => b.main && c.main

def Base.isGlobal : Base → Bool
  | .glob _ => true
  | _ => false

/-! ## Vector forms (R127, R132) -/

def VTy.isInt : VTy → Bool
  | .i32 | .i16 | .i8 => true
  | _ => false

def VTy.isFloat : VTy → Bool
  | .f32 | .bf16 | .f16 => true
  | _ => false

def VSrc.isImm : VSrc → Bool
  | .imm => true
  | _ => false

def VDst.isWin : VDst → Bool
  | .win _ _ => true
  | _ => false

/-- R127, last paragraph: a window excludes a predicate and the broadcast of I, and I is zero where neither uses it. -/
def vFields (d : VDst) (pred : Option (Fin 128)) (useImm : Bool) (i : Word) : Bool :=
  if d.isWin then pred.isNone && !useImm else useImm || i == 0

def V3.wf (f : V3) : Bool := vFields f.d f.pred (f.a.isImm || f.b.isImm) f.i
def V2.wf (f : V2) : Bool := vFields f.d f.pred f.a.isImm f.i
def VFma.wf (f : VFma) : Bool := vFields (.v f.d) f.pred (f.a.isImm || f.b.isImm) f.i
def VSelOp.wf (f : VSelOp) : Bool := vFields f.d f.pred (f.a.isImm || f.b.isImm) f.i
def VCvtOp.wf (f : VCvtOp) : Bool := vFields f.d f.pred false f.i
def VRandOp.wf (f : VRandOp) : Bool := vFields f.d f.pred false f.i && (f.ty == .i32 || f.ty == .f32)

/-- The element-wise members for any numeric type, for integers only, for floats only (R132, R137). -/
def VTy.isNum (t : VTy) : Bool := t.isInt || t.isFloat

/-- Well-formedness of an instruction. Events have none: their arguments are any. -/
def Instr.wf : Instr → Bool
  | .add f | .sub f | .adds f | .subs f | .mul f | .min f | .max f | .minu f | .maxu f
  | .and f | .or f | .xor f | .andn f | .shl f | .shr f | .sra f | .rol f => f.wf
  | .mulh f | .mulhu f | .div f | .divu f | .rem f | .remu f => f.wf
  | .fmin f | .fmax f | .feq f | .flt f | .fle f => f.wf
  | .bfx f => f.wf
  | .bfi f => f.wf && f.d.readable
  | .seq f | .sne f | .slt f | .sge f | .sltu f | .sgeu f => f.wf
  | .lea f => f.wf
  | .mov f => f.wf
  | .kmov f => f.wf
  | .fadd f | .fsub f | .fmul f | .fdiv f => f.wf
  | .fma f | .fms f => f.wf && f.d.readable
  | .fork f => f.wf
  | .ldAcq f _ => f.base.isGlobal && f.d.wordOrPair
  | .st f => f.v.wf
  | .stRel f _ => f.base.isGlobal && f.v.wordOrPair && f.v.wf
  | .ldVol f => f.base.isGlobal
  | .stVol f => f.base.isGlobal && f.v.wf
  | .ldTake f | .ldWait f => !f.base.isGlobal
  | .stFill f => !f.base.isGlobal && f.v.wf
  | .amoAdd f | .amoMin f | .amoMax f | .amoAnd f | .amoOr f | .amoXor f | .amoSwap f => f.args.wf
  | .cas f => f.args.wf
  | .tlbinv a => a.main
  | .tlbprb f => f.a.main
  | .hdef f => f.b.main
  | .dldL f | .dstL f => f.a.main
  | .dpush f => f.a.main
  | .dpro f | .ddem f | .dpin f | .dpinClr f | .dstat f => f.a.main
  | .vadd f | .vsub f | .vmul f | .vmin f | .vmax f | .vceq f | .vcne f | .vclt f | .vcle f => f.wf
  | .vadds f | .vsubs f | .vand f | .vor f | .vxor f | .vshl f | .vshr f | .vsra f => f.wf && f.ty.isInt
  | .vfma f => f.wf
  | .vabs f | .vneg f | .vmov f => f.wf
  | .vsel f => f.wf
  | .vcvt f => f.wf
  | .vcvtSr f => f.wf && f.src == .f32 && f.dst == .bf16
  | .vexp2 f | .vlog2 f | .vrcp f | .vrsqrt f | .vtanh f => f.wf && f.ty.isFloat
  | .vresid f => f.ty.isFloat
  | .vmask f => f.ty == .i32 || f.ty == .i16
  | .vrand f => f.wf
  | _ => true

end Sys2Proof
end

