-- ==== Sys2Proof/Decode.lean ====
section
/-!
DEFINITION. The encoding of instructions: the fields of a 96-bit word (R31), the code of every operand (R32 to R34),
the encoder, the decoder, and `decodeTableWord`. A word that the encoder does not give for a well-formed instruction
is no instruction: every field that a form leaves unused, and every reserved bit, must be zero (R31, R52).
-/

namespace Sys2Proof

/-! ## Fields (R31) -/

structure Fields where
  cls : BitVec 4
  minor : BitVec 8
  q : BitVec 4
  d : BitVec 8
  a : BitVec 8
  b : BitVec 8
  c : BitVec 8
  x : BitVec 16
  i : Word
  deriving DecidableEq, Repr

def Fields.pack (f : Fields) : Code :=
  f.cls ++ f.minor ++ f.q ++ f.d ++ f.a ++ f.b ++ f.c ++ f.x ++ f.i

def Fields.ofCode (w : Code) : Fields :=
  { cls := w.extractLsb' 92 4, minor := w.extractLsb' 84 8, q := w.extractLsb' 80 4, d := w.extractLsb' 72 8,
    a := w.extractLsb' 64 8, b := w.extractLsb' 56 8, c := w.extractLsb' 48 8, x := w.extractLsb' 32 16,
    i := w.extractLsb' 0 32 }

/-- A form's fields before its operands are filled in. -/
def Fields.form (cls minor : Nat) : Fields :=
  ⟨BitVec.ofNat 4 cls, BitVec.ofNat 8 minor, 0, 0, 0, 0, 0, 0, 0⟩

/-! ## Operand codes (R32) -/

/-- An element of `Fin n`, if the number is one. -/
def toFin (n k : Nat) : Option (Fin n) := if h : k < n then some ⟨k, h⟩ else none

def Src.code : Src → BitVec 8
  | .g n => BitVec.ofNat 8 n.val
  | .gz => 63
  | .o n => BitVec.ofNat 8 (0x40 + n.val)
  | .x n => BitVec.ofNat 8 (0x80 + n.val)
  | .q n => BitVec.ofNat 8 (0x90 + n.val)

def Src.ofCode (c : BitVec 8) : Option Src :=
  let k := c.toNat
  if k < 48 then (toFin 48 k).map .g
  else if k = 63 then some .gz
  else if k < 0x40 then none
  else if k < 0x48 then (toFin 8 (k - 0x40)).map .o
  else if k < 0x80 then none
  else if k < 0x82 then (toFin 2 (k - 0x80)).map .x
  else if k < 0x90 then none
  else if k < 0x98 then (toFin 8 (k - 0x90)).map .q
  else none

def Dst.code : Dst → BitVec 8
  | .g n => BitVec.ofNat 8 n.val
  | .gz => 63
  | .o n => BitVec.ofNat 8 (0x40 + n.val)
  | .q n => BitVec.ofNat 8 (0x90 + n.val)

def Dst.ofCode (c : BitVec 8) : Option Dst :=
  match Src.ofCode c with
  | some (.g n) => some (.g n)
  | some .gz => some .gz
  | some (.o n) => some (.o n)
  | some (.q n) => some (.q n)
  | _ => none

def Dir.val : Dir → Nat
  | .n => 0 | .e => 1 | .s => 2 | .w => 3

def Dir.ofVal (k : Nat) : Dir :=
  match k % 4 with
  | 0 => .n | 1 => .e | 2 => .s | _ => .w

def WDst.code : WDst → BitVec 8
  | .reg d => d.code
  | .win dir slot _ => BitVec.ofNat 8 (0xC0 + 16 * dir.val + slot.val)

/-- What a destination puts into I when it is a window. -/
def WDst.off : WDst → Word
  | .reg _ => 0
  | .win _ _ o => o

def WDst.ofCode (c : BitVec 8) (i : Word) : Option WDst :=
  let k := c.toNat
  if 0xC0 ≤ k then (toFin 16 (k % 16)).map fun s => .win (Dir.ofVal (k / 16)) s i
  else (Dst.ofCode c).map .reg

def PairReg.code : PairReg → BitVec 8
  | .even n => BitVec.ofNat 8 (2 * n.val)
  | .gz => 63

/-- R55: an even main-file register, or gz. -/
def PairReg.ofCode (c : BitVec 8) : Option PairReg :=
  let k := c.toNat
  if k = 63 then some .gz
  else if k % 2 = 0 then (toFin 24 (k / 2)).map .even
  else none

def pairCode (n : PairDst) : BitVec 8 := BitVec.ofNat 8 (2 * n.val)

def pairOf (c : BitVec 8) : Option PairDst :=
  if c.toNat % 2 = 0 then toFin 24 (c.toNat / 2) else none

def gCode (n : Fin 48) : BitVec 8 := BitVec.ofNat 8 n.val
def gOf (c : BitVec 8) : Option (Fin 48) := toFin 48 c.toNat
def qCode (n : Fin 8) : BitVec 8 := BitVec.ofNat 8 (0x90 + n.val)
def tileCode (n : Fin 8) : BitVec 8 := BitVec.ofNat 8 (0xA0 + n.val)
def tileOf (c : BitVec 8) : Option (Fin 8) := if 0xA0 ≤ c.toNat then toFin 8 (c.toNat - 0xA0) else none
def accCode (n : Fin 2) : BitVec 8 := BitVec.ofNat 8 (0xB0 + n.val)
def accOf (c : BitVec 8) : Option (Fin 2) := if 0xB0 ≤ c.toNat then toFin 2 (c.toNat - 0xB0) else none

def TileX.code : TileX → BitVec 8
  | .tile t => tileCode t
  | .acc n => accCode n

def TileX.ofCode (c : BitVec 8) : Option TileX :=
  match tileOf c with
  | some t => some (.tile t)
  | none => (accOf c).map .acc

/-- The vectors' scalar codes (R32): bit 7 set. -/
def Src.vcode : Src → BitVec 8
  | .g n => BitVec.ofNat 8 (0x80 + n.val)
  | .o n => BitVec.ofNat 8 (0xB0 + n.val)
  | .x n => BitVec.ofNat 8 (0xB8 + n.val)
  | .q n => BitVec.ofNat 8 (0xC0 + n.val)
  | .gz => 0xFF

/-- A scalar operand of classes 5 and 6. Code 0x7E, the immediate, is none: I has another use there (R32, R127). (DESIGN CHOICE,
log entry 86.) -/
def Src.ofVcode (c : BitVec 8) : Option Src :=
  let k := c.toNat
  if k < 0x80 then none
  else if k < 0xB0 then (toFin 48 (k - 0x80)).map .g
  else if k < 0xB8 then (toFin 8 (k - 0xB0)).map .o
  else if k < 0xBA then (toFin 2 (k - 0xB8)).map .x
  else if k < 0xC0 then none
  else if k < 0xC8 then (toFin 8 (k - 0xC0)).map .q
  else if k = 0xFF then some .gz
  else none

def VSrc.code : VSrc → BitVec 8
  | .v n => BitVec.ofNat 8 n.val
  | .s a => a.vcode
  | .imm => 0xFE

def VSrc.ofCode (c : BitVec 8) : Option VSrc :=
  if c.toNat < 128 then (toFin 128 c.toNat).map .v
  else if c.toNat = 0xFE then some .imm
  else (Src.ofVcode c).map .s

def vCode (n : Fin 128) : BitVec 8 := BitVec.ofNat 8 n.val
def vOf (c : BitVec 8) : Option (Fin 128) := toFin 128 c.toNat

/-! ## Immediates and displacements (R33, R41) -/

def ISrc.code : ISrc → BitVec 8
  | .reg s => s.code
  | .imm _ => 0

/-- Q[0] of an immediate form. -/
def ISrc.q : ISrc → BitVec 4
  | .reg _ => 0
  | .imm _ => 1

/-- I: the immediate, or else what the destination puts there. -/
def ISrc.i (b : ISrc) (other : Word) : Word :=
  match b with
  | .reg _ => other
  | .imm v => v

def ISrc.ofCode (imm : Bool) (c : BitVec 8) (i : Word) : Option ISrc :=
  if imm then some (.imm i) else (Src.ofCode c).map .reg

def PSrc.code : PSrc → BitVec 8
  | .reg p => p.code
  | .imm _ => 0

def PSrc.q : PSrc → BitVec 4
  | .reg _ => 2
  | .imm _ => 3

def PSrc.i (b : PSrc) (other : Word) : Word :=
  match b with
  | .reg _ => other
  | .imm v => v

def PSrc.ofCode (imm : Bool) (c : BitVec 8) (i : Word) : Option PSrc :=
  if imm then some (.imm i) else (PairReg.ofCode c).map .reg

def KSrc.code : KSrc → BitVec 8
  | .reg n => pairCode n
  | .imm _ => 0

def Disp.code (t : Disp) : Word := (t.lines ++ (0 : BitVec 3)) ++ BitVec.ofNat 3 t.slot.val

def Disp.ofCode (i : Word) : Option Disp :=
  (toFin 8 (i.toNat % 8)).map fun s => ⟨i.extractLsb' 6 26, s⟩

/-! ## Scopes, types, formats, modes (R34) -/

def Scope.val : Scope → Nat
  | .stream => 0 | .core => 1 | .team => 2 | .cluster => 3 | .quad => 4 | .die => 5
  | .part => 6 | .pkg => 7 | .host => 8 | .fab => 9 | .sys => 10

def Scope.ofVal : Nat → Option Scope
  | 0 => some .stream | 1 => some .core | 2 => some .team | 3 => some .cluster | 4 => some .quad | 5 => some .die
  | 6 => some .part | 7 => some .pkg | 8 => some .host | 9 => some .fab | 10 => some .sys | _ => none

def VTy.val : VTy → Nat
  | .i32 => 0 | .f32 => 1 | .i16 => 2 | .bf16 => 3 | .f16 => 4 | .i8 => 5

def VTy.ofVal : Nat → Option VTy
  | 0 => some .i32 | 1 => some .f32 | 2 => some .i16 | 3 => some .bf16 | 4 => some .f16 | 5 => some .i8 | _ => none

def TFmt.val : TFmt → Nat
  | .i32 => 0 | .f32 => 1 | .i16 => 2 | .bf16 => 3 | .f16 => 4 | .i8 => 5 | .ps8 => 6

def TFmt.ofVal : Nat → Option TFmt
  | 0 => some .i32 | 1 => some .f32 | 2 => some .i16 | 3 => some .bf16 | 4 => some .f16 | 5 => some .i8
  | 6 => some .ps8 | _ => none

def rmVal : Option Rm → Nat
  | none => 0 | some .rne => 1 | some .rtz => 2 | some .rup => 3 | some .rdn => 4

def rmOf : Nat → Option (Option Rm)
  | 0 => some none | 1 => some (some .rne) | 2 => some (some .rtz) | 3 => some (some .rup) | 4 => some (some .rdn)
  | _ => none

def Ord3.val : Ord3 → Nat
  | .relaxed => 0 | .acq => 1 | .rel => 2 | .ar => 3

def Ord3.ofVal : Nat → Option Ord3
  | 0 => some .relaxed | 1 => some .acq | 2 => some .rel | 3 => some .ar | _ => none

/-! ## Encoding, shape by shape -/

section
variable (cls minor : Nat)

def Int3.fields : Int3 → Fields
  | .w dst a b => { Fields.form cls minor with q := b.q, d := dst.code, a := a.code, b := b.code, i := b.i dst.off }
  | .d dst a b => { Fields.form cls minor with q := b.q, d := dst.code, a := a.code, b := b.code, i := b.i 0 }

def Int3W.fields (f : Int3W) : Fields :=
  { Fields.form cls minor with q := f.b.q, d := f.d.code, a := f.a.code, b := f.b.code, i := f.b.i f.d.off }

def Int2W.fields (f : Int2W) : Fields :=
  { Fields.form cls minor with d := f.d.code, a := f.a.code, i := f.d.off }

def BitField.fields (f : BitField) : Fields :=
  { Fields.form cls minor with d := f.d.code, a := f.a.code, x := BitVec.ofNat 16 (256 * f.pos.val + f.len1.val), i := f.d.off }

def Cmp.fields : Cmp → Fields
  | .w dst a b => { Fields.form cls minor with q := b.q, d := dst.code, a := a.code, b := b.code, i := b.i dst.off }
  | .d dst a b => { Fields.form cls minor with q := b.q, d := dst.code, a := a.code, b := b.code, i := b.i dst.off }

def SelOp.fields (f : SelOp) : Fields :=
  { Fields.form cls minor with d := f.d.code, a := f.a.code, b := f.b.code, c := f.c.code, i := f.d.off }

def LeaOp.fields : LeaOp → Fields
  | .w dst a b s off => { Fields.form cls minor with d := dst.code, a := a.code, b := b.code, x := BitVec.ofNat 16 s.val, i := off }
  | .d dst a b s off =>
    { Fields.form cls minor with q := 2, d := dst.code, a := a.code, b := b.code, x := BitVec.ofNat 16 s.val, i := off }

def ChkOp.fields (f : ChkOp) : Fields :=
  { Fields.form cls minor with q := f.b.q, a := f.a.code, b := f.b.code, i := f.b.i 0 }

def MovOp.fields : MovOp → Fields
  | .w dst a => { Fields.form cls minor with q := a.q, d := dst.code, a := a.code, i := a.i dst.off }
  | .d dst a => { Fields.form cls minor with q := a.q, d := dst.code, a := a.code, i := a.i 0 }

def KmovOp.fields : KmovOp → Fields
  | .w k a => { Fields.form cls minor with q := a.q, a := a.code, x := BitVec.ofNat 16 k.val, i := a.i 0 }
  | .d k (.reg n) => { Fields.form cls minor with q := 2, a := pairCode n, x := BitVec.ofNat 16 k.val }
  | .d k (.imm v) => { Fields.form cls minor with q := 3, x := BitVec.ofNat 16 k.val, i := v }

def KgetOp.fields : KgetOp → Fields
  | .w dst k => { Fields.form cls minor with d := dst.code, x := BitVec.ofNat 16 k.val, i := dst.off }
  | .d n k => { Fields.form cls minor with q := 2, d := pairCode n, x := BitVec.ofNat 16 k.val }

def BccOp.fields (q : Nat) (f : BccOp) : Fields :=
  { Fields.form 1 1 with q := BitVec.ofNat 4 q, a := f.a.code, b := f.b.code, i := f.i.code }

def ForkOp.fields (f : ForkOp) : Fields :=
  { Fields.form 1 0x0A with a := gCode f.a, x := BitVec.ofNat 16 f.n.val, i := f.i.code }

/-- Q[1:0] of an address space, and the base's code (R34, R76). -/
def Base.q : Base → BitVec 4
  | .glob _ => 0 | .sp _ => 1 | .nb _ => 2
def Base.code : Base → BitVec 8
  | .glob p => p.code | .sp a => a.code | .nb a => a.code

def SubW.val : SubW → Nat
  | .b => 0 | .h => 1 | .w => 2

/-- Width code of R34 and the operand's code (R78). -/
def LdDst.width : LdDst → Nat
  | .sub sw _ => sw.val | .pair _ => 3 | .dq _ => 3 | .quad _ => 4 | .quadO => 4 | .quadQ _ => 4 | .line _ => 5
def LdDst.code : LdDst → BitVec 8
  | .sub _ d => d.code | .pair p => pairCode p | .dq q => qCode q | .quad n => BitVec.ofNat 8 (4 * n.val) | .quadO => 0x40
  | .quadQ q => qCode q | .line n => BitVec.ofNat 8 (16 * n.val)
def StSrc.width : StSrc → Nat
  | .sub sw _ => sw.val | .pair _ => 3 | .dq _ => 3 | .quad _ => 4 | .quadO => 4 | .quadQ _ => 4 | .line _ => 5
def StSrc.code : StSrc → BitVec 8
  | .sub _ a => a.code | .pair p => p.code | .dq q => qCode q | .quad n => BitVec.ofNat 8 (4 * n.val) | .quadO => 0x40
  | .quadQ q => qCode q | .line n => BitVec.ofNat 8 (16 * n.val)

/-- X of classes 2 and 3: mode or order, scope, width. -/
def memX (mode scope width : Nat) : BitVec 16 := BitVec.ofNat 16 (mode + 16 * scope + 256 * width)

def LdOp.fields (minor mode scope : Nat) (f : LdOp) : Fields :=
  { Fields.form 2 minor with q := f.base.q, d := f.d.code, a := f.base.code, x := memX mode scope f.d.width, i := f.off }

def LdsOp.fields (f : LdsOp) : Fields :=
  { Fields.form 2 1 with q := f.base.q, d := f.d.code, a := f.base.code, x := memX 0 0 f.half.toNat, i := f.off }

def StOp.fields (mode scope : Nat) (f : StOp) : Fields :=
  { Fields.form 2 2 with q := f.base.q, a := f.base.code, b := f.v.code, x := memX mode scope f.v.width, i := f.off }

def RinvOp.fields (f : RinvOp) : Fields :=
  { Fields.form 2 minor with d := f.d.code, a := f.a.code, b := f.b.code }

/-- The scratchpad forms of class 2 with Q = `.sp`. -/
def spForm (d a b : BitVec 8) (off : Word) : Fields := { Fields.form 2 minor with q := 1, d := d, a := a, b := b, i := off }

def AmoOp.fields (f : AmoOp) : Fields :=
  match f.args with
  | .w dst a b => { Fields.form 3 minor with d := dst.code, a := a.code, b := b.code, x := memX f.ord.val f.scope.val 2 }
  | .d dst a b => { Fields.form 3 minor with d := pairCode dst, a := a.code, b := b.code, x := memX f.ord.val f.scope.val 3 }

def CasOp.fields (f : CasOp) : Fields :=
  match f.args with
  | .w dst a b c =>
    { Fields.form 3 7 with d := dst.code, a := a.code, b := b.code, c := c.code, x := memX f.ord.val f.scope.val 2 }
  | .d dst a b c =>
    { Fields.form 3 7 with d := pairCode dst, a := a.code, b := b.code, c := c.code, x := memX f.ord.val f.scope.val 3 }

def F3R.fields (f : F3R) : Fields :=
  { Fields.form 4 minor with q := f.b.q ||| BitVec.ofNat 4 (2 * rmVal f.rm), d := f.d.code, a := f.a.code, b := f.b.code,
                             i := f.b.i f.d.off }

def F2R.fields (f : F2R) : Fields :=
  { Fields.form 4 minor with q := BitVec.ofNat 4 (2 * rmVal f.rm), d := f.d.code, a := f.a.code, i := f.d.off }

/-- X of classes 5 and 6 (R127). -/
def vecX (d : VDst) (pred : Option (Fin 128)) : BitVec 16 :=
  (match d with
    | .v _ => 0
    | .win dir slot => BitVec.ofNat 16 (128 + 32 * dir.val + 2 * slot.val)) |||
  (match pred with
    | none => 0
    | some p => BitVec.ofNat 16 (0x8000 + 256 * p.val))

def VDst.code : VDst → BitVec 8
  | .v n => vCode n
  | .win _ _ => 0

/-- The fields of a class 5 or 6 form. -/
def vecForm (ty : VTy) (d : VDst) (pred : Option (Fin 128)) (a b c : BitVec 8) (i : Word) : Fields :=
  { Fields.form cls minor with q := BitVec.ofNat 4 ty.val, d := d.code, a := a, b := b, c := c, x := vecX d pred, i := i }

def V3.fields (f : V3) : Fields := vecForm cls minor f.ty f.d f.pred f.a.code f.b.code 0 f.i
def V2.fields (f : V2) : Fields := vecForm cls minor f.ty f.d f.pred f.a.code 0 0 f.i
def VFma.fields (f : VFma) : Fields := vecForm cls minor f.ty (.v f.d) f.pred f.a.code f.b.code 0 f.i
def VSelOp.fields (f : VSelOp) : Fields := vecForm cls minor f.ty f.d f.pred f.a.code f.b.code (vCode f.c) f.i
def VCvtOp.fields (f : VCvtOp) : Fields := vecForm cls minor f.src f.d f.pred (vCode f.a) 0 (BitVec.ofNat 8 f.dst.val) f.i
def VRandOp.fields (f : VRandOp) : Fields := vecForm cls minor f.ty f.d f.pred 0 0 0 f.i
def VRed.fields (f : VRed) : Fields := vecForm cls minor f.ty (.v f.d) f.pred (vCode f.a) 0 0 0
def VResidOp.fields (f : VResidOp) : Fields := vecForm cls minor f.ty (.v f.d) f.pred (vCode f.a) (vCode f.b) 0 0
def VLdOp.fields (f : VLdOp) : Fields := vecForm cls minor f.ty (.v f.d) f.pred f.a.vcode 0 0 f.off
def VGathOp.fields (f : VGathOp) : Fields := vecForm cls minor f.ty (.v f.d) f.pred f.a.vcode (vCode f.b) 0 f.off
def VStOp.fields (f : VStOp) : Fields := vecForm cls minor f.ty (.v 0) f.pred f.a.vcode (vCode f.b) 0 f.off
def VScatOp.fields (f : VScatOp) : Fields := vecForm cls minor f.ty (.v 0) f.pred f.a.vcode (vCode f.b) (vCode f.c) f.off

def GenOp.fields : GenOp → Fields
  | .lane d a pred => vecForm 6 minor .i32 (.v d) pred a.vcode 0 0 0
  | .stream d a => { Fields.form 6 minor with d := d.vcode, a := a.vcode }

def TldOp.fields (f : TldOp) : Fields :=
  { Fields.form 7 minor with d := tileCode f.t, a := f.a.code, x := BitVec.ofNat 16 f.take.toNat, i := f.off }

def TstOp.fields (f : TstOp) : Fields :=
  { Fields.form 7 1 with a := f.a.code, b := f.t.code, x := BitVec.ofNat 16 f.fill.toNat, i := f.off }

def tagX (tag : Byte) (low : Nat) : BitVec 16 := BitVec.ofNat 16 (256 * tag.toNat + low)

def MmaOp.fields (f : MmaOp) : Fields :=
  { Fields.form 7 3 with q := BitVec.ofNat 4 f.fmt.val, d := accCode f.acc, a := tileCode f.t, b := f.m.code,
                         x := tagX f.tag f.block.val }

/-- A link direction of `mmt`, with its enabling bit at bit 0. -/
def linkVal : Option Dir → Nat
  | none => 0
  | some d => 1 + 2 * d.val
/-- A direction without its enabling bit is no word that the encoder gives: ILLOP (DEDUCED, log entry 74). -/
def linkOf (k : Nat) : Option Dir := if k % 2 = 1 then some (Dir.ofVal (k / 2)) else none

def MmtOp.fields (f : MmtOp) : Fields :=
  { Fields.form 7 4 with q := BitVec.ofNat 4 f.fmt.val, d := accCode f.acc, a := tileCode f.t, b := f.m.code,
                         x := tagX f.tag (f.block.val + 4 * linkVal f.rx + 32 * linkVal f.fwd) }

/-- X[3:0] of `mcvt` and `bsum`: [3] use tile, [2:0] its number. -/
def useTile : Option (Fin 8) → BitVec 16
  | none => 0
  | some t => BitVec.ofNat 16 (8 + t.val)

def McvtOp.fields (f : McvtOp) : Fields :=
  { Fields.form 7 6 with q := if f.bf then 3 else 1, d := accCode f.d, a := accCode f.a, b := f.m.code, x := useTile f.tile }

/-- Q[1:0] and D of a form that a full queue can turn away (R276). -/
def Full.q : Full → BitVec 4
  | .stall => 0 | .busy _ => 1 | .trap => 2
def Full.code : Full → BitVec 8
  | .busy d => d.code
  | _ => 0

def regsCode (n : Fin 3) : BitVec 8 := BitVec.ofNat 8 (16 * n.val)
def regsOf (c : BitVec 8) : Option (Fin 3) := if c.toNat % 16 = 0 then toFin 3 (c.toNat / 16) else none

/-- A class-9 form with a full action. -/
def fullForm (full : Full) (a b c : BitVec 8) (x : Nat) (i : Word) : Fields :=
  { Fields.form 9 minor with q := full.q, d := full.code, a := a, b := b, c := c, x := BitVec.ofNat 16 x, i := i }

end

/-- The fields of an instruction; none for an event. (DEDUCED, log entry 74.) -/
def Instr.fields : Instr → Option Fields
  | .nop => some (.form 0 0)
  | .add f => some (f.fields 0 0x01) | .sub f => some (f.fields 0 0x02) | .adds f => some (f.fields 0 0x03)
  | .subs f => some (f.fields 0 0x04) | .mul f => some (f.fields 0 0x05)
  | .mulh f => some (f.fields 0 0x06) | .mulhu f => some (f.fields 0 0x07)
  | .div f => some (f.fields 0 0x08) | .divu f => some (f.fields 0 0x09)
  | .rem f => some (f.fields 0 0x0A) | .remu f => some (f.fields 0 0x0B)
  | .min f => some (f.fields 0 0x0C) | .max f => some (f.fields 0 0x0D)
  | .minu f => some (f.fields 0 0x0E) | .maxu f => some (f.fields 0 0x0F)
  | .and f => some (f.fields 0 0x10) | .or f => some (f.fields 0 0x11) | .xor f => some (f.fields 0 0x12)
  | .andn f => some (f.fields 0 0x13) | .shl f => some (f.fields 0 0x14) | .shr f => some (f.fields 0 0x15)
  | .sra f => some (f.fields 0 0x16) | .rol f => some (f.fields 0 0x17)
  | .clz f => some (f.fields 0 0x18) | .ctz f => some (f.fields 0 0x19) | .popc f => some (f.fields 0 0x1A)
  | .bfx f => some (f.fields 0 0x1B) | .bfi f => some (f.fields 0 0x1C)
  | .seq f => some (f.fields 0 0x20) | .sne f => some (f.fields 0 0x21) | .slt f => some (f.fields 0 0x22)
  | .sge f => some (f.fields 0 0x23) | .sltu f => some (f.fields 0 0x24) | .sgeu f => some (f.fields 0 0x25)
  | .sel f => some (f.fields 0 0x26) | .lea f => some (f.fields 0 0x28) | .chkb f => some (f.fields 0 0x29)
  | .mov f => some (f.fields 0 0x30) | .kmov f => some (f.fields 0 0x31) | .kget f => some (f.fields 0 0x32)
  | .br i => some { Fields.form 1 0 with i := i.code }
  | .bEq f => some (f.fields 0) | .bNe f => some (f.fields 1) | .bLt f => some (f.fields 2) | .bGe f => some (f.fields 3)
  | .bLtu f => some (f.fields 4) | .bGeu f => some (f.fields 5)
  | .bdec f => some { Fields.form 1 2 with d := gCode f.d, i := f.i.code }
  | .jr a => some { Fields.form 1 3 with a := a.code }
  | .call f => some { Fields.form 1 4 with d := pairCode f.d, i := f.i.code }
  | .callr f => some { Fields.form 1 5 with d := pairCode f.d, a := f.a.code }
  | .ret a => some { Fields.form 1 6 with a := a.code }
  | .split i => some { Fields.form 1 7 with i := i.code }
  | .haltH => some (.form 1 8) | .done => some (.form 1 9)
  | .fork f => some f.fields
  | .join f => some { Fields.form 1 0x0B with a := f.a.code, i := f.off }
  | .ld f => some (f.fields 0 0 0) | .lds f => some f.fields
  | .ldAcq f sc => some (f.fields 0 1 sc.val) | .ldVol f => some (f.fields 0 3 0)
  | .ldTake f => some (f.fields 0 4 0) | .ldWait f => some (f.fields 0 5 0)
  | .st f => some (f.fields 0 0) | .stRel f sc => some (f.fields 2 sc.val) | .stVol f => some (f.fields 3 0)
  | .stFill f => some (f.fields 6 0)
  | .pf f => some { Fields.form 2 3 with a := f.a.code, i := f.off }
  | .rwb f => some { Fields.form 2 4 with a := f.a.code, b := f.b.code }
  | .rinv f => some (f.fields 5) | .rinvChk f => some (f.fields 6)
  | .cobj f => some (spForm 7 f.d.code f.a.code 0 0)
  | .cfree a => some { Fields.form 2 8 with a := a.code }
  | .fset f => some (spForm 9 0 f.a.code 0 f.off) | .fclr f => some (spForm 0x0A 0 f.a.code 0 f.off)
  | .fget f => some (spForm 0x0B f.d.code f.a.code 0 f.off) | .ltag f => some (spForm 0x0C 0 f.a.code f.b.code f.off)
  | .amoAdd f => some (f.fields 0) | .amoMin f => some (f.fields 1) | .amoMax f => some (f.fields 2)
  | .amoAnd f => some (f.fields 3) | .amoOr f => some (f.fields 4) | .amoXor f => some (f.fields 5)
  | .amoSwap f => some (f.fields 6) | .cas f => some f.fields
  | .fenceAcq sc => some { Fields.form 3 8 with x := memX 1 sc.val 0 }
  | .fenceRel sc => some { Fields.form 3 8 with x := memX 2 sc.val 0 }
  | .fenceAr sc => some { Fields.form 3 8 with x := memX 3 sc.val 0 }
  | .relq d sc => some { Fields.form 3 9 with d := d.code, x := memX 0 sc.val 0 }
  | .fadd f => some (f.fields 0) | .fsub f => some (f.fields 1) | .fmul f => some (f.fields 2) | .fma f => some (f.fields 3)
  | .fms f => some (f.fields 4) | .fdiv f => some (f.fields 5) | .fsqrt f => some (f.fields 6)
  | .fmin f => some (f.fields 4 7) | .fmax f => some (f.fields 4 8) | .fabs f => some (f.fields 4 9)
  | .fneg f => some (f.fields 4 0x0A) | .feq f => some (f.fields 4 0x0B) | .flt f => some (f.fields 4 0x0C)
  | .fle f => some (f.fields 4 0x0D) | .fcvtI32F32 f => some (f.fields 0x0E) | .fcvtU32F32 f => some (f.fields 0x0F)
  | .fcvtF32I32 f => some (f.fields 0x10) | .fcvtF32U32 f => some (f.fields 0x11) | .fclass f => some (f.fields 4 0x12)
  | .vadd f => some (f.fields 5 0) | .vsub f => some (f.fields 5 1) | .vmul f => some (f.fields 5 2)
  | .vfma f => some (f.fields 5 3) | .vmin f => some (f.fields 5 4) | .vmax f => some (f.fields 5 5)
  | .vabs f => some (f.fields 5 6) | .vneg f => some (f.fields 5 7) | .vadds f => some (f.fields 5 8)
  | .vsubs f => some (f.fields 5 9) | .vand f => some (f.fields 5 0x0A) | .vor f => some (f.fields 5 0x0B)
  | .vxor f => some (f.fields 5 0x0C) | .vshl f => some (f.fields 5 0x0D) | .vshr f => some (f.fields 5 0x0E)
  | .vsra f => some (f.fields 5 0x0F) | .vceq f => some (f.fields 5 0x10) | .vcne f => some (f.fields 5 0x11)
  | .vclt f => some (f.fields 5 0x12) | .vcle f => some (f.fields 5 0x13) | .vsel f => some (f.fields 5 0x14)
  | .vmov f => some (f.fields 5 0x15) | .vld f => some (f.fields 5 0x16) | .vst f => some (f.fields 5 0x17)
  | .vgath f => some (f.fields 5 0x18) | .vscat f => some (f.fields 5 0x19)
  | .vcvt f => some (f.fields 6 0) | .vcvtSr f => some (f.fields 6 1) | .vexp2 f => some (f.fields 6 2)
  | .vlog2 f => some (f.fields 6 3) | .vrcp f => some (f.fields 6 4) | .vrsqrt f => some (f.fields 6 5)
  | .vtanh f => some (f.fields 6 6) | .vmaxr f => some (f.fields 6 7) | .vsum f => some (f.fields 6 8)
  | .vresid f => some (f.fields 6 9) | .vmask f => some (f.fields 6 0x0A) | .vpop f => some (f.fields 6 0x0B)
  | .vrand f => some (f.fields 6 0x0C) | .gkey f => some (f.fields 0x0D) | .gctr f => some (f.fields 0x0E)
  | .tld f => some (f.fields 0) | .tst f => some f.fields | .texp f => some (f.fields 0x0D)
  | .mwl f => some { Fields.form 7 2 with q := BitVec.ofNat 4 f.fmt.val, a := tileCode f.t, x := tagX f.tag 0 }
  | .mma f => some f.fields | .mmt f => some f.fields
  | .mclr f => some { Fields.form 7 5 with d := accCode f.acc, x := tagX f.tag 0 }
  | .mcvt f => some f.fields
  | .bsum f => some { Fields.form 7 7 with a := accCode f.a, b := pairCode f.b, x := useTile f.tile }
  | .baccI32 f => some { Fields.form 7 8 with d := BitVec.ofNat 8 (2 * f.n.val), a := f.a.code, b := f.b.code }
  | .baccFloat f => some { Fields.form 7 8 with q := if f.bf then 3 else 1, d := f.d.code, a := BitVec.ofNat 8 (2 * f.n.val) }
  | .msync => some (.form 7 9) | .mstat d => some { Fields.form 7 0x0A with d := d.code }
  | .tzero t => some { Fields.form 7 0x0B with d := tileCode t }
  | .tmov f => some { Fields.form 7 0x0C with d := tileCode f.t, a := tileCode f.u }
  | .pbeg => some (.form 8 0) | .pcom f => some { Fields.form 8 1 with d := f.d.code, a := f.a.code }
  | .pabt => some (.form 8 2) | .psta d => some { Fields.form 8 3 with d := d.code }
  | .pcap d => some { Fields.form 8 4 with d := d.code }
  | .send f => some (fullForm 0 f.full (regsCode f.regs) f.b.code 0 f.net.val 0)
  | .sendm f => some (fullForm 1 f.full (regsCode f.regs) f.b.code f.c.code f.net.val 0)
  | .repl f => some (fullForm 2 f.full (regsCode f.regs) 0 0 0 0)
  | .hdef f => some { Fields.form 9 3 with a := f.a.code, b := f.b.code, c := f.c.code }
  | .dqctlStat d => some { Fields.form 9 4 with d := d.code }
  | .dqctlLim a => some { Fields.form 9 4 with a := a.code, x := 1 }
  | .dqctlSpill a => some { Fields.form 9 4 with a := a.code, x := 2 }
  | .dqctlUnspill => some { Fields.form 9 4 with x := 3 }
  | .dcnt f => some (fullForm 5 f.full f.a.code f.b.code 0 0 0)
  | .cpq f => some (fullForm 6 f.full (BitVec.ofNat 8 (8 * f.n.val)) 0 0 f.tag.toNat 0)
  | .gath f => some (fullForm 7 f.full f.a.code 0 0 f.tag.toNat f.off)
  | .coll f => some (fullForm 8 f.full f.a.code 0 0 f.tag.toNat f.off)
  | .evx f => some { Fields.form 9 9 with a := f.a.code, b := f.b.code }
  | .evw f => some { Fields.form 9 0x0A with d := f.d.code, a := f.a.code }
  | .mbx f => some { Fields.form 9 0x0B with d := f.d.code, a := f.a.code, b := f.b.code }
  | .mack f => some { Fields.form 9 0x0C with a := f.a.code, b := f.b.code }
  | .dldL f => some { Fields.form 0xA 0 with d := regsCode f.n, a := f.a.code, i := f.off }
  | .dstL f => some { Fields.form 0xA 1 with a := f.a.code, b := regsCode f.n, i := f.off }
  | .dpush f =>
    some { Fields.form 0xA 2 with a := f.a.code, b := f.b.code, c := f.c.code, x := f.tag.setWidth 16, i := f.len }
  | .dpro f => some { Fields.form 0xA 3 with d := f.d.code, a := f.a.code }
  | .ddem f => some { Fields.form 0xA 4 with d := f.d.code, a := f.a.code }
  | .dpin f => some { Fields.form 0xA 5 with d := f.d.code, a := f.a.code }
  | .dpinClr f => some { Fields.form 0xA 5 with q := 1, d := f.d.code, a := f.a.code }
  | .dstat f => some { Fields.form 0xA 6 with d := f.d.code, a := f.a.code }
  | .trap i => some { Fields.form 0xB 0 with i := i } | .svc i => some { Fields.form 0xB 1 with i := i }
  | .rett => some (.form 0xB 2) | .tlbinv a => some { Fields.form 0xB 3 with a := a.code } | .tlbinva => some (.form 0xB 4)
  | .tlbprb f => some { Fields.form 0xB 5 with d := pairCode f.d, a := f.a.code }
  | .rdcyc d => some { Fields.form 0xB 6 with d := pairCode d } | .rdtime d => some { Fields.form 0xB 7 with d := pairCode d }
  | _ => none

/-- The word of an instruction; none for an event. (DEDUCED, log entry 74.) -/
def encode (i : Instr) : Option Code := i.fields.map Fields.pack

/-! ## Decoding, shape by shape -/

section
variable (f : Fields)

/-- Q[0] and Q[1] of classes 0 and 4. -/
def Fields.immForm : Bool := f.q.getLsbD 0
def Fields.dForm : Bool := f.q.getLsbD 1

def parseInt3 : Option Int3 :=
  if f.dForm then
    (PairReg.ofCode f.d).bind fun d => (PairReg.ofCode f.a).bind fun a => (PSrc.ofCode f.immForm f.b f.i).map fun b => .d d a b
  else
    (WDst.ofCode f.d f.i).bind fun d => (Src.ofCode f.a).bind fun a => (ISrc.ofCode f.immForm f.b f.i).map fun b => .w d a b

def parseInt3W : Option Int3W :=
  (WDst.ofCode f.d f.i).bind fun d => (Src.ofCode f.a).bind fun a => (ISrc.ofCode f.immForm f.b f.i).map fun b => ⟨d, a, b⟩

def parseInt2W : Option Int2W :=
  (WDst.ofCode f.d f.i).bind fun d => (Src.ofCode f.a).map fun a => ⟨d, a⟩

def parseBitField : Option BitField :=
  (WDst.ofCode f.d f.i).bind fun d => (Src.ofCode f.a).bind fun a =>
    (toFin 32 (f.x.toNat / 256)).bind fun p => (toFin 32 (f.x.toNat % 256)).map fun l => ⟨d, a, p, l⟩

def parseCmp : Option Cmp :=
  if f.dForm then
    (WDst.ofCode f.d f.i).bind fun d => (PairReg.ofCode f.a).bind fun a => (PSrc.ofCode f.immForm f.b f.i).map fun b => .d d a b
  else
    (WDst.ofCode f.d f.i).bind fun d => (Src.ofCode f.a).bind fun a => (ISrc.ofCode f.immForm f.b f.i).map fun b => .w d a b

def parseSel : Option SelOp :=
  (WDst.ofCode f.d f.i).bind fun d => (Src.ofCode f.a).bind fun a => (Src.ofCode f.b).bind fun b =>
    (Src.ofCode f.c).map fun c => ⟨d, a, b, c⟩

def parseLea : Option LeaOp :=
  (toFin 8 f.x.toNat).bind fun s =>
    if f.dForm then
      (PairReg.ofCode f.d).bind fun d => (PairReg.ofCode f.a).bind fun a => (Src.ofCode f.b).map fun b => .d d a b s f.i
    else
      (WDst.ofCode f.d f.i).bind fun d => (Src.ofCode f.a).bind fun a => (Src.ofCode f.b).map fun b => .w d a b s f.i

def parseChk : Option ChkOp :=
  (Src.ofCode f.a).bind fun a => (ISrc.ofCode f.immForm f.b f.i).map fun b => ⟨a, b⟩

def parseMov : Option MovOp :=
  if f.dForm then (PairReg.ofCode f.d).bind fun d => (PSrc.ofCode f.immForm f.a f.i).map fun a => .d d a
  else (WDst.ofCode f.d f.i).bind fun d => (ISrc.ofCode f.immForm f.a f.i).map fun a => .w d a

def parseKmov : Option KmovOp :=
  (toFin 43 f.x.toNat).bind fun k =>
    if f.dForm then
      if f.immForm then some (.d k (.imm f.i)) else (pairOf f.a).map fun n => .d k (.reg n)
    else (ISrc.ofCode f.immForm f.a f.i).map fun a => .w k a

def parseKget : Option KgetOp :=
  (toFin 43 f.x.toNat).bind fun k =>
    if f.dForm then (pairOf f.d).map fun n => .d n k else (WDst.ofCode f.d f.i).map fun d => .w d k

def parseBcc : Option BccOp :=
  (Src.ofCode f.a).bind fun a => (Src.ofCode f.b).bind fun b => (Disp.ofCode f.i).map fun i => ⟨a, b, i⟩

def parseFork : Option ForkOp :=
  (gOf f.a).bind fun a => (toFin 7 f.x.toNat).bind fun n => (Disp.ofCode f.i).map fun i => ⟨a, n, i⟩

/-- The mode, scope and width fields of X in classes 2 and 3. -/
def Fields.mode : Nat := f.x.toNat % 16
def Fields.scope : Option Scope := Scope.ofVal (f.x.toNat / 16 % 16)
def Fields.width : Nat := f.x.toNat / 256

def parseBase : Option Base :=
  match f.q.toNat with
  | 0 => (PairReg.ofCode f.a).map .glob
  | 1 => (Src.ofCode f.a).map .sp
  | 2 => (Src.ofCode f.a).map .nb
  | _ => none

def isQ (c : BitVec 8) : Bool := 0x90 ≤ c.toNat

def parseLdDst : Option LdDst :=
  match f.width with
  | 0 => (Dst.ofCode f.d).map (.sub .b)
  | 1 => (Dst.ofCode f.d).map (.sub .h)
  | 2 => (Dst.ofCode f.d).map (.sub .w)
  | 3 => if isQ f.d then (toFin 8 (f.d.toNat - 0x90)).map .dq else (pairOf f.d).map .pair
  | 4 =>
    if isQ f.d then (toFin 8 (f.d.toNat - 0x90)).map .quadQ
    else if f.d = 0x40 then some .quadO
    else if f.d.toNat % 4 = 0 then (toFin 12 (f.d.toNat / 4)).map .quad else none
  | 5 => (regsOf f.d).map .line
  | _ => none

def parseStSrc : Option StSrc :=
  match f.width with
  | 0 => (Src.ofCode f.b).map (.sub .b)
  | 1 => (Src.ofCode f.b).map (.sub .h)
  | 2 => (Src.ofCode f.b).map (.sub .w)
  | 3 => if isQ f.b then (toFin 8 (f.b.toNat - 0x90)).map .dq else (PairReg.ofCode f.b).map .pair
  | 4 =>
    if isQ f.b then (toFin 8 (f.b.toNat - 0x90)).map .quadQ
    else if f.b = 0x40 then some .quadO
    else if f.b.toNat % 4 = 0 then (toFin 12 (f.b.toNat / 4)).map .quad else none
  | 5 => (regsOf f.b).map .line
  | _ => none

def parseLdOp : Option LdOp :=
  (parseLdDst f).bind fun d => (parseBase f).map fun base => ⟨d, base, f.i⟩

def parseLds : Option LdsOp :=
  (Dst.ofCode f.d).bind fun d => (parseBase f).map fun base => ⟨f.width == 1, d, base, f.i⟩

def parseStOp : Option StOp :=
  (parseStSrc f).bind fun v => (parseBase f).map fun base => ⟨v, base, f.i⟩

/-- `ld` by its mode (R79). -/
def parseLd : Option Instr :=
  (parseLdOp f).bind fun o =>
    match f.mode with
    | 0 => some (.ld o)
    | 1 => f.scope.map (.ldAcq o)
    | 3 => some (.ldVol o)
    | 4 => some (.ldTake o)
    | 5 => some (.ldWait o)
    | _ => none

/-- `st` by its mode (R79). -/
def parseSt : Option Instr :=
  (parseStOp f).bind fun o =>
    match f.mode with
    | 0 => some (.st o)
    | 2 => f.scope.map (.stRel o)
    | 3 => some (.stVol o)
    | 6 => some (.stFill o)
    | _ => none

def parseRange : Option RangeOp := (PairReg.ofCode f.a).bind fun a => (Src.ofCode f.b).map fun b => ⟨a, b⟩
def parseRinv : Option RinvOp :=
  (Dst.ofCode f.d).bind fun d => (PairReg.ofCode f.a).bind fun a => (Src.ofCode f.b).map fun b => ⟨d, a, b⟩
def parseDA : Option DA := (Dst.ofCode f.d).bind fun d => (Src.ofCode f.a).map fun a => ⟨d, a⟩
def parseAB : Option AB := (Src.ofCode f.a).bind fun a => (Src.ofCode f.b).map fun b => ⟨a, b⟩
def parseAOff : Option AOff := (Src.ofCode f.a).map fun a => ⟨a, f.i⟩
def parseDAOff : Option DAOff := (Dst.ofCode f.d).bind fun d => (Src.ofCode f.a).map fun a => ⟨d, a, f.i⟩
def parseABOff : Option ABOff := (Src.ofCode f.a).bind fun a => (Src.ofCode f.b).map fun b => ⟨a, b, f.i⟩

def parseAmo : Option AmoOp :=
  (Ord3.ofVal f.mode).bind fun o => f.scope.bind fun sc => (PairReg.ofCode f.a).bind fun a =>
    match f.width with
    | 2 => (Dst.ofCode f.d).bind fun d => (Src.ofCode f.b).map fun b => ⟨.w d a b, o, sc⟩
    | 3 => (pairOf f.d).bind fun d => (PairReg.ofCode f.b).map fun b => ⟨.d d a b, o, sc⟩
    | _ => none

def parseCas : Option CasOp :=
  (Ord3.ofVal f.mode).bind fun o => f.scope.bind fun sc => (PairReg.ofCode f.a).bind fun a =>
    match f.width with
    | 2 => (Dst.ofCode f.d).bind fun d => (Src.ofCode f.b).bind fun b => (Src.ofCode f.c).map fun c => ⟨.w d a b c, o, sc⟩
    | 3 => (pairOf f.d).bind fun d => (PairReg.ofCode f.b).bind fun b => (PairReg.ofCode f.c).map fun c => ⟨.d d a b c, o, sc⟩
    | _ => none

def parseFence : Option Instr :=
  f.scope.bind fun sc =>
    match f.mode with
    | 1 => some (.fenceAcq sc)
    | 2 => some (.fenceRel sc)
    | 3 => some (.fenceAr sc)
    | _ => none

def parseF3R : Option F3R :=
  (rmOf (f.q.toNat / 2)).bind fun rm => (parseInt3W f).map fun o => ⟨o.d, o.a, o.b, rm⟩

def parseF2R : Option F2R :=
  (rmOf (f.q.toNat / 2)).bind fun rm => (parseInt2W f).map fun o => ⟨o.d, o.a, rm⟩

def Fields.ty : Option VTy := VTy.ofVal f.q.toNat
def Fields.pred : Option (Fin 128) :=
  if f.x.getLsbD 15 then some ⟨f.x.toNat / 256 % 128, Nat.mod_lt _ (by decide)⟩ else none
def parseVDst : Option VDst :=
  if f.x.getLsbD 7 then some (.win (Dir.ofVal (f.x.toNat / 32)) ⟨f.x.toNat / 2 % 16, Nat.mod_lt _ (by decide)⟩)
  else (vOf f.d).map .v

def parseV3 : Option V3 :=
  f.ty.bind fun ty => (parseVDst f).bind fun d => (VSrc.ofCode f.a).bind fun a => (VSrc.ofCode f.b).map fun b =>
    ⟨ty, d, a, b, f.pred, f.i⟩
def parseV2 : Option V2 :=
  f.ty.bind fun ty => (parseVDst f).bind fun d => (VSrc.ofCode f.a).map fun a => ⟨ty, d, a, f.pred, f.i⟩
def parseVFma : Option VFma :=
  f.ty.bind fun ty => (vOf f.d).bind fun d => (VSrc.ofCode f.a).bind fun a => (VSrc.ofCode f.b).map fun b =>
    ⟨ty, d, a, b, f.pred, f.i⟩
def parseVSel : Option VSelOp :=
  f.ty.bind fun ty => (parseVDst f).bind fun d => (VSrc.ofCode f.a).bind fun a => (VSrc.ofCode f.b).bind fun b =>
    (vOf f.c).map fun c => ⟨ty, d, a, b, c, f.pred, f.i⟩
def parseVCvt : Option VCvtOp :=
  f.ty.bind fun ty => (VTy.ofVal f.c.toNat).bind fun t => (parseVDst f).bind fun d => (vOf f.a).map fun a =>
    ⟨ty, t, d, a, f.pred, f.i⟩
def parseVRand : Option VRandOp := f.ty.bind fun ty => (parseVDst f).map fun d => ⟨ty, d, f.pred, f.i⟩
def parseVRed : Option VRed := f.ty.bind fun ty => (vOf f.d).bind fun d => (vOf f.a).map fun a => ⟨ty, d, a, f.pred⟩
def parseVResid : Option VResidOp :=
  f.ty.bind fun ty => (vOf f.d).bind fun d => (vOf f.a).bind fun a => (vOf f.b).map fun b => ⟨ty, d, a, b, f.pred⟩
def parseVLd : Option VLdOp :=
  f.ty.bind fun ty => (vOf f.d).bind fun d => (Src.ofVcode f.a).map fun a => ⟨ty, d, a, f.pred, f.i⟩
def parseVSt : Option VStOp :=
  f.ty.bind fun ty => (Src.ofVcode f.a).bind fun a => (vOf f.b).map fun b => ⟨ty, a, b, f.pred, f.i⟩
def parseVGath : Option VGathOp :=
  f.ty.bind fun ty => (vOf f.d).bind fun d => (Src.ofVcode f.a).bind fun a => (vOf f.b).map fun b => ⟨ty, d, a, b, f.pred, f.i⟩
def parseVScat : Option VScatOp :=
  f.ty.bind fun ty => (Src.ofVcode f.a).bind fun a => (vOf f.b).bind fun b => (vOf f.c).map fun c => ⟨ty, a, b, c, f.pred, f.i⟩
def parseGen : Option GenOp :=
  (Src.ofVcode f.a).bind fun a =>
    if f.d.getLsbD 7 then (Src.ofVcode f.d).map fun d => .stream d a else (vOf f.d).map fun d => .lane d a f.pred

def Fields.fmt : Option TFmt := TFmt.ofVal f.q.toNat
def Fields.tag : Byte := f.x.extractLsb' 8 8

def parseTld : Option TldOp := (tileOf f.d).bind fun t => (Src.ofCode f.a).map fun a => ⟨t, a, f.i, f.x.getLsbD 0⟩
def parseTst : Option TstOp := (Src.ofCode f.a).bind fun a => (TileX.ofCode f.b).map fun t => ⟨a, t, f.i, f.x.getLsbD 0⟩
def parseMwl : Option MwlOp := f.fmt.bind fun m => (tileOf f.a).map fun t => ⟨m, t, f.tag⟩
def parseMma : Option MmaOp :=
  f.fmt.bind fun t => (accOf f.d).bind fun acc => (tileOf f.a).bind fun a => (Src.ofCode f.b).map fun m =>
    ⟨t, acc, a, m, ⟨f.x.toNat % 4, Nat.mod_lt _ (by decide)⟩, f.tag⟩
def parseMmt : Option MmtOp :=
  f.fmt.bind fun t => (accOf f.d).bind fun acc => (tileOf f.a).bind fun a => (Src.ofCode f.b).map fun m =>
    ⟨t, acc, a, m, ⟨f.x.toNat % 4, Nat.mod_lt _ (by decide)⟩, linkOf (f.x.toNat / 4), linkOf (f.x.toNat / 32), f.tag⟩
def parseTile3 : Option (Option (Fin 8)) :=
  if f.x.toNat = 0 then some none else if 8 ≤ f.x.toNat then (toFin 8 (f.x.toNat - 8)).map some else none
def parseBf : Option Bool :=
  match f.q.toNat with
  | 1 => some false
  | 3 => some true
  | _ => none
def parseMcvt : Option McvtOp :=
  (parseBf f).bind fun bf => (accOf f.d).bind fun d => (accOf f.a).bind fun a => (Src.ofCode f.b).bind fun m =>
    (parseTile3 f).map fun t => ⟨bf, d, a, m, t⟩
def parseBsum : Option BsumOp :=
  (accOf f.a).bind fun a => (pairOf f.b).bind fun b => (parseTile3 f).map fun t => ⟨a, b, t⟩
def tripleOf (c : BitVec 8) : Option (Fin 23) := if c.toNat % 2 = 0 then toFin 23 (c.toNat / 2) else none
def parseBacc : Option Instr :=
  if f.q = 0 then
    (tripleOf f.d).bind fun n => (Src.ofCode f.a).bind fun a => (Src.ofCode f.b).map fun b => .baccI32 ⟨n, a, b⟩
  else (parseBf f).bind fun bf => (Dst.ofCode f.d).bind fun d => (tripleOf f.a).map fun n => .baccFloat ⟨bf, d, n⟩

def parseFull : Option Full :=
  match f.q.toNat with
  | 0 => some .stall
  | 1 => (Dst.ofCode f.d).map .busy
  | 2 => some .trap
  | _ => none
def parseSend : Option SendOp :=
  (parseFull f).bind fun u => (regsOf f.a).bind fun r => (Src.ofCode f.b).bind fun b => (toFin 3 f.x.toNat).map fun n =>
    ⟨u, r, b, n⟩
def parseSendm : Option SendmOp :=
  (parseFull f).bind fun u => (regsOf f.a).bind fun r => (Src.ofCode f.b).bind fun b => (Src.ofCode f.c).bind fun c =>
    (toFin 3 f.x.toNat).map fun n => ⟨u, r, b, c, n⟩
def parseRepl : Option ReplOp := (parseFull f).bind fun u => (regsOf f.a).map fun r => ⟨u, r⟩
def parseHdef : Option HdefOp :=
  (Src.ofCode f.a).bind fun a => (PairReg.ofCode f.b).bind fun b => (Src.ofCode f.c).map fun c => ⟨a, b, c⟩
def parseDqctl : Option Instr :=
  match f.x.toNat with
  | 0 => (Dst.ofCode f.d).map .dqctlStat
  | 1 => (Src.ofCode f.a).map .dqctlLim
  | 2 => (Src.ofCode f.a).map .dqctlSpill
  | 3 => some .dqctlUnspill
  | _ => none
def parseDcnt : Option DcntOp :=
  (parseFull f).bind fun u => (Src.ofCode f.a).bind fun a => (Src.ofCode f.b).map fun b => ⟨u, a, b⟩
def parseCpq : Option CpqOp :=
  (parseFull f).bind fun u => (if f.a.toNat % 8 = 0 then toFin 6 (f.a.toNat / 8) else none).map fun n =>
    ⟨u, n, f.x.extractLsb' 0 8⟩
def parseCard : Option CardOp :=
  (parseFull f).bind fun u => (Src.ofCode f.a).map fun a => ⟨u, a, f.x.extractLsb' 0 8, f.i⟩
def parseMbx : Option MbxOp :=
  (Dst.ofCode f.d).bind fun d => (Src.ofCode f.a).bind fun a => (Src.ofCode f.b).map fun b => ⟨d, a, b⟩

/-- The line registers are in D of `dld.l` and in B of `dst.l`. -/
def parseDline (c : BitVec 8) : Option DlineOp := (regsOf c).bind fun n => (PairReg.ofCode f.a).map fun a => ⟨n, a, f.i⟩
def parseDpush : Option DpushOp :=
  (PairReg.ofCode f.a).bind fun a => (Src.ofCode f.b).bind fun b => (Src.ofCode f.c).map fun c =>
    ⟨a, b, c, f.i, f.x.extractLsb' 0 4⟩
def parseDrow : Option DrowOp := (Dst.ofCode f.d).bind fun d => (PairReg.ofCode f.a).map fun a => ⟨d, a⟩
def parseTlbprb : Option TlbprbOp := (pairOf f.d).bind fun d => (PairReg.ofCode f.a).map fun a => ⟨d, a⟩

/-! ## The opcode map (R40 to R51) -/

/-- Why a word is no instruction (R52); each raises ILLOP. -/
inductive BadCode
  /-- class C to F -/
  | reservedClass
  /-- a minor that the opcode map does not list -/
  | unassignedMinor
  /-- a Q, X or operand code that is not defined for the form -/
  | undefinedCode
  /-- an unused field or a reserved bit that is not zero, or fields that the form excludes together -/
  | unusedField
  deriving DecidableEq, Repr

/-- A form whose operands parse, by its constructor. -/
def form {α : Type} (k : α → Instr) (o : Option α) : Except BadCode Instr :=
  match o with
  | some a => .ok (k a)
  | none => .error .undefinedCode

def parse0 : Except BadCode Instr :=
  match f.minor.toNat with
  | 0x00 => .ok .nop
  | 0x01 => form .add (parseInt3 f) | 0x02 => form .sub (parseInt3 f) | 0x03 => form .adds (parseInt3 f)
  | 0x04 => form .subs (parseInt3 f) | 0x05 => form .mul (parseInt3 f)
  | 0x06 => form .mulh (parseInt3W f) | 0x07 => form .mulhu (parseInt3W f)
  | 0x08 => form .div (parseInt3W f) | 0x09 => form .divu (parseInt3W f)
  | 0x0A => form .rem (parseInt3W f) | 0x0B => form .remu (parseInt3W f)
  | 0x0C => form .min (parseInt3 f) | 0x0D => form .max (parseInt3 f)
  | 0x0E => form .minu (parseInt3 f) | 0x0F => form .maxu (parseInt3 f)
  | 0x10 => form .and (parseInt3 f) | 0x11 => form .or (parseInt3 f) | 0x12 => form .xor (parseInt3 f)
  | 0x13 => form .andn (parseInt3 f) | 0x14 => form .shl (parseInt3 f) | 0x15 => form .shr (parseInt3 f)
  | 0x16 => form .sra (parseInt3 f) | 0x17 => form .rol (parseInt3 f)
  | 0x18 => form .clz (parseInt2W f) | 0x19 => form .ctz (parseInt2W f) | 0x1A => form .popc (parseInt2W f)
  | 0x1B => form .bfx (parseBitField f) | 0x1C => form .bfi (parseBitField f)
  | 0x20 => form .seq (parseCmp f) | 0x21 => form .sne (parseCmp f) | 0x22 => form .slt (parseCmp f)
  | 0x23 => form .sge (parseCmp f) | 0x24 => form .sltu (parseCmp f) | 0x25 => form .sgeu (parseCmp f)
  | 0x26 => form .sel (parseSel f) | 0x28 => form .lea (parseLea f) | 0x29 => form .chkb (parseChk f)
  | 0x30 => form .mov (parseMov f) | 0x31 => form .kmov (parseKmov f) | 0x32 => form .kget (parseKget f)
  | _ => .error .unassignedMinor

def parse1 : Except BadCode Instr :=
  match f.minor.toNat with
  | 0x00 => form .br (Disp.ofCode f.i)
  | 0x01 =>
    match f.q.toNat with
    | 0 => form .bEq (parseBcc f) | 1 => form .bNe (parseBcc f) | 2 => form .bLt (parseBcc f) | 3 => form .bGe (parseBcc f)
    | 4 => form .bLtu (parseBcc f) | 5 => form .bGeu (parseBcc f)
    | _ => .error .undefinedCode
  | 0x02 => form .bdec ((gOf f.d).bind fun d => (Disp.ofCode f.i).map fun i => ⟨d, i⟩)
  | 0x03 => form .jr (PairReg.ofCode f.a)
  | 0x04 => form .call ((pairOf f.d).bind fun d => (Disp.ofCode f.i).map fun i => ⟨d, i⟩)
  | 0x05 => form .callr ((pairOf f.d).bind fun d => (PairReg.ofCode f.a).map fun a => ⟨d, a⟩)
  | 0x06 => form .ret (PairReg.ofCode f.a)
  | 0x07 => form .split (Disp.ofCode f.i)
  | 0x08 => .ok .haltH | 0x09 => .ok .done
  | 0x0A => form .fork (parseFork f)
  | 0x0B => form .join (parseAOff f)
  | _ => .error .unassignedMinor

def parse2 : Except BadCode Instr :=
  match f.minor.toNat with
  | 0x00 => form id (parseLd f) | 0x01 => form .lds (parseLds f) | 0x02 => form id (parseSt f)
  | 0x03 => form .pf ((PairReg.ofCode f.a).map fun a => ⟨a, f.i⟩)
  | 0x04 => form .rwb (parseRange f) | 0x05 => form .rinv (parseRinv f) | 0x06 => form .rinvChk (parseRinv f)
  | 0x07 => form .cobj (parseDA f) | 0x08 => form .cfree (Src.ofCode f.a)
  | 0x09 => form .fset (parseAOff f) | 0x0A => form .fclr (parseAOff f) | 0x0B => form .fget (parseDAOff f)
  | 0x0C => form .ltag (parseABOff f)
  | _ => .error .unassignedMinor

def parse3 : Except BadCode Instr :=
  match f.minor.toNat with
  | 0x00 => form .amoAdd (parseAmo f) | 0x01 => form .amoMin (parseAmo f) | 0x02 => form .amoMax (parseAmo f)
  | 0x03 => form .amoAnd (parseAmo f) | 0x04 => form .amoOr (parseAmo f) | 0x05 => form .amoXor (parseAmo f)
  | 0x06 => form .amoSwap (parseAmo f) | 0x07 => form .cas (parseCas f) | 0x08 => form id (parseFence f)
  | 0x09 => form id ((Dst.ofCode f.d).bind fun d => f.scope.map fun sc => .relq d sc)
  | _ => .error .unassignedMinor

def parse4 : Except BadCode Instr :=
  match f.minor.toNat with
  | 0x00 => form .fadd (parseF3R f) | 0x01 => form .fsub (parseF3R f) | 0x02 => form .fmul (parseF3R f)
  | 0x03 => form .fma (parseF3R f) | 0x04 => form .fms (parseF3R f) | 0x05 => form .fdiv (parseF3R f)
  | 0x06 => form .fsqrt (parseF2R f) | 0x07 => form .fmin (parseInt3W f) | 0x08 => form .fmax (parseInt3W f)
  | 0x09 => form .fabs (parseInt2W f) | 0x0A => form .fneg (parseInt2W f)
  | 0x0B => form .feq (parseInt3W f) | 0x0C => form .flt (parseInt3W f) | 0x0D => form .fle (parseInt3W f)
  | 0x0E => form .fcvtI32F32 (parseF2R f) | 0x0F => form .fcvtU32F32 (parseF2R f)
  | 0x10 => form .fcvtF32I32 (parseF2R f) | 0x11 => form .fcvtF32U32 (parseF2R f) | 0x12 => form .fclass (parseInt2W f)
  | _ => .error .unassignedMinor

def parse5 : Except BadCode Instr :=
  match f.minor.toNat with
  | 0x00 => form .vadd (parseV3 f) | 0x01 => form .vsub (parseV3 f) | 0x02 => form .vmul (parseV3 f)
  | 0x03 => form .vfma (parseVFma f) | 0x04 => form .vmin (parseV3 f) | 0x05 => form .vmax (parseV3 f)
  | 0x06 => form .vabs (parseV2 f) | 0x07 => form .vneg (parseV2 f) | 0x08 => form .vadds (parseV3 f)
  | 0x09 => form .vsubs (parseV3 f) | 0x0A => form .vand (parseV3 f) | 0x0B => form .vor (parseV3 f)
  | 0x0C => form .vxor (parseV3 f) | 0x0D => form .vshl (parseV3 f) | 0x0E => form .vshr (parseV3 f)
  | 0x0F => form .vsra (parseV3 f) | 0x10 => form .vceq (parseV3 f) | 0x11 => form .vcne (parseV3 f)
  | 0x12 => form .vclt (parseV3 f) | 0x13 => form .vcle (parseV3 f) | 0x14 => form .vsel (parseVSel f)
  | 0x15 => form .vmov (parseV2 f) | 0x16 => form .vld (parseVLd f) | 0x17 => form .vst (parseVSt f)
  | 0x18 => form .vgath (parseVGath f) | 0x19 => form .vscat (parseVScat f)
  | _ => .error .unassignedMinor

def parse6 : Except BadCode Instr :=
  match f.minor.toNat with
  | 0x00 => form .vcvt (parseVCvt f) | 0x01 => form .vcvtSr (parseVCvt f) | 0x02 => form .vexp2 (parseV2 f)
  | 0x03 => form .vlog2 (parseV2 f) | 0x04 => form .vrcp (parseV2 f) | 0x05 => form .vrsqrt (parseV2 f)
  | 0x06 => form .vtanh (parseV2 f) | 0x07 => form .vmaxr (parseVRed f) | 0x08 => form .vsum (parseVRed f)
  | 0x09 => form .vresid (parseVResid f) | 0x0A => form .vmask (parseVLd f) | 0x0B => form .vpop (parseVRed f)
  | 0x0C => form .vrand (parseVRand f) | 0x0D => form .gkey (parseGen f) | 0x0E => form .gctr (parseGen f)
  | _ => .error .unassignedMinor

def parse7 : Except BadCode Instr :=
  match f.minor.toNat with
  | 0x00 => form .tld (parseTld f) | 0x01 => form .tst (parseTst f) | 0x02 => form .mwl (parseMwl f)
  | 0x03 => form .mma (parseMma f) | 0x04 => form .mmt (parseMmt f)
  | 0x05 => form .mclr ((accOf f.d).map fun n => ⟨n, f.tag⟩)
  | 0x06 => form .mcvt (parseMcvt f) | 0x07 => form .bsum (parseBsum f) | 0x08 => form id (parseBacc f)
  | 0x09 => .ok .msync | 0x0A => form .mstat (Dst.ofCode f.d) | 0x0B => form .tzero (tileOf f.d)
  | 0x0C => form .tmov ((tileOf f.d).bind fun t => (tileOf f.a).map fun u => ⟨t, u⟩) | 0x0D => form .texp (parseTld f)
  | _ => .error .unassignedMinor

def parse8 : Except BadCode Instr :=
  match f.minor.toNat with
  | 0x00 => .ok .pbeg | 0x01 => form .pcom (parseDA f) | 0x02 => .ok .pabt
  | 0x03 => form .psta (Dst.ofCode f.d) | 0x04 => form .pcap (Dst.ofCode f.d)
  | _ => .error .unassignedMinor

def parse9 : Except BadCode Instr :=
  match f.minor.toNat with
  | 0x00 => form .send (parseSend f) | 0x01 => form .sendm (parseSendm f) | 0x02 => form .repl (parseRepl f)
  | 0x03 => form .hdef (parseHdef f) | 0x04 => form id (parseDqctl f) | 0x05 => form .dcnt (parseDcnt f)
  | 0x06 => form .cpq (parseCpq f) | 0x07 => form .gath (parseCard f) | 0x08 => form .coll (parseCard f)
  | 0x09 => form .evx (parseAB f) | 0x0A => form .evw (parseDA f) | 0x0B => form .mbx (parseMbx f)
  | 0x0C => form .mack (parseAB f)
  | _ => .error .unassignedMinor

def parseA : Except BadCode Instr :=
  match f.minor.toNat with
  | 0x00 => form .dldL (parseDline f f.d) | 0x01 => form .dstL (parseDline f f.b) | 0x02 => form .dpush (parseDpush f)
  | 0x03 => form .dpro (parseDrow f) | 0x04 => form .ddem (parseDrow f)
  | 0x05 => if f.q = 0 then form .dpin (parseDrow f) else form .dpinClr (parseDrow f)
  | 0x06 => form .dstat (parseDrow f)
  | _ => .error .unassignedMinor

def parseB : Except BadCode Instr :=
  match f.minor.toNat with
  | 0x00 => .ok (.trap f.i) | 0x01 => .ok (.svc f.i) | 0x02 => .ok .rett
  | 0x03 => form .tlbinv (PairReg.ofCode f.a) | 0x04 => .ok .tlbinva | 0x05 => form .tlbprb (parseTlbprb f)
  | 0x06 => form .rdcyc (pairOf f.d) | 0x07 => form .rdtime (pairOf f.d)
  | _ => .error .unassignedMinor

/-- The form and operands that the fields name, before unused fields are checked. -/
def parse : Except BadCode Instr :=
  match f.cls.toNat with
  | 0 => parse0 f | 1 => parse1 f | 2 => parse2 f | 3 => parse3 f | 4 => parse4 f | 5 => parse5 f | 6 => parse6 f
  | 7 => parse7 f | 8 => parse8 f | 9 => parse9 f | 10 => parseA f | 11 => parseB f
  | _ => .error .reservedClass

end

/-- The instruction of a 96-bit word. Every field that the form does not use must be zero (R31): the word must be the
encoding of what its fields name, and that must be well formed. (DEDUCED, log entry 74.) -/
def decode (w : Code) : Except BadCode Instr :=
  match parse (.ofCode w) with
  | .error e => .error e
  | .ok i => if i.wf && encode i == some w then .ok i else .error .unusedField

/-- The decoder on a table word: an instruction is 12 bytes, little-endian (R23), and `w` numbers its bits from the
least significant bit of the first byte; bits from `nbits` up are zero. -/
def decodeTableWord (nbits w : Nat) : Option Instr :=
  match decode (BitVec.ofNat 96 (w % 2 ^ nbits)) with
  | .ok i => some i
  | .error _ => none

end Sys2Proof
end

