-- ==== Sys2Proof/Machine/Float.lean ====
section
/-!
DEFINITION. Floating point: exact values and one rounding function for every format (R100 to R104), the operations
of class 4 (R66 to R68), conversions (R107 to R109), row scaling and block sums (R113, R118), and the exact
acceptance test (R120).
-/

namespace Sys2Proof.Machine

/-! ## Formats and flags (R100, R103) -/

structure FFmt where
  ebits : Nat
  fbits : Nat
  deriving DecidableEq, Repr

def fp32 : FFmt := ⟨8, 23⟩
def fp16 : FFmt := ⟨5, 10⟩
def bf16 : FFmt := ⟨8, 7⟩

def FFmt.bias (f : FFmt) : Nat := 2 ^ (f.ebits - 1) - 1
def FFmt.emax (f : FFmt) : Nat := 2 ^ f.ebits - 1
def FFmt.signBit (f : FFmt) : Nat := 2 ^ (f.ebits + f.fbits)
/-- The canonical NaN: quiet, sign 0, no payload. -/
def FFmt.nan (f : FFmt) : Nat := f.emax * 2 ^ f.fbits + 2 ^ (f.fbits - 1)
def FFmt.inf (f : FFmt) (neg : Bool) : Nat := (if neg then f.signBit else 0) + f.emax * 2 ^ f.fbits
def FFmt.largest (f : FFmt) (neg : Bool) : Nat := (if neg then f.signBit else 0) + f.emax * 2 ^ f.fbits - 1
def FFmt.zero (f : FFmt) (neg : Bool) : Nat := if neg then f.signBit else 0

/-- `k.fflags`: NV, DZ, OF, UF, NX in bits 4 to 0. -/
abbrev Flags := BitVec 5
def flagNV : Flags := 16
def flagDZ : Flags := 8
def flagOF : Flags := 4
def flagUF : Flags := 2
def flagNX : Flags := 1

/-- The result of a rounding: bits of the format and flags raised. -/
abbrev FRes := Nat × Flags

/-! ## Exact values -/

/-- A float's value: a NaN (signalling or not), an infinity, or ±m · 2^e. -/
inductive FVal
  | nan (sig : Bool) | inf (neg : Bool) | fin (neg : Bool) (m : Nat) (e : Int)
  deriving DecidableEq, Repr

def FVal.isNan : FVal → Bool
  | .nan _ => true
  | _ => false

def FVal.isSig : FVal → Bool
  | .nan s => s
  | _ => false

def unpack (f : FFmt) (b : Nat) : FVal :=
  let neg := b / f.signBit % 2 = 1
  let ex := b / 2 ^ f.fbits % 2 ^ f.ebits
  let fr := b % 2 ^ f.fbits
  if ex = f.emax then
    if fr = 0 then .inf neg else .nan (fr / 2 ^ (f.fbits - 1) = 0)
  else if ex = 0 then .fin neg fr (1 - (f.bias : Int) - f.fbits)
  else .fin neg (2 ^ f.fbits + fr) ((ex : Int) - f.bias - f.fbits)

/-! ## Rounding (R102, R103) -/

/-- Bits of a number: 0 for 0. -/
def bitLen (m : Nat) : Nat := if m = 0 then 0 else m.log2 + 1

/-- Whether a magnitude with floor `fl` and remainder `rem` of `d` is rounded up. -/
def roundUp (rm : Rm) (neg : Bool) (fl rem d : Nat) : Bool :=
  match rm with
  | .rne => 2 * rem > d || (2 * rem == d && fl % 2 == 1)
  | .rtz => false
  | .rup => !neg && rem != 0
  | .rdn => neg && rem != 0

/-- m · 2^−k rounded to an integer, and whether bits were lost. A shift past every bit leaves a remainder under half. -/
def shiftRound (rm : Rm) (neg : Bool) (m k : Nat) : Nat × Bool :=
  if bitLen m + 1 < k then ((roundUp rm neg 0 (if m = 0 then 0 else 1) 4).toNat, m != 0)
  else
    let d := 2 ^ k
    (m / d + (roundUp rm neg (m / d) (m % d) d).toNat, m % d != 0)

/-- m · 2^e at quantum 2^q. -/
def atQuantum (rm : Rm) (neg : Bool) (m : Nat) (e q : Int) : Nat × Bool :=
  if q ≤ e then (m * 2 ^ (e - q).toNat, false) else shiftRound rm neg m (q - e).toNat

/-- A significand of more than `p` bits (a carry) brought back to `p` bits. -/
def renorm (p r : Nat) (q : Int) : Nat × Int := if 2 ^ p ≤ r then (r / 2, q + 1) else (r, q)

def overflowed (f : FFmt) (rm : Rm) (neg : Bool) : Nat :=
  match rm with
  | .rne => f.inf neg
  | .rtz => f.largest neg
  | .rup => if neg then f.largest neg else f.inf neg
  | .rdn => if neg then f.inf neg else f.largest neg

/-- ±m · 2^e rounded once into the format, subnormals kept; UF on a tiny inexact result, tininess after rounding. -/
def roundFin (f : FFmt) (rm : Rm) (neg : Bool) (m : Nat) (e : Int) : FRes :=
  if m = 0 then (f.zero neg, 0)
  else
    let p := f.fbits + 1
    let qU := e + bitLen m - p
    let qMin := 1 - (f.bias : Int) - f.fbits
    let (r0, nx) := atQuantum rm neg m e (max qU qMin)
    let (r, q) := renorm p r0 (max qU qMin)
    let nxF : Flags := if nx then flagNX else 0
    let s := f.zero neg
    if r < 2 ^ f.fbits then
      let (ru, qu) := renorm p (atQuantum rm neg m e qU).1 qU
      let tiny := qu + bitLen ru - 1 < 1 - (f.bias : Int)
      (s + r, nxF ||| (if nx && tiny then flagUF else 0))
    else
      let ex := q + f.bias + f.fbits
      if (f.emax : Int) ≤ ex then (overflowed f rm neg, flagOF ||| flagNX)
      else
        let tiny := qU < qMin &&
          (let (ru, qu) := renorm p (atQuantum rm neg m e qU).1 qU
           qu + bitLen ru - 1 < 1 - (f.bias : Int))
        (s + ex.toNat * 2 ^ f.fbits + (r - 2 ^ f.fbits), nxF ||| (if nx && tiny then flagUF else 0))

/-- An exact value delivered in a format. A NaN is canonical; NV is the operation's to set. -/
def roundVal (f : FFmt) (rm : Rm) : FVal → FRes
  | .nan _ => (f.nan, 0)
  | .inf n => (f.inf n, 0)
  | .fin n m e => roundFin f rm n m e

/-- A value strictly between m · 2^e and (m + 1) · 2^e, for rounding at a coarser quantum. -/
def sticky (neg : Bool) (m : Nat) (e : Int) (inexact : Bool) : FVal :=
  if inexact then .fin neg (2 * m + 1) (e - 1) else .fin neg m e

/-! ## Operations on exact values

Each gives the exact result and the flags that the operands raise (R101). -/

abbrev FExact := FVal × Flags

def nvIf (b : Bool) : Flags := if b then flagNV else 0

/-- The signed integer of a finite value at exponent `e0`, which is at most its own. -/
def finAt (neg : Bool) (m : Nat) (e e0 : Int) : Int :=
  let v : Int := m * 2 ^ (e - e0).toNat
  if neg then -v else v

/-- a + b; an exact zero takes its sign from the operands, or from the mode (R102). -/
def addVal (rm : Rm) (a b : FVal) : FExact :=
  match a, b with
  | .nan s, y => (.nan s, nvIf (s || y.isSig))
  | _, .nan s => (.nan s, nvIf s)
  | .inf n, .inf k => if n = k then (.inf n, 0) else (.nan false, flagNV)
  | .inf n, _ => (.inf n, 0)
  | _, .inf k => (.inf k, 0)
  | .fin n m e, .fin k l g =>
    let e0 := min e g
    let t := finAt n m e e0 + finAt k l g e0
    if t = 0 then (.fin (if n = k then n else rm == .rdn) 0 0, 0) else (.fin (t < 0) t.natAbs e0, 0)

def negVal : FVal → FVal
  | .nan s => .nan s
  | .inf n => .inf (!n)
  | .fin n m e => .fin (!n) m e

def mulVal (a b : FVal) : FExact :=
  match a, b with
  | .nan s, y => (.nan s, nvIf (s || y.isSig))
  | _, .nan s => (.nan s, nvIf s)
  | .inf n, .inf k => (.inf (n != k), 0)
  | .inf n, .fin k m _ => if m = 0 then (.nan false, flagNV) else (.inf (n != k), 0)
  | .fin k m _, .inf n => if m = 0 then (.nan false, flagNV) else (.inf (n != k), 0)
  | .fin n m e, .fin k l g => (.fin (n != k) (m * l) (e + g), 0)

/-- d + a × b with one rounding; 0 × Inf sets NV whatever d is (R101). -/
def fmaVal (rm : Rm) (d a b : FVal) : FExact :=
  let (p, f1) := mulVal a b
  let (x, f2) := addVal rm d p
  (x, f1 ||| f2)

/-- A quotient of naturals as a value, with enough bits for any format. -/
def quotVal (neg : Bool) (m : Nat) (e : Int) (l : Nat) (g : Int) : FVal :=
  let k := 64 + bitLen l
  let n := m * 2 ^ k
  sticky neg (n / l) (e - g - k) (n % l != 0)

/-- a ÷ b (R66). -/
def divVal (a b : FVal) : FExact :=
  match a, b with
  | .nan s, y => (.nan s, nvIf (s || y.isSig))
  | _, .nan s => (.nan s, nvIf s)
  | .inf _, .inf _ => (.nan false, flagNV)
  | .inf n, .fin k _ _ => (.inf (n != k), 0)
  | .fin n _ _, .inf k => (.fin (n != k) 0 0, 0)
  | .fin n m e, .fin k l g =>
    if l = 0 then if m = 0 then (.nan false, flagNV) else (.inf (n != k), flagDZ)
    else (quotVal (n != k) m e l g, 0)

/-- The integer square root, bit by bit from bit `k − 1`. -/
def isqrtFrom : Nat → Nat → Nat → Nat
  | 0, _, r => r
  | k + 1, n, r =>
    let t := r + 2 ^ k
    isqrtFrom k n (if t * t ≤ n then t else r)

def isqrt (n : Nat) : Nat := isqrtFrom (bitLen n / 2 + 1) n 0

/-- √(m · 2^e). -/
def sqrtFin (m : Nat) (e : Int) : FVal :=
  let odd := e % 2 = 1
  let m' := (if odd then 2 * m else m) * 2 ^ 128
  let e' := ((if odd then e - 1 else e) - 128) / 2
  let s := isqrt m'
  sticky false s e' (s * s != m')

def sqrtVal : FVal → FExact
  | .nan s => (.nan s, nvIf s)
  | .inf n => if n then (.nan false, flagNV) else (.inf false, 0)
  | .fin n m e =>
    if m = 0 then (.fin n 0 0, 0) else if n then (.nan false, flagNV) else (sqrtFin m e, 0)

/-- 1/√a (R137). -/
def rsqrtVal : FVal → FExact
  | .nan s => (.nan s, nvIf s)
  | .inf n => if n then (.nan false, flagNV) else (.fin false 0 0, 0)
  | .fin n m e =>
    if m = 0 then (.inf n, flagDZ)
    else if n then (.nan false, flagNV)
    else
      let odd := e % 2 = 1
      let m' := if odd then 2 * m else m
      let e' := (if odd then e - 1 else e) / 2
      let k := 96 + bitLen m'
      let s := isqrt (2 ^ (2 * k) / m')
      (sticky false s (-e' - k) (s * s * m' != 2 ^ (2 * k)), 0)

/-- An exact result rounded into a format. -/
def deliver (f : FFmt) (rm : Rm) (x : FExact) : FRes :=
  let (b, fl) := roundVal f rm x.1
  (b, fl ||| x.2)

/-! ## Comparisons (R67, R132, R139) -/

/-- a − b of finite values has which sign. -/
def ltFin (n : Bool) (m : Nat) (e : Int) (k : Bool) (l : Nat) (g : Int) : Bool :=
  let e0 := min e g
  finAt n m e e0 < finAt k l g e0

/-- a < b; false with a NaN; zeros are equal. -/
def ltVal (a b : FVal) : Bool :=
  match a, b with
  | .nan _, _ => false
  | _, .nan _ => false
  | .inf n, .inf k => n && !k
  | .inf n, .fin _ _ _ => n
  | .fin _ _ _, .inf k => !k
  | .fin n m e, .fin k l g => ltFin n m e k l g

def eqVal (a b : FVal) : Bool := !a.isNan && !b.isNan && !ltVal a b && !ltVal b a

def signVal : FVal → Bool
  | .nan _ => false
  | .inf n => n
  | .fin n _ _ => n

/-- a before b in the order that puts −0 below +0; neither is a NaN. -/
def belowVal (a b : FVal) : Bool := ltVal a b || (eqVal a b && signVal a && !signVal b)

/-- `fmin` (or `fmax`) on bits of a format (R67). -/
def minMaxBits (f : FFmt) (isMax : Bool) (a b : Nat) : FRes :=
  let x := unpack f a
  let y := unpack f b
  let fl := nvIf (x.isSig || y.isSig)
  if x.isNan then (if y.isNan then f.nan else b, fl)
  else if y.isNan then (a, fl)
  else (if belowVal x y != isMax then a else b, fl)

/-- `fabs`, `fneg` on bits of a format: a NaN gives the canonical NaN, and no flag is set. -/
def absBits (f : FFmt) (a : Nat) : Nat := if (unpack f a).isNan then f.nan else a % f.signBit
def negBits (f : FFmt) (a : Nat) : Nat :=
  if (unpack f a).isNan then f.nan else if f.signBit ≤ a then a - f.signBit else a + f.signBit

/-- `feq`, `flt`, `fle` with their flags (R67). -/
def feqBits (f : FFmt) (a b : Nat) : Bool × Flags :=
  let x := unpack f a
  let y := unpack f b
  (eqVal x y, nvIf (x.isSig || y.isSig))
def fltBits (f : FFmt) (a b : Nat) : Bool × Flags :=
  let x := unpack f a
  let y := unpack f b
  (ltVal x y, nvIf (x.isNan || y.isNan))
def fleBits (f : FFmt) (a b : Nat) : Bool × Flags :=
  let x := unpack f a
  let y := unpack f b
  (ltVal x y || eqVal x y, nvIf (x.isNan || y.isNan))

/-- `fclass` of FP32 bits (R67). -/
def fclassBits (b : Nat) : Nat :=
  match unpack fp32 b with
  | .nan s => if s then 256 else 512
  | .inf n => if n then 1 else 128
  | .fin n m _ =>
    if m = 0 then (if n then 8 else 16)
    else if m < 2 ^ 23 then (if n then 4 else 32)
    else (if n then 2 else 64)

/-! ## Conversions (R68, R107 to R109) -/

/-- A float value rounded to an integer in [lo, hi]: NaN gives 0 and infinities the bounds, with NV; a finite value
outside the bounds saturates with OF and not NX. -/
def toInt (rm : Rm) (lo hi : Int) : FVal → Int × Flags
  | .nan _ => (0, flagNV)
  | .inf n => (if n then lo else hi, flagNV)
  | .fin n m e =>
    if 4096 ≤ e ∧ m ≠ 0 then (if n then lo else hi, flagOF)
    else
      let (r, nx) := atQuantum rm n m e 0
      let v : Int := if n then -(r : Int) else r
      if v < lo then (lo, flagOF) else if hi < v then (hi, flagOF) else (v, if nx then flagNX else 0)

def ofInt (v : Int) (e : Int) : FVal := .fin (v < 0) v.natAbs e

/-- An integer times 2^e rounded into a format (R109, R113, R118). -/
def intToFloat (f : FFmt) (rm : Rm) (v : Int) (e : Int) : FRes := roundVal f rm (ofInt v e)

/-- A float-to-float conversion (R108): NV for a signalling NaN. -/
def convert (src dst : FFmt) (rm : Rm) (b : Nat) : FRes :=
  let x := unpack src b
  deliver dst rm (x, nvIf x.isSig)

/-! ## FP32 on words -/

def f32 (w : Word) : FVal := unpack fp32 w.toNat

/-- The 32-bit word of a delivered FP32 result. -/
def wordOf (r : FRes) : Word × Flags := (BitVec.ofNat 32 r.1, r.2)

/-- `RoundFP32(w + a, RNE)` without flags (R54, R256). -/
def addF32Rne (w a : Word) : Word := (wordOf (deliver fp32 .rne (addVal .rne (f32 w) (f32 a)))).1

/-! ## Block sums (R118) -/

/-- An INT64. -/
def fitsI64 (t : Int) : Bool := -(2 : Int) ^ 63 ≤ t && t < (2 : Int) ^ 63

/-- `ShiftRne`; a shift past 128 places leaves of an INT64 what 128 places leave. -/
def shiftRne (v : Int) (d : Nat) : Int × Bool :=
  let (r, nx) := shiftRound .rne (v < 0) v.natAbs (min d 128)
  (if v < 0 then -(r : Int) else r, nx)

/-- `Align`: the new running value and whether NX is raised. -/
def align (m f s e : Int) : Int × Int × Bool :=
  if s = 0 then (m, f, false)
  else if m = 0 then (s, e, false)
  else
    let (t, g, nx) :=
      if e = f then (m + s, f, false)
      else
        let (hv, he, lv, le) := if f < e then (s, e, m, f) else (m, f, s, e)
        let d := (he - le).toNat
        if d < 64 && fitsI64 (hv * 2 ^ d) then (hv * 2 ^ d + lv, le, false)
        else
          let (r, nx) := shiftRne lv d
          (hv + r, he, nx)
    if fitsI64 t then (t, g, nx)
    else
      let (r, nx2) := shiftRne t 1
      (r, g + 1, nx || nx2)

/-! ## The acceptance test (R120) -/

/-- `Accept(d, r)`: outcome and flags. -/
def accept (d r : Word) : Bool × Flags :=
  match f32 r with
  | .nan _ => (false, flagNV)
  | .inf n => (!n, 0)
  | .fin n m e =>
    if m = 0 || n then (false, 0)
    else if !ltFin false m e false 1 0 then (true, 0)
    else (ltFin false d.toNat 0 false m (e + 32), 0)

end Sys2Proof.Machine

namespace Sys2Proof

/-! ## Types of vectors and tiles (R34) -/

def VTy.width : VTy → Nat
  | .i32 | .f32 => 32
  | .i16 | .bf16 | .f16 => 16
  | .i8 => 8

/-- The float format of a float type; `.f32` stands in for integer types, whose meanings never ask. -/
def VTy.ffmt : VTy → Machine.FFmt
  | .bf16 => Machine.bf16
  | .f16 => Machine.fp16
  | _ => Machine.fp32

end Sys2Proof

namespace Sys2Proof.Machine

/-- A `w`-bit pattern read as a signed integer. -/
def signedOf (w : Nat) (b : Nat) : Int :=
  if b % 2 ^ w < 2 ^ (w - 1) then (b % 2 ^ w : Nat) else (b % 2 ^ w : Nat) - (2 : Int) ^ w

/-- An integer's `w`-bit pattern. -/
def patternOf (w : Nat) (v : Int) : Nat := (v % (2 : Int) ^ w).toNat

/-- An integer saturated to `w` bits, signed. -/
def satInt (w : Nat) (v : Int) : Int :=
  if v < -(2 : Int) ^ (w - 1) then -(2 : Int) ^ (w - 1) else if (2 : Int) ^ (w - 1) ≤ v then (2 : Int) ^ (w - 1) - 1 else v

/-- `k.frm` (R102). -/
def rmOfBits (b : BitVec 2) : Rm :=
  match b.toNat with
  | 0 => .rne | 1 => .rtz | 2 => .rup | _ => .rdn

end Sys2Proof.Machine
end

