-- ==== Sys2Proof/Config.lean ====
section
/-!
DEFINITION. What an implementation fixes: the figures of the package (R1, R3), and the free values, which are
constants without a body, so that no proof can see what they are.
-/

namespace Sys2Proof.Config

/-! ## Figures (R1, R3, R185, R191, R195) -/

/-- Bytes of a markhor core's scratchpad (R185). -/
def spBytes : Nat := 196608
/-- Bytes of a moraine core's scratchpad (R185). -/
def moraineSpBytes : Nat := 65536
/-- First offset of the MXU queue image (R169). -/
def imageBase : Nat := 0x2FE00
/-- Bytes of one vault (R3, R191). -/
def vaultBytes : Nat := 0x1800000
/-- One past the last vault byte (R191). -/
def vaultEnd : Nat := 0x180000000
def fwinBase : Nat := 0x200000000
def fwinEnd : Nat := 0x2C0000000
def shadowBase : Nat := 0x300000000
def shadowEnd : Nat := 0x400000000
def appBase : Nat := 0x1000000000
def appEnd : Nat := 0x2000000000
def devBase : Nat := 0x2000000000
def devEnd : Nat := 0x2100000000
def deepBase : Nat := 0x3F36000000
def deepEnd : Nat := 0xFF36000000
/-- Promotion slots of a bank (R3, R195). -/
def slotsPerBank : Nat := 384
/-- Cycles a record waits before it takes priority 3 (R255). -/
def agingCycles : Nat := 8192
/-- Cycles between sweeps, and from a sweep to its result (R321). -/
def sweepPeriod : Nat := 4096
def sweepLatency : Nat := 512
/-- Cycles a thief waits after an empty answer (R264). -/
def stealBackoff : Nat := 256
/-- Cycles of a governor window (R159). -/
def governorPeriod : Nat := 128

/-! ## Free values -/

/-- How many cycles beyond one the n-th step takes (R2, R56): times are not modelled. (DESIGN CHOICE, log entry 3.) -/
opaque extraCycles : Nat → Nat
/-- The skew of a die's package time against the package's, in ns, taken modulo 5 (R99). -/
opaque timeSkew : Nat → Nat
/-- What an accumulator row holds after an activation start (R36, R252 keep nothing and name no value): core, start, row. (DESIGN CHOICE, log entry 21.) -/
opaque startRow : Nat → Nat → Nat → Row
/-- What a new object's handle may be (R86): any value; the meaning keeps it nonzero and unused. (DESIGN CHOICE, log entry 19.) -/
opaque newHandle : Nat → Word

/-- Whether a package number names a package reachable in the fabric domain (R360), which the fabric manager fixes. (DEDUCED, log entry 40.) -/
opaque fabricReaches : Nat → Bool
/-- Whether the partition of another package that a record addresses accepts the record leaving in the n-th step (R250).
(DESIGN CHOICE, log entry 29.) -/
opaque fabricAccepts : Nat → Bool
/-- Which of the units 2 to 7 of R334 the UNCORR notice names when a failed comparison destroys the record of a redelivery
(R342, R346), taken modulo 6. (DESIGN CHOICE, log entry 20.) -/
opaque mismatchUnit : Nat → Nat

end Sys2Proof.Config
end

