-- ==== Sys2Proof/Machine/State.lean ====
section
/-!
DEFINITION. The state of the whole package as plain data: every core with its streams and units, the homes and
cluster caches, the DRAM banks, the die tables, the device registers, the launch interface, the links and the boot
state; and what a step needs beside it (the agenda and the issue context).
-/

namespace Sys2Proof.Machine

/-- The cause codes of R326. -/
inductive Cause
  | illop | illpair | illline | btarget | priv | nopath | align | bound | page | prot | qdir | stream | deque | codelet
  | sendfull | vnet | scope | layout | dirty | cobj | pregion | span | team | journal | poison | trap | svc | handler
  | fetch | uncorr | cap | disc | pagemap | retrain | diereset | jobfault | lost | twin | halted | irq
  deriving DecidableEq, Repr

/-! ## A stream (R35) -/

/-- A draw generator (R146): key, counter, draw index. -/
structure Gen where
  key : DWord
  ctr : DWord
  idx : Word
  deriving DecidableEq, Repr

/-- A global access that its stream has issued and that is not yet performed (R280, R283). -/
inductive AccKind
  | load | volLoad | store | volStore
  deriving DecidableEq, Repr
structure Access where
  kind : AccKind
  va : Nat
  pa : Nat
  /-- bytes: 1, 2, 4, 8, 16 or 64 -/
  n : Nat
  signed : Bool
  /-- where a load's value goes -/
  dst : LdDst
  /-- a store's bytes, low `n` -/
  data : Line
  /-- the release round a store was sent in (R84) -/
  round : Nat
  /-- the slice a store is counted at (R84, R280) -/
  slice : Nat
  /-- its number between the issuing die and the home's die, when they differ, once it is sent (R293) -/
  seq : Option Nat
  /-- poison of a store's data on its way, by granule of the line (R338) -/
  poison : BitVec 4
  /-- a store's message has reached the home's die, where it waits for its line to be unlocked (R218, R293) -/
  arrived : Bool
  /-- the PC of the group that issued it: where a POISON of its answer is raised (R339) -/
  pc : DWord
  deriving DecidableEq, Repr

/-- The states of a proposal region (R220). -/
inductive RegionSt
  | closed | opened | failed | postDraw
  deriving DecidableEq, Repr
/-- A line of the read set with its recorded version (R216). -/
structure RsLine where
  pa : Nat
  va : Nat
  version : Word
  deriving DecidableEq, Repr
/-- A line of the write set: bytes and mask (R216). -/
structure WsLine where
  pa : Nat
  va : Nat
  data : Line
  mask : BitVec 64
  deriving DecidableEq, Repr
/-- What a `pcom` saves once it has drawn (R217): the draw and its index, the decision with its flags, the lines published so
far, and the PC of its group. -/
structure PostDraw where
  draw : Word
  index : Word
  accept : Bool
  flags : BitVec 5
  progress : Nat
  pc : DWord
  /-- a trap in its publication has been taken, so that it has read A in an earlier issue (R217) -/
  resumed : Bool
  deriving DecidableEq, Repr
/-- What a `pcom` whose region has closed has still to write to D (R217): the outcome, the decision's flags, the PC of its group. -/
structure Owed where
  outcome : Word
  flags : BitVec 5
  /-- it has not read A yet -/
  reads : Bool
  pc : DWord
  deriving DecidableEq, Repr
structure Region where
  st : RegionSt
  rs : List RsLine
  ws : List WsLine
  /-- lock pass of a `pcom` that has issued: lines granted so far (R217) -/
  pass : Option Nat
  /-- present from the draw to the end of the `pcom`: the region stays `opened` while it publishes, and it is in post-draw state
  after a trap in the publication (R217, R220) -/
  post : Option PostDraw
  /-- last outcome, 0 to 5 (R224) -/
  last : Nat
  /-- an outcome that could not be written when the region closed (R217) -/
  owed : Option Owed
  deriving DecidableEq, Repr

structure Stream where
  /-- the stream has a PC to issue from -/
  running : Bool
  pc : DWord
  g : FMap Word
  o : FMap Word
  x : FMap Word
  region : Region
  /-- outstanding global accesses, oldest first -/
  acc : List Access
  /-- the fetch line that the stream has buffered: its virtual address and bits (R30, R281) -/
  fetched : Option (Nat × Line)
  /-- the group at `pc` is entered by a transfer, a dispatch or `rett`: the trap value of a BTARGET there, and whether
  the slot's target bit is required (R29; not after `rett`) -/
  entering : Option (DWord × Bool)
  /-- pages that the range form at `pc` has translated so far: base and physical base (R85) -/
  ranged : List (Nat × Nat)
  /-- after `fence.rel.stream`: its next store waits for those before the fence (R92) -/
  fenced : Bool
  /-- its `done` has issued beside another half, whose work the activation's end waits for (R28, R72) -/
  ending : Bool
  /-- an `msync` waits until so many commands of the activation have completed (R171) -/
  syncAt : Option Nat
  /-- a load has come back poisoned: the PC of its group and the trap value of its POISON (R339) -/
  struck : Option (DWord × DWord)
  deriving DecidableEq, Repr

/-- An instance of a scope (R278). -/
inductive Inst
  | stream (core : Nat) (hind : Bool) | core (core : Nat) | team (cores : List Nat) | cluster (k : Nat) | quad (k : Nat)
  | die (d : Nat) | part (dies : List Nat) | pkg | host | fab | sys
  deriving DecidableEq, Repr

/-! ## Units of a core (R36) -/

/-- Control registers that are not derived from other state (R37). -/
structure CRegs where
  frm : BitVec 2
  fflags : BitVec 5
  qdir : BitVec 8
  acct : Bool
  mxbud : Nat
  mxstl : Word
  mxsat : Bool
  rzero : Word
  rngmode : Bool
  disc : Bool
  redo : Bool
  cause : BitVec 9
  epc : DWord
  tval : DWord
  tshp : FMap Word
  reg : FMap DWord
  ptbr : BitVec 52
  priv : Bool
  deriving DecidableEq, Repr

/-- An entry of the handler table (R253). -/
structure HEntry where
  pc : BitVec 52
  prio : BitVec 2
  op : BitVec 4
  mask : BitVec 13
  valid : Bool
  deriving DecidableEq, Repr

/-- An MXU command (R166, R169). -/
structure MxCmd where
  /-- 2 mwl, 3 mma, 4 mmt, 5 mclr -/
  minor : Nat
  fmt : BitVec 4
  acct : Bool
  tag : Byte
  executing : Bool
  hind : Bool
  d : Byte
  a : Byte
  x : Byte
  m : Nat
  shape : Word
  rows : Nat
  /-- its place in the queue image -/
  slot : Nat
  deriving DecidableEq, Repr
/-- The weight latch (R163, R175): the bytes of the tile latched, under its shape. -/
structure Latch where
  fmt : BitVec 4
  shape : Word
  bytes : FMap Byte
  poison : Bool
  deriving DecidableEq, Repr
/-- A row that a link carries (R177), with its exponent byte. -/
structure LinkRow where
  fmt : BitVec 4
  data : Row
  exp : Byte
  poison : Bool
  deriving DecidableEq, Repr
structure Mxu where
  /-- oldest first -/
  cmds : List MxCmd
  /-- commands queued so far in the activation -/
  queued : Nat
  head : Nat
  lastTag : Byte
  latch : Option Latch
  /-- format and shape of the most recently issued `mwl` of the activation (R168) -/
  issued : Option (BitVec 4 × Word)
  /-- rows admitted in governor window number `winNo` (R159) -/
  winRows : Nat
  winNo : Nat
  /-- the cycle of the die's count from which a row waits for the next window, not yet added to `k.mxstl` (R159) -/
  govFrom : Option Nat
  /-- stopped for a context restore: it resumes from what the image then holds (R169) -/
  halted : Bool
  links : FMap (List LinkRow)
  deriving DecidableEq, Repr

/-- A waiting record of the drift queue (R242, R255, R256). -/
structure Waiting where
  r : Line
  since : Nat
  aged : Bool
  folds : Nat
  /-- exact sums under `adds.w`, by word number (R256) -/
  sums : FMap Int
  /-- pool of a claim record; 0 for none (R312) -/
  claim : Nat
  deriving DecidableEq, Repr
structure DriftQ where
  waiting : List Waiting
  priv : List Line
  limit : Nat
  spill : Bool
  ringBase : Nat
  ringLen : Nat
  ringHead : Nat
  ringCount : Nat
  /-- the region named by a `dqctl.spill` that found the ring non-empty (R243) -/
  nextRing : Option (Nat × Nat)
  deriving DecidableEq, Repr

/-- What a send-queue entry or a flight carries. -/
inductive MsgKind
  | record | decrement | token
  deriving DecidableEq, Repr
/-- An entry of a send queue (R241, R260). -/
structure SendEntry where
  kind : MsgKind
  r : Line
  /-- destinations that have not accepted yet -/
  dsts : List Nat
  held : Bool
  /-- placed by trap handling, and so not by the trapped activation (R328) -/
  byTrap : Bool
  /-- the multicast's mailbox for acknowledgements (R261) -/
  ack : Option Nat
  inFlight : Bool
  /-- for another package: its sequence number there and the rail group that carries it (R294) -/
  fab : Option (Nat × Nat)
  deriving DecidableEq, Repr
/-- `mack` tokens for one mailbox of one core (R261). -/
structure Token where
  core : Nat
  mbox : Nat
  n : Nat
  byTrap : Bool
  deriving DecidableEq, Repr
/-- A `fork` record (R73). -/
structure Task where
  target : DWord
  src : Nat
  args : List Word
  deriving DecidableEq, Repr
/-- Where a thief stands (R264): an answer holds the victim and its record. -/
inductive Steal
  | ready | asked (answer : Option (Nat × Task)) | backoff (since : Nat)
  deriving DecidableEq, Repr

/-- A counter of the rime crossbar (R273). -/
structure XCounter where
  cfg : Word
  count : Nat
  deriving DecidableEq, Repr
/-- A term of the rime crossbar (R273). -/
structure XTerm where
  cfg : Word
  credits : Nat
  wakes : Nat
  /-- a firing whose record was refused is held (R273) -/
  holding : Bool
  deriving DecidableEq, Repr

/-- A space of an engine address (R266). -/
inductive Space
  | glob | sp (core : Nat) | dram
  deriving DecidableEq, Repr
/-- A footprint (R265). -/
structure Foot where
  space : Space
  base : Nat
  len : Nat
  deriving DecidableEq, Repr
/-- What a card asks for (R267, R269, R271). -/
inductive Work
  | copy (src : Space) (sa : Nat) (dst : Space) (da : Nat) (len : Nat)
  | gather (src : Space) (base : Nat) (entries size list count : Nat) (dst : Space) (da : Nat) (fill : Word) (desc : Nat)
  | coll (kind op m rank : Nat) (key : Word) (src dst count : Nat) (desc : Nat)
  deriving DecidableEq, Repr
/-- What of a card's stream was on its way when the card was pushed (R295): so many of the oldest outstanding accesses, and of
its writes to each neighbour's scratchpad. -/
structure Before where
  accs : Nat
  nbs : FMap Nat
  deriving DecidableEq, Repr
/-- A job card (R265). -/
structure Card where
  core : Nat
  hind : Bool
  tag : Byte
  ptbr : Nat
  work : Work
  setFull : Bool
  layout : BitVec 4
  /-- completion counter: owner and descriptor offset -/
  counter : Option (Nat × Nat)
  reads : List Foot
  writes : List Foot
  before : Before
  deriving DecidableEq, Repr

/-- A line write on its way to a scratchpad port from a neighbour (R134). -/
structure NbWrite where
  src : Nat
  hind : Bool
  off : Nat
  n : Nat
  data : Granule
  fill : Bool
  poison : Bool
  deriving DecidableEq, Repr
/-- A granule that `dpush` sends (R156). -/
structure PushGran where
  src : Nat
  off : Nat
  data : Granule
  tag : BitVec 4
  poison : Bool
  deriving DecidableEq, Repr

/-- A TLB entry (R208): page base, page size code of R98, physical base, permissions. -/
structure TlbEntry where
  va : Nat
  size : Nat
  pa : Nat
  r : Bool
  w : Bool
  x : Bool
  deriving DecidableEq, Repr

/-- A release query of a core (R84, R286), with the round that it closed. -/
structure Query where
  hind : Bool
  round : Nat
  scope : Scope
  /-- the instance of the scope when the query was issued (R279) -/
  inst : Inst
  answered : Bool
  /-- its stream was suspended or ended before the answer (R327) -/
  abandoned : Bool
  deriving DecidableEq, Repr
/-- A count at a slice for one round (R84). -/
structure SliceCount where
  slice : Nat
  round : Nat
  n : Nat
  deriving DecidableEq, Repr

/-- A running activation (R251). -/
structure Activation where
  /-- the record as dispatched -/
  r : Line
  /-- started by a `fork` record (R73) -/
  task : Option Task
  /-- started for trap handling (R327) -/
  handling : Bool
  /-- pool of the claim record that started it; 0 for none -/
  claim : Nat
  deriving DecidableEq, Repr
/-- A granule of the journal (R343): bytes, byte mask, and the poison of the data (R338). -/
structure JEntry where
  data : Granule
  mask : BitVec 16
  bad : Bool
  deriving DecidableEq, Repr
/-- A trapped activation, suspended (R327). -/
structure Suspended where
  fore : Stream
  hind : Stream
  act : Option Activation
  priv : Bool
  /-- the stream whose group trapped (R329) -/
  trapped : Bool
  deriving DecidableEq, Repr

/-- An uncorrectable error that waits for the core's publication to be completed before it rolls the activation back or stops the
core (R236): its unit's code and the struck line's address (R334), and the second cause where the core stops (R330, R346). -/
structure Dying where
  code : Nat
  pa : Nat
  halts : Option Cause
  deriving DecidableEq, Repr

structure Core where
  fore : Stream
  hind : Stream
  genFore : Gen
  genHind : Gen
  /-- lane generators; an unlisted one holds its reset value (R150) -/
  lanes : FMap Gen
  /-- q0 to q7, oldest entry first -/
  queues : FMap (List Word)
  /-- v0 to v127, the rows of acc0 and acc1 (R122); an unlisted row holds its start value -/
  rows : FMap Row
  /-- activation starts so far: the model's own counter, by which the start values of rows are free -/
  starts : Nat
  rowPoison : List Nat
  tiles : FMap (FMap Byte)
  /-- poisoned tile rows, as 256 · tile + row -/
  tilePoison : List Nat
  exps : FMap Line
  mxu : Mxu
  /-- vector instructions whose completion is outstanding (R129) -/
  vecBusy : Nat
  sp : FMap Byte
  /-- full granules, ascending -/
  spFull : List Nat
  spPoison : List Nat
  /-- discardable granules that came back empty (R188) -/
  spGone : List Nat
  spTag : FMap (BitVec 4)
  /-- journal, by granule number (R343) -/
  journal : FMap JEntry
  handlers : FMap HEntry
  cr : CRegs
  dq : DriftQ
  /-- send queues of the request, reply and privileged networks -/
  sendq : FMap (List SendEntry)
  tokens : List Token
  mail : FMap Word
  deque : List Task
  lfsr : BitVec 16
  steal : Steal
  xcount : FMap XCounter
  xterm : FMap XTerm
  fifo : List Card
  nbq : List NbWrite
  portq : List PushGran
  tlb : List TlbEntry
  /-- pages (va / 32 KiB) whose walk has failed and has not been taken up -/
  walkFail : List Nat
  round : Nat
  sentTo : List SliceCount
  counted : List SliceCount
  /-- release queries: at most one is unanswered (R93) -/
  queries : List Query
  act : Option Activation
  susp : Option Suspended
  stopped : Bool
  /-- activations to start again after a rollback, the next one first (R342) -/
  redeliver : List Activation
  sent : DWord
  recv : DWord
  idleSince : Nat
  /-- the pool in force of the core as a claimant, 0 for none, and the cycle from which it is one (R312, R314) -/
  pool : Nat
  poolSince : Nat
  /-- the id that a secondary core of a twin pair (R346) or a member moved from another package (R310) reads in k.coreid -/
  homeId : Option Nat
  /-- the home package and home partition of a member moved from another package (R310) -/
  home : Option (Nat × Nat)
  /-- a twin comparison has failed on the record that runs or starts again (R346) -/
  twinFailed : Bool
  /-- compared accesses of the activation so far: the sequence number of the next (R346) -/
  presented : Nat
  /-- an error that waits for a publication to be completed (R236) -/
  dying : Option Dying
  deriving DecidableEq, Repr

/-! ## The package -/

/-- A line in a way of a cluster-cache slice (R194). -/
structure CacheLine where
  /-- line number, pa / 64 -/
  ln : Nat
  homed : Bool
  data : Line
  mask : BitVec 64
  /-- poisoned granules of the copy -/
  poison : BitVec 4
  deriving DecidableEq, Repr

/-- Locks and holds on a line (R217): a region is a core and a stream. -/
structure LineLock where
  writer : Option (Nat × Bool)
  readers : List (Nat × Bool)
  deriving DecidableEq, Repr

/-- A coherence object (R86). `frames` pairs each 32 KiB page of the range with its physical page. -/
structure Obj where
  die : Nat
  part : Nat
  handle : Word
  base : Nat
  len : Nat
  mode : Nat
  prop : Bool
  frames : List (Nat × Nat)
  deriving DecidableEq, Repr

/-- A promotion slot (R197). -/
structure Promo where
  row : Nat
  age : Nat
  pinned : Bool
  part : Nat
  deriving DecidableEq, Repr
structure Bank where
  slots : FMap Promo
  counter : Nat
  deriving DecidableEq, Repr
/-- A line write that a channel controller has accepted (R200). -/
structure BankOp where
  pa : Nat
  data : Line
  /-- poison by granule (R338) -/
  poison : BitVec 4
  deriving DecidableEq, Repr
/-- A line write that waits at its channel controller (R200): its core and its bank. -/
structure BankWait where
  core : Nat
  bank : Nat
  op : BankOp
  deriving DecidableEq, Repr

/-- A bind record (R302). -/
structure BindRec where
  w0 : Word
  w1 : Word
  w2 : Word
  status : Word
  valid : Bool
  /-- a write that clears valid waits for its members to be idle (R305) -/
  clearing : Bool
  deriving DecidableEq, Repr

structure ClaimRec where
  r : Line
  pool : Nat
  deriving DecidableEq, Repr

/-- A page-table walk (R211). `page` is va[51:15]; `reqs` the cores whose misses folded into it. -/
structure Walk where
  die : Nat
  ptbr : Nat
  page : Nat
  level : Nat
  table : Nat
  reqs : List Nat
  deriving DecidableEq, Repr

inductive JobStage
  | unit | inbox | done
  deriving DecidableEq, Repr
/-- A job in a die's footprint unit (R266). -/
structure Job where
  die : Nat
  card : Card
  stage : JobStage
  /-- granules completed -/
  progress : Nat
  /-- the index word that a gather has read for its current element (R270) -/
  index : Option Word
  /-- cause of its suspension (R337) -/
  fault : Option Cause
  /-- the JOBFAULT notice of its suspension -/
  notice : Option Line
  /-- pages that the engine has translated, each of its leaf's size (R268) -/
  pages : List TlbEntry
  /-- its status word has been written (R272) -/
  reported : Bool
  /-- the notice of its suspension has been served -/
  served : Bool
  outOfRange : Bool
  groupError : Bool
  flags : BitVec 5
  deriving DecidableEq, Repr

/-- A message on its way (R249, R367). `net` and `src` name the send queue that it left, when it left one. -/
structure Flight where
  kind : MsgKind
  r : Line
  dst : Nat
  net : Nat
  src : Option Nat
  /-- partition that it stays within (R250); its cores refuse it while they are swapped out (R344) -/
  part : Nat
  /-- counted under R245 -/
  counts : Bool
  /-- partition whose launch interface injected it (R319) -/
  launch : Option Nat
  /-- for a token: the mailbox and the count -/
  mbox : Nat
  n : Nat
  /-- poison of its payload by granule (R338) -/
  poison : BitVec 4
  /-- the package that it goes to, for a message of a member moved from there (R310); 0 for this package -/
  abroad : Nat
  /-- on its way to another package: its sequence number there and the rail group that carries it (R294) -/
  fab : Option (Nat × Nat)
  deriving DecidableEq, Repr
/-- A multicast that every destination has accepted: its acknowledgements are on their way back (R261). -/
structure AckGroup where
  core : Nat
  mbox : Nat
  deriving DecidableEq, Repr
structure LinkFlight where
  dst : Nat
  dir : Nat
  row : LinkRow
  deriving DecidableEq, Repr

/-- A notice before it is delivered (R331): `own` where it concerns no core, so that its source is the id of the supervisor
that takes it. -/
structure Notice where
  own : Bool
  r : Line
  deriving DecidableEq, Repr
/-- Registers and held notices of a partition (R332, R349). -/
structure Part where
  sup : Word
  qos : Word
  dropped : Nat
  held : List Notice
  deriving DecidableEq, Repr

/-- The launch interface of a partition (R322 to R324). -/
structure Launch where
  head : Nat
  tail : Nat
  stopped : Bool
  err : Nat
  batchOpen : Bool
  launchOpen : Bool
  batches : Nat
  /-- sums of the sweep under way and of the last good one (R321) -/
  sweep : Option (Nat × Bool × Nat × Nat)
  last : Option (Nat × Nat)
  quiet : Bool
  deriving DecidableEq, Repr

/-- A die link or rail group (R347, R348). -/
inductive LinkSt
  | up | retraining | down
  deriving DecidableEq, Repr
structure LinkState where
  lost : Nat
  st : LinkSt
  deriving DecidableEq, Repr
/-- A message on its way between two dies (R293). -/
structure Packet where
  seqNo : Nat
  body : PacketBody
  /-- on the alternate route, y then x -/
  alt : Bool
  /-- at its destination, which holds it until the gap before it is filled -/
  arrived : Bool
  deriving DecidableEq, Repr

/-- Free slots of a cluster type on a die that a package lends to the launch of a partition of a package, as port 15
advertises them (R310). -/
structure Offer where
  pkg : Nat
  die : Nat
  home : Nat
  part : Nat
  isS : Bool
  free : Nat
  deriving DecidableEq, Repr
/-- Free slots that this package lends: to the launch of a partition of a package, on a die, with the page table that
the operating system supplies for it (R310). -/
structure Lent where
  pkg : Nat
  part : Nat
  die : Nat
  isS : Bool
  ptbr : BitVec 52
  deriving DecidableEq, Repr
/-- A team on its way between packages, as fabric messages carry it (R308, R310): its home package and partition,
the die and number it leaves, the die it goes to and its number there, its bind record, its members' home ids and contexts in rank
order, and their engine jobs. -/
structure MovedTeam where
  home : Nat
  part : Nat
  src : DieAt
  team : Nat
  dst : DieAt
  toTeam : Nat
  bind : BindRec
  members : List (Nat × Core)
  jobs : List Job
  deriving DecidableEq, Repr
/-- What a lending package reports of a moved member at a sweep (R310): idle, and its two counts. -/
structure Report where
  idle : Bool
  sent : DWord
  recv : DWord
  deriving DecidableEq, Repr

/-- Interrupts raised at the application cores (R322, R335). -/
inductive AppIrq
  | launchStop (part : Nat) | batchEnd (part : Nat) | pageRequest (part : Nat)
  deriving DecidableEq, Repr

/-- Why an image is not accepted (R363). -/
inductive BootCause
  | signature | version
  deriving DecidableEq, Repr
/-- How far the module has booted (R361). -/
inductive BootSt
  | off | firmware | running | failed (stage : Nat) (cause : BootCause)
  deriving DecidableEq, Repr

/-- A partition's context in shadow storage (R345). Times of waiting records are kept there as ages. -/
structure Context where
  dies : List Nat
  cores : FMap Core
  slots : FMap BindRec
  pools : FMap Word
  claimq : FMap (List ClaimRec)
  claimSent : FMap DWord
  claimRecv : FMap DWord
  drains : FMap Word
  poolActive : List Nat
  objs : List Obj
  jobs : List Job
  /-- twin pairs of its dies (R346) -/
  twins : List (Nat × Nat)
  /-- pinned promotions of the partition's banks: bank, slot, promotion -/
  promos : List (Nat × Nat × Promo)
  deriving DecidableEq, Repr

structure Device where
  cycle : Nat
  tick : Nat
  cores : FMap Core
  /-- home bytes by physical address: vaults, application-die memory, DRAM rows -/
  mem : FMap Byte
  memPoison : List Nat
  caches : FMap (List CacheLine)
  scopes : FMap Inst
  versions : FMap Word
  locks : FMap LineLock
  objs : List Obj
  banks : FMap Bank
  bankq : FMap (List BankOp)
  /-- line writes that wait at a channel controller, oldest first, by 64 · die + channel (R200) -/
  linesWait : FMap (List BankWait)
  slots : FMap BindRec
  claimq : FMap (List ClaimRec)
  /-- records that a die's claim queue has sent and received (R311, R320) -/
  claimSent : FMap DWord
  claimRecv : FMap DWord
  drains : FMap Word
  /-- pools (4 · die + pool) that hold a claim record or have a busy claimant -/
  poolActive : List Nat
  walks : List Walk
  jobs : List Job
  flights : List Flight
  linkFlights : List LinkFlight
  acks : List AckGroup
  dieParts : FMap Nat
  dieEpoch : FMap Nat
  parts : FMap Part
  launches : FMap Launch
  /-- device registers with no behaviour of their own, by address (R356) -/
  regs : FMap Word
  ert : Nat
  pkgNum : Nat
  links : FMap LinkState
  /-- partitions whose traffic has used a die boundary or a fabric group (R347, R348), as 8 · link + partition, ascending -/
  linkUse : List Nat
  /-- the next number that a die sends and the next that a die expects, by 16 · source + destination (R293) -/
  sentSeq : FMap Nat
  nextSeq : FMap Nat
  /-- messages on their way or held, oldest first, by the same key (R293) -/
  heldPackets : FMap (List Packet)
  /-- the next message expected of each package, and early ones: sequence number, destination, message (R294) -/
  fabSeq : FMap Nat
  heldFab : FMap (List (Nat × Nat × FabricMsg))
  /-- the next number of a message for another package (R294) -/
  fabSent : FMap Nat
  /-- new ids of moved members (R309), by 65536 times the partition plus the old id -/
  moved : FMap Nat
  /-- packages of members moved to another package, and what those report of them (R310), by the same key -/
  away : FMap Nat
  /-- packages to which members of other packages have gone on from here (R310), by 65536 times this partition plus the id that
  they had here -/
  passedOn : FMap Nat
  reports : FMap Report
  offers : List Offer
  lent : List Lent
  /-- teams on their way to or from this package (R310) -/
  travel : List MovedTeam
  shadow : FMap Context
  twins : List (Nat × Nat)
  boot : BootSt
  /-- what AD has reported to the board controller: stage and cause (R361) -/
  bootReports : List (Nat × BootCause)
  mlog : List (BitVec 512)
  secVer : Nat
  /-- the root public key fused into AD (R363) -/
  rootKey : BitVec 456
  /-- the private key of the device identity pair and the certificate of its public key (R364) -/
  idSecret : BitVec 456
  idCert : BitVec 912
  quotes : List (BitVec 1744)
  appIrqs : List AppIrq
  /-- what the last DMA access returned; none for an Unsupported Request (R354) -/
  dmaReply : Option (List Byte)
  /-- private memories of the management cores, by die; what the last access of each read; and access faults raised (R357) -/
  mgmtMem : FMap (FMap Byte)
  mgmtReply : FMap Nat
  mgmtFaults : FMap (List Nat)
  deriving DecidableEq, Repr

/-! ## What a step needs beside the device -/

/-- Who issues, in which lane, at which PC (R26, R28). -/
structure IssueCtx where
  core : Nat
  hind : Bool
  lane1 : Bool
  pc : DWord
  slotPc : DWord
  nextPc : DWord
  /-- float flags that the group has raised so far (R64) -/
  raised : BitVec 5
  /-- the group has drawn from lane generators (R151) -/
  drew : Bool
  /-- the group is a pair (R26) -/
  paired : Bool
  deriving DecidableEq, Repr

/-- What arrives from other packages through port 15 and the fabric (R310): free slots advertised or lent, a team on its
way, a report of a moved member. -/
inductive FabricNews
  | offer (o : Offer) | lend (l : Lent) | team (t : MovedTeam) | report (part id : Nat) (r : Report)
  deriving DecidableEq, Repr

/-- An access of a management core in its own address space (R357): a read, or a write of a value. -/
inductive MgmtOp
  | read | write (v : Nat)
  deriving DecidableEq, Repr

/-- An entry of the agenda: an event takes place, a stream is offered the next issue, news of other packages arrives, or
a management core makes an access of some bytes. (DESIGN CHOICE, log entry 1.) -/
inductive Act
  | event (i : Instr) | turn (core : Nat) (hind : Bool) | news (n : FabricNews) | mgmt (die addr bytes : Nat) (op : MgmtOp)
  deriving DecidableEq, Repr

structure State where
  dev : Device
  /-- the device as it stood before the first half of a pair (R28) -/
  pair : Option Device
  issue : IssueCtx
  /-- what happens next, in order; the outside world's part of a run -/
  agenda : List Act
  /-- the last issue blocked (R54) -/
  blocked : Bool
  /-- the trap that the last instruction took -/
  took : Option Cause
  deriving DecidableEq, Repr

/-- Why the machine can stop with a fault. -/
inductive Fault
  /-- Raised by `step` when the agenda offers the issue to an id that names no core (R248). Safe: no hardware does this. -/
  | noSuchCore
  deriving DecidableEq, Repr

/-- Why an instruction has no meaning. -/
inductive Refusal
  /-- Raised by an arm of `exec` that has no meaning yet. Safe: nothing is claimed of the instruction. -/
  | notModelled (mnemonic : String)
  deriving DecidableEq, Repr

/-! ## Reset -/

def Region.reset : Region := ⟨.closed, [], [], none, none, 0, none⟩

/-- A stream at the start of an activation, idle (R35). (DESIGN CHOICE, log entry 6.) -/
def Stream.reset : Stream := ⟨false, 0, [], [], [], Region.reset, [], none, none, [], false, false, none, none⟩

/-- The reset value of generator `g` of a core (R150). -/
def Gen.reset (id g : Nat) : Gen := ⟨BitVec.ofNat 64 (id * 256 + g), 0, 0⟩

/-- R37. -/
def CRegs.reset : CRegs :=
  { frm := 0, fflags := 0, qdir := 0, acct := false, mxbud := 128, mxstl := 0, mxsat := false, rzero := 0,
    rngmode := false, disc := false, redo := false, cause := 0, epc := 0, tval := 0, tshp := [], reg := [],
    ptbr := 0, priv := false }

def Mxu.reset : Mxu := ⟨[], 0, 0, 0, none, none, 0, 0, none, false, []⟩

/-- R242: T = 64 and spill mode off. -/
def DriftQ.reset : DriftQ := ⟨[], [], 64, false, 0, 0, 0, 0, none⟩

/-- A core at die reset (R150, R242, R253, R261, R264, R273). (DESIGN CHOICE, log entry 5; DESIGN CHOICE, log entry 6.) -/
def Core.reset (id : Nat) : Core :=
  { fore := Stream.reset, hind := Stream.reset, genFore := Gen.reset id 128, genHind := Gen.reset id 129, lanes := [],
    queues := [], rows := [], starts := 0, rowPoison := [], tiles := [], tilePoison := [], exps := [], mxu := Mxu.reset, vecBusy := 0,
    sp := [], spFull := [], spPoison := [], spGone := [], spTag := [], journal := [], handlers := [], cr := CRegs.reset,
    dq := DriftQ.reset, sendq := [], tokens := [], mail := [], deque := [],
    lfsr := if id = 0 then 0xACE1 else BitVec.ofNat 16 id, steal := .ready, xcount := [], xterm := [], fifo := [],
    nbq := [], portq := [], tlb := [], walkFail := [], round := 0, sentTo := [], counted := [], queries := [],
    act := none, susp := none, stopped := false, redeliver := [], sent := 0, recv := 0, idleSince := 0, pool := 0, poolSince := 0, homeId := none,
    home := none, twinFailed := false, presented := 0, dying := none }

/-- DESIGN CHOICE, log entry 4; DESIGN CHOICE, log entry 6. -/
def Device.reset : Device :=
  { cycle := 0, tick := 0, cores := [], mem := [], memPoison := [], caches := [], scopes := [], versions := [], locks := [],
    objs := [], banks := [], bankq := [], linesWait := [], slots := [], claimq := [], claimSent := [], claimRecv := [], drains := [], poolActive := [], walks := [], jobs := [],
    flights := [], linkFlights := [], acks := [], dieParts := [], dieEpoch := [], parts := [], launches := [], regs := [],
    ert := 0, pkgNum := 0, links := [], linkUse := [], sentSeq := [], nextSeq := [], heldPackets := [], fabSeq := [], heldFab := [], fabSent := [],
    moved := [], away := [], passedOn := [], reports := [], offers := [], lent := [], travel := [], shadow := [], twins := [],
    boot := .off, bootReports := [], mlog := [], secVer := 0, rootKey := 0, idSecret := 0, idCert := 0, quotes := [], appIrqs := [], dmaReply := none,
    mgmtMem := [], mgmtReply := [], mgmtFaults := [] }

/-- The machine right after reset: no core runs an activation, every table is empty (R36, R37, R251 to R253, R302, R361). -/
def State.reset : State :=
  { dev := Device.reset, pair := none, issue := ⟨0, false, false, 0, 0, 0, 0, false, false⟩, agenda := [], blocked := false, took := none }

end Sys2Proof.Machine
end

