-- ==== Sys2Proof/Machine/Cores.lean ====
section
/-!
DEFINITION. Core ids and places (R1, R190, R196, R248), the accessors of cores, streams and control registers, the
regions of a scratchpad (R186 to R188), and the bytes of a scratchpad with their full bits, tags, poison and journal
(R185, R189, R338, R343).
-/

namespace Sys2Proof.Machine

/-! ## Core ids (R248) -/

def isMarkhor (id : Nat) : Bool := id < 0x8000 && id % 8 == 0
def isMoraine (id : Nat) : Bool := 0x8000 ≤ id && id < 0x10000 && id % 8 == 0 && id / 512 % 8 == 0
def isCore (id : Nat) : Bool := isMarkhor id || isMoraine id
def dieOf (id : Nat) : Nat := id / 4096 % 8
/-- A moraine core's channel, 0 to 63. -/
def channelOf (id : Nat) : Nat := id / 8 % 64
/-- The cluster of a core on its die; a moraine core's is the one it attaches to (R196). -/
def clusterOf (id : Nat) : Nat :=
  if isMarkhor id then id / 128 % 32
  else if channelOf id < 32 then channelOf id / 4 else 24 + (channelOf id - 32) / 4
/-- The cluster's number in the package. -/
def pkgCluster (id : Nat) : Nat := 32 * dieOf id + clusterOf id
def coreNo (id : Nat) : Nat := id / 8 % 16
def markhorId (die cluster n : Nat) : Nat := 4096 * die + 128 * cluster + 8 * n
def moraineId (die channel : Nat) : Nat := 0x8000 + 4096 * die + 8 * channel
/-- Clusters at odd x are S-clusters (R1). -/
def isSCore (id : Nat) : Bool := isMarkhor id && clusterOf id % 2 == 1
def isFCore (id : Nat) : Bool := isMarkhor id && clusterOf id % 2 == 0

/-- The neighbour of a markhor core in a direction (R190). -/
def neighbour (id : Nat) (dir : Dir) : Option Nat :=
  let row := coreNo id / 4
  let col := coreNo id % 4
  let x := clusterOf id % 8
  let y := clusterOf id / 8
  let at_ (x y row col : Nat) : Nat := markhorId (dieOf id) (8 * y + x) (4 * row + col)
  if !isMarkhor id then none
  else match dir with
    | .n => if 0 < row then some (at_ x y (row - 1) col) else if 0 < y then some (at_ x (y - 1) 3 col) else none
    | .s => if row < 3 then some (at_ x y (row + 1) col) else if y < 3 then some (at_ x (y + 1) 0 col) else none
    | .e => if col < 3 then some (at_ x y row (col + 1)) else if x < 7 then some (at_ (x + 1) y row 0) else none
    | .w => if 0 < col then some (at_ x y row (col - 1)) else if 0 < x then some (at_ (x - 1) y row 3) else none

/-- Bytes of a core's scratchpad (R185). -/
def spSize (id : Nat) : Nat := if isMoraine id then Config.moraineSpBytes else Config.spBytes

/-! ## Cores of the device -/

def Device.core (d : Device) (id : Nat) : Core := FMap.get d.cores id (Core.reset id)
def Device.setCore (d : Device) (id : Nat) (c : Core) : Device := { d with cores := FMap.set d.cores id c }
def Device.modCore (d : Device) (id : Nat) (f : Core → Core) : Device := d.setCore id (f (d.core id))

/-- A core and the secondaries that share what arrives for it (R346). -/
def Device.receivers (d : Device) (id : Nat) : List Nat := id :: (d.twins.filter fun p => p.1 == id).map (·.2)

/-- A stream is kept at an earlier group of its own, which issues again with those behind it (R329). -/
def Stream.reissueAt (t : Stream) (pc : DWord) : Stream := { t with pc := pc, entering := none, ending := false, struck := none }
/-- A stream that was to take POISON for a load issues the load's group again instead (R329). -/
def Stream.reissued (t : Stream) : Stream :=
  match t.struck with
  | some (pc, _) => t.reissueAt pc
  | none => t

def Core.stream (c : Core) (hind : Bool) : Stream := if hind then c.hind else c.fore
def Core.setStream (c : Core) (hind : Bool) (t : Stream) : Core := if hind then { c with hind := t } else { c with fore := t }
def Core.modStream (c : Core) (hind : Bool) (f : Stream → Stream) : Core := c.setStream hind (f (c.stream hind))
def Core.gen (c : Core) (hind : Bool) : Gen := if hind then c.genHind else c.genFore
def Core.setGen (c : Core) (hind : Bool) (g : Gen) : Core := if hind then { c with genHind := g } else { c with genFore := g }
def Core.lane (c : Core) (id i : Nat) : Gen := FMap.get c.lanes i (Gen.reset id i)
def Core.setLane (c : Core) (i : Nat) (g : Gen) : Core := { c with lanes := FMap.set c.lanes i g }

/-- What a row holds that nothing has written since the activation start. (DESIGN CHOICE, log entry 21.) -/
def Core.startRow (c : Core) (id n : Nat) : Row := if c.starts = 0 then 0 else Config.startRow id c.starts n
def Core.row (c : Core) (id n : Nat) : Row := FMap.get c.rows n (c.startRow id n)
/-- A row written with its poison (R338, R339). -/
def Core.setRow (c : Core) (n : Nat) (v : Row) (poison : Bool) : Core :=
  { c with rows := FMap.set c.rows n v, rowPoison := markNat c.rowPoison n poison }
def Core.rowBad (c : Core) (n : Nat) : Bool := c.rowPoison.contains n

/-- The partition of a die (R349). -/
def Device.partOf (d : Device) (die : Nat) : Nat := FMap.get d.dieParts die 0
def Device.partOfCore (d : Device) (id : Nat) : Nat := d.partOf (dieOf id)
def Device.diesOf (d : Device) (p : Nat) : List Nat := (List.range 8).filter fun k => d.partOf k == p
def Part.reset : Part := ⟨0, 128 * 65536 + 8 * 256 + 64, 0, []⟩
def Device.part (d : Device) (p : Nat) : Part := FMap.get d.parts p Part.reset
def Device.setPart (d : Device) (p : Nat) (x : Part) : Device := { d with parts := FMap.set d.parts p x }
/-- The governor share of a partition (R349). -/
def Device.governor (d : Device) (p : Nat) : Nat := bits (d.part p).qos 23 16

/-- Cycles of a die's count since its own reset (R99): a stream that goes on on a die with a later reset can read less than before.
(DESIGN CHOICE, log entry 119.) And the number of its governor window (R159). -/
def Device.cyclesOf (d : Device) (die : Nat) : Nat := d.cycle - FMap.get d.dieEpoch die 0
def windowOf (cycles : Nat) : Nat := cycles / Config.governorPeriod

/-! ## The governor's count (R159) -/

/-- The governor's budget in force (R159, R358). (DEDUCED, log entry 33.) -/
def Device.budgetOf (d : Device) (id : Nat) : Nat := min (d.core id).cr.mxbud (d.governor (d.partOfCore id))

/-- Rows admitted in a window. -/
def Mxu.rowsIn (m : Mxu) (window : Nat) : Nat := if m.winNo = window then m.winRows else 0
/-- Cycles that a row has waited for the next window and that `k.mxstl` does not hold yet; without a budget, for which `shut`
stands, no window ends the wait. -/
def Mxu.stalled (m : Mxu) (cycles : Nat) (shut : Bool) : Nat :=
  match m.govFrom with
  | some f => (if shut then cycles else min cycles ((windowOf f + 1) * Config.governorPeriod)) - f
  | none => 0
def Device.stalledOf (d : Device) (id : Nat) : Nat := (d.core id).mxu.stalled (d.cyclesOf (dieOf id)) (d.budgetOf id == 0)

/-- `k.mxstl` with the cycles waited so far; no row waits any more. -/
def Core.settleStall (c : Core) (n : Nat) : Core :=
  { c with cr := { c.cr with mxstl := c.cr.mxstl + BitVec.ofNat 32 n }, mxu := { c.mxu with govFrom := none } }
/-- `k.mxstl` written, under the budget in force from now on: a row that still waits, since its window has no room for it, is
counted from now on. -/
def Core.setStall (c : Core) (cycles budget : Nat) (v : Word) : Core :=
  { c with cr := { c.cr with mxstl := v },
           mxu := { c.mxu with govFrom := c.mxu.govFrom.bind fun _ => if budget ≤ c.mxu.rowsIn (windowOf cycles) then some cycles else none } }

/-- Every core id of a die, markhor cores first. -/
def coresOfDie (die : Nat) : List Nat :=
  ((List.range 512).map fun k => 4096 * die + 8 * k) ++ (List.range 64).map (moraineId die)

/-! ## Control registers -/

def CRegs.reg? (r : CRegs) (n : Nat) : DWord := FMap.get r.reg n 0

/-! ## Regions (R186 to R188) -/

structure Area where
  base : Nat
  len : Nat
  persistent : Bool
  discardable : Bool
  journaled : Bool
  visible : Bool
  tape : Bool
  deriving DecidableEq, Repr

/-- The region that a register describes; none when its valid bit is clear. -/
def areaOf (v : DWord) : Option Area :=
  if v.getLsbD 41 then
    some ⟨bits v 17 0, bits v 35 18, v.getLsbD 36, v.getLsbD 37, v.getLsbD 38, v.getLsbD 39, v.getLsbD 40⟩
  else none

def Core.area (c : Core) (n : Nat) : Option Area := areaOf (c.cr.reg? n)

/-- The valid regions of a core with their register numbers. -/
def Core.areas (c : Core) : List (Nat × Area) := (List.range 16).filterMap fun n => (c.area n).map fun a => (n, a)

def Area.holds (a : Area) (off : Nat) : Bool := a.base ≤ off && off < a.base + a.len
def Area.touches (a : Area) (off n : Nat) : Bool := off < a.base + a.len && a.base < off + n && 0 < n

/-- Whether a span touches a journaled region (R343). -/
def Core.journals (c : Core) (off n : Nat) : Bool := c.areas.any fun p => p.2.journaled && p.2.touches off n

/-- Whether an offset lies in the MXU queue image of a markhor core (R169). (DEDUCED, log entry 28.) -/
def inImage (id off : Nat) : Bool := isMarkhor id && Config.imageBase ≤ off && off < Config.spBytes

/-! ## Granules and KiB -/

/-- The granules that a span touches. -/
def granules (off n : Nat) : List Nat :=
  if n = 0 then [] else (List.range ((off + n - 1) / 16 - off / 16 + 1)).map (off / 16 + ·)

def kibs (off n : Nat) : List Nat :=
  if n = 0 then [] else (List.range ((off + n - 1) / 1024 - off / 1024 + 1)).map (off / 1024 + ·)

/-- Image granules read as full (R169). -/
def Core.full (c : Core) (id g : Nat) : Bool := c.spFull.contains g || inImage id (16 * g)
def Core.allFull (c : Core) (id off n : Nat) : Bool := (granules off n).all (c.full id)
def Core.tag (c : Core) (k : Nat) : BitVec 4 := FMap.get c.spTag k 0

def Core.setTags (c : Core) (off n : Nat) (t : BitVec 4) : Core :=
  { c with spTag := (kibs off n).foldl (fun m k => FMap.put m k t 0) c.spTag }

/-- Sets or clears the full bits of a span; a granule that becomes full is no longer one that came back empty. (DEDUCED, log entry 30.) -/
def Core.setFull (c : Core) (off n : Nat) (b : Bool) : Core :=
  { c with spFull := (granules off n).foldl (fun l g => markNat l g b) c.spFull,
           spGone := if b then (granules off n).foldl removeNat c.spGone else c.spGone }

/-- The lowest poisoned granule's offset in a span. -/
def Core.spBad (c : Core) (off n : Nat) : Option Nat :=
  ((granules off n).find? fun g => c.spPoison.contains g).map (16 * ·)

/-- A byte that loads of the core see: the journal's, or the scratchpad's (R343). -/
def Core.spByte (c : Core) (off : Nat) : Byte :=
  match FMap.find c.journal (off / 16) with
  | some e => if e.mask.getLsbD (off % 16) then e.data.extractLsb' (8 * (off % 16)) 8 else readByte c.sp off
  | none => readByte c.sp off

/-- Whether loads of the core see poison in a granule: the journal's data, or the scratchpad's that no whole entry covers
(R338, R343). -/
def Core.granBad (c : Core) (g : Nat) : Bool :=
  match FMap.find c.journal g with
  | some e => e.bad || (c.spPoison.contains g && e.mask != 0xFFFF)
  | none => c.spPoison.contains g

/-- The offset of the lowest granule of a span that loads of the core see poisoned. -/
def Core.ownBad (c : Core) (off n : Nat) : Option Nat := ((granules off n).find? c.granBad).map (16 * ·)

/-- The tag that loads of the core see: 0 for a KiB with journaled bytes, which a plain store has written (R189, R343).
(DEDUCED, log entry 92.) -/
def Core.seenTag (c : Core) (k : Nat) : BitVec 4 := if c.journal.any fun p => p.1 / 64 == k then 0 else c.tag k

def Core.spBytes (c : Core) (off n : Nat) : List Byte := (List.range n).map fun i => c.spByte (off + i)
def Core.spNat (c : Core) (off n : Nat) : Nat := leValue (c.spBytes off n)
/-- A word of the scratchpad as its port holds it, without the journal: what engines and neighbours see. (DEDUCED, log entry 67.) -/
def Core.portWord (c : Core) (off : Nat) : Word := readWord c.sp off

/-- The poison of a span after a write: a granule written whole takes the data's, one written in part keeps a set bit. -/
def poisonAfter (l : List Nat) (off n : Nat) (bad : Bool) : List Nat :=
  (granules off n).foldl (fun l g =>
    if bad then insertNat l g
    else if off ≤ 16 * g ∧ 16 * g + 16 ≤ off + n then removeNat l g else l) l

/-- Bytes written at the scratchpad's port (R54, R189): full bits set when `fill`, the tag of each KiB set. Bytes of
the queue image are the hardware's own and stay (R169). (DEDUCED, log entry 28; DEDUCED, log entry 30.) -/
def Core.spStore (c : Core) (id off : Nat) (bs : List Byte) (fill : Bool) (tag : Option (BitVec 4)) (bad : Bool) : Core :=
  let n := bs.length
  let c := match tag with
    | some t => c.setTags off n t
    | none => c
  let keep := if inImage id off then [] else bs.take (if isMarkhor id then Config.imageBase - off else n)
  let c := { c with sp := writeBytes c.sp off keep, spPoison := poisonAfter c.spPoison off keep.length bad,
                    spGone := (granules off keep.length).foldl removeNat c.spGone }
  if fill then c.setFull off keep.length true else c

/-- The journal's entry of a granule; an empty one where there is none. -/
def Core.journalEntry (c : Core) (g : Nat) : JEntry := FMap.get c.journal g ⟨0, 0, false⟩

/-- A byte entered into a journal entry. -/
def JEntry.put (e : JEntry) (k : Nat) (b : Byte) : JEntry :=
  { e with data := (e.data &&& ~~~((0xFF : Granule) <<< (8 * k))) ||| (b.setWidth 128 <<< (8 * k)),
           mask := e.mask ||| ((1 : BitVec 16) <<< k) }

/-- The bytes of a span in the journal; their poison by granule, as a write at the port would leave it (R338, R339). -/
def Core.journalWrite (c : Core) (off : Nat) (bs : List Byte) (bad : Bool) : Core :=
  let gs := granules off bs.length
  let j := bs.zipIdx.foldl (fun j p =>
    let o := off + p.2
    FMap.set j (o / 16) ((FMap.get j (o / 16) ⟨0, 0, false⟩).put (o % 16) p.1)) c.journal
  { c with journal := gs.foldl (fun j g =>
      let e := FMap.get j g ⟨0, 0, false⟩
      FMap.set j g { e with bad := bad || (e.bad && !(off ≤ 16 * g && 16 * g + 16 ≤ off + bs.length)) }) j }

/-- A granule of a journal applied: the bytes of its mask, and its poison. -/
def Core.applyEntry (c : Core) (id g : Nat) (e : JEntry) : Core :=
  let old := readBytes c.sp (16 * g) 16
  let new := old.mapIdx fun i b => if e.mask.getLsbD i then e.data.extractLsb' (8 * i) 8 else b
  let bad := e.bad || (c.spPoison.contains g && e.mask != 0xFFFF)
  c.spStore id (16 * g) new false (some 0) bad

/-- The journal's entries applied, one granule per action in ascending offset (R343). -/
def Core.applyJournal (c : Core) (id : Nat) : Core :=
  { c.journal.foldl (fun c p => c.applyEntry id p.1 p.2) c with journal := [] }

/-! ## Translations that a core holds -/

/-- No translation of the core's is left from before: neither in the TLB, nor of a walk, nor of a range form under way
(R85, R208). -/
def Core.forgetPages (c : Core) : Core :=
  { c with tlb := [], walkFail := [], fore := { c.fore with ranged := [] }, hind := { c.hind with ranged := [] } }

/-! ## Pulses of the rime crossbar (R273) -/

def xSource (w : Word) : Nat := bits w 2 0
def xThreshold (w : Word) : Nat := bits w 23 12

/-- At reset a counter is disabled. -/
def XCounter.reset : XCounter := ⟨7, 0⟩
def XTerm.reset : XTerm := ⟨0, 0, 0, false⟩
def Core.counter (c : Core) (k : Nat) : XCounter := FMap.get c.xcount k XCounter.reset
def Core.term (c : Core) (k : Nat) : XTerm := FMap.get c.xterm k XTerm.reset

/-- One pulse of a source, with the value that filters compare. -/
def Core.pulse (c : Core) (source value : Nat) : Core :=
  { c with xcount := (List.range 8).foldl (fun m k =>
      let x := FMap.get m k XCounter.reset
      if xSource x.cfg = source ∧ (x.cfg.getLsbD 3 = false ∨ bits x.cfg 11 4 = value) then
        FMap.set m k { x with count := min (x.count + 1) 65535 }
      else m) c.xcount }

end Sys2Proof.Machine
end

