-- ==== Sys2Proof/Machine/Routes.lean ====
section
/-!
DEFINITION. Die boundaries and fabric groups (R347, R348), the routes between compute dies (R1, R281, R293), and the
numbered messages that are on their way between two dies (R293).
-/

namespace Sys2Proof.Machine

/-! ## Links (R347, R348) -/

/-- The number of a die boundary or a fabric group among the links. -/
def linkKey : Link → Nat
  | .boundary a b => 8 * min a b + max a b
  | .group k => 64 + k

def LinkState.fine : LinkState := ⟨0, .up⟩
def Device.link (d : Device) (l : Link) : LinkState := FMap.get d.links (linkKey l) LinkState.fine
def Device.setLink (d : Device) (l : Link) (x : LinkState) : Device := { d with links := FMap.put d.links (linkKey l) x LinkState.fine }
/-- All three fabric groups are down. -/
def Device.fabricDown (d : Device) : Bool := (List.range 3).all fun k => (d.link (.group k)).st == .down

/-! ## Routes between dies (R1, R293, R348) -/

def dieX (d : Nat) : Nat := d % 4
def dieY (d : Nat) : Nat := d / 4
/-- The dies of a straight walk along x from column `a` to column `b` in row `y`. -/
def alongX (y a b : Nat) : List Nat :=
  if a ≤ b then (List.range (b - a + 1)).map fun k => 4 * y + (a + k) else (List.range (a - b + 1)).map fun k => 4 * y + (a - k)
def alongY (x a b : Nat) : List Nat := if a = b then [4 * a + x] else [4 * a + x, 4 * b + x]
/-- The dimension-ordered route, x then y, and the alternate, y then x. -/
def routeXY (a b : Nat) : List Nat := alongX (dieY a) (dieX a) (dieX b) ++ (alongY (dieX b) (dieY a) (dieY b)).drop 1
def routeYX (a b : Nat) : List Nat := alongY (dieX a) (dieY a) (dieY b) ++ (alongX (dieY b) (dieX a) (dieX b)).drop 1
/-- The boundaries that a route crosses. -/
def crossings : List Nat → List (Nat × Nat)
  | a :: b :: t => (a, b) :: crossings (b :: t)
  | _ => []

def Device.routeUp (d : Device) (r : List Nat) : Bool := (crossings r).all fun p => (d.link (.boundary p.1 p.2)).st != .down
/-- A working route joins two dies. -/
def Device.joined (d : Device) (a b : Nat) : Bool := d.routeUp (routeXY a b) || d.routeUp (routeYX a b)
/-- Every boundary of a route carries traffic now. -/
def Device.routeOpen (d : Device) (r : List Nat) : Bool := (crossings r).all fun p => (d.link (.boundary p.1 p.2)).st == .up
/-- The route of a message: x then y, or the alternate. -/
def routeOf (alt : Bool) (a b : Nat) : List Nat := if alt then routeYX a b else routeXY a b

/-! ## Messages between dies (R293) -/

def pairKey (src dst : Nat) : Nat := 16 * src + dst
/-- The messages on their way between two dies, in the order of their numbers. -/
def Device.packets (d : Device) (src dst : Nat) : List Packet := FMap.get d.heldPackets (pairKey src dst) []
def Device.setPackets (d : Device) (src dst : Nat) (l : List Packet) : Device :=
  { d with heldPackets := FMap.put d.heldPackets (pairKey src dst) l [] }
/-- The number that the next message of a pair of dies carries, and the one that its destination expects. -/
def Device.sent (d : Device) (src dst : Nat) : Nat := FMap.get d.sentSeq (pairKey src dst) 0
def Device.expected (d : Device) (src dst : Nat) : Nat := FMap.get d.nextSeq (pairKey src dst) 0

/-- The route that a message takes now: x then y, or the alternate where that is not open. -/
def Device.openRoute (d : Device) (a b : Nat) : List Nat := routeOf (!d.routeOpen (routeXY a b)) a b
/-- The entry of the used links for a partition and a link (R347). -/
def useKey (p : Nat) (l : Link) : Nat := 8 * linkKey l + p
/-- Traffic of a partition uses a link. -/
def Device.useLink (d : Device) (p : Nat) (l : Link) : Device := { d with linkUse := insertNat d.linkUse (useKey p l) }
/-- Traffic of a partition uses the boundaries of a route. -/
def Device.useRoute (d : Device) (p : Nat) (r : List Nat) : Device := (crossings r).foldl (fun d q => d.useLink p (.boundary q.1 q.2)) d
/-- Traffic of a partition goes from one die to another, and its answer back. -/
def Device.useDies (d : Device) (p a b : Nat) : Device := (d.useRoute p (d.openRoute a b)).useRoute p (d.openRoute b a)

/-- The die whose core or cache a message between two dies serves: the sender of an access or a write-back, the receiver of an
answer. -/
def servedDie (b : PacketBody) (src dst : Nat) : Nat :=
  match b with
  | .writeBack .. | .access .. => src
  | .reply .. | .ack => dst

/-- A message leaves with the next number of its pair of dies; on the alternate route where the first is not open. -/
def Device.sendPacket (d : Device) (src dst : Nat) (b : PacketBody) : Device :=
  let d := d.useRoute (d.partOf (servedDie b src dst)) (d.openRoute src dst)
  { d.setPackets src dst (d.packets src dst ++ [⟨d.sent src dst, b, !d.routeOpen (routeXY src dst), false⟩]) with
    sentSeq := FMap.set d.sentSeq (pairKey src dst) (d.sent src dst + 1) }

/-- Nothing is on its way from one die to another, and a route is open. -/
def Device.pairIdle (d : Device) (src dst : Nat) : Bool :=
  (d.packets src dst).isEmpty && (d.routeOpen (routeXY src dst) || d.routeOpen (routeYX src dst))
/-- A message that is sent and applied at once takes the number that its destination expects. -/
def Device.countPacket (d : Device) (src dst : Nat) : Device :=
  if !(d.packets src dst).isEmpty then d
  else
    { d with sentSeq := FMap.set d.sentSeq (pairKey src dst) (d.sent src dst + 1),
             nextSeq := FMap.set d.nextSeq (pairKey src dst) (d.expected src dst + 1) }

/-- A write-back of a line that `hit` names by its address, which the line's eviction (R194) or an access at the home (R280) has
sent, is on its way from a die. -/
def Device.backOnWay (d : Device) (die : Nat) (hit : Nat → Bool) : Bool :=
  (List.range 8).any fun k => (d.packets die k).any fun p => match p.body with
    | .writeBack pa _ _ _ _ => hit pa
    | _ => false

end Sys2Proof.Machine
end

