-- ==== Sys2Proof/Machine/Records.lean ====
section
/-!
DEFINITION. Records: their fields (R247), folding (R54, R256 to R258), arrival at a drift queue (R242, R255), the memory
queue, notices (R331 to R333), and the start of an activation (R35 to R37, R188, R251).
-/

namespace Sys2Proof.Machine

/-! ## Record fields (R247) -/

def recHandler (r : Line) : Nat := bits (lineWord r 0) 31 24
def recNet (r : Line) : Nat := bits (lineWord r 0) 23 22
def recCount (r : Line) : Nat := bits (lineWord r 0) 21 17
def recReply (r : Line) : Bool := (lineWord r 0).getLsbD 16
def recSrc (r : Line) : Nat := bits (lineWord r 0) 15 0
def recKey (r : Line) : Word := lineWord r 1
def recPackage (r : Line) : Nat := bits (lineWord r 2) 31 24

/-- w0 from its fields. -/
def recWord0 (handler net count : Nat) (reply : Bool) (src : Nat) : Word :=
  BitVec.ofNat 32 (handler % 256 * 2 ^ 24 + net % 4 * 2 ^ 22 + count % 32 * 2 ^ 17 + reply.toNat * 2 ^ 16 + src % 65536)

/-- A record with its words beyond the count zero (R240, R54). -/
def clipRecord (r : Line) : Line :=
  lineOfWords ((List.range 16).map fun k => if k < 3 + recCount r then lineWord r k else 0)

/-! ## The handler table (R253) -/

/-- DESIGN CHOICE, log entry 6. -/
def HEntry.reset : HEntry := ⟨0, 0, 0, 0, false⟩
def Core.handler (c : Core) (n : Nat) : HEntry := FMap.get c.handlers n HEntry.reset

/-! ## Folding (R54, R256) -/

def minS (a b : Word) : Word := if a.slt b then a else b
def maxS (a b : Word) : Word := if a.slt b then b else a
def minU (a b : Word) : Word := if a.ult b then a else b
def maxU (a b : Word) : Word := if a.ult b then b else a

/-- The table `Op` of R54, for the operators that act on one word at a time; `adds.w` is on exact sums, below. -/
def foldWord (op : Nat) (w a : Word) : Word :=
  match op with
  | 1 => w + a
  | 3 => addF32Rne w a
  | 4 => minS w a
  | 5 => maxS w a
  | 6 => minU w a
  | 7 => maxU w a
  | 8 => w ||| a
  | 9 => w &&& a
  | 11 => a
  | _ => w

/-- The record with the word count field of w0 replaced. -/
def setCount (r : Line) (n : Nat) : Line := setLineWord r 0 (setBits (lineWord r 0) 17 5 n)

/-- A record with the exact sums of some words forgotten: another operator has made them, and the word shows what the next
`adds.w` adds to (R256). -/
def Waiting.unsummed (w : Waiting) (ks : List Nat) : Waiting := { w with sums := w.sums.filter fun p => !ks.contains p.1 }

/-- `Fold` of an arrival into a waiting record; none is NOFIT. (DEDUCED, log entry 98.) -/
def fold (e : HEntry) (w : Waiting) (a : Line) : Option Waiting :=
  let n := recCount w.r
  let m := recCount a
  let op := e.op.toNat
  if op = 13 then
    if 13 < n + m then none
    else
      let r := (List.range m).foldl (fun r j => setLineWord r (3 + n + j) (lineWord a (3 + j))) w.r
      some { w.unsummed ((List.range m).map (3 + n + ·)) with r := setCount r (n + m), folds := w.folds + 1 }
  else if op = 12 then some { w.unsummed [3] with r := setLineWord w.r 3 (lineWord w.r 3 + 1), folds := w.folds + 1 }
  else
    let words := (List.range 13).filter fun k => e.mask.getLsbD k
    if op = 2 then
      let sums := words.foldl (fun s k =>
        FMap.set s (3 + k) (FMap.get s (3 + k) (lineWord w.r (3 + k)).toInt + (lineWord a (3 + k)).toInt)) w.sums
      let r := words.foldl (fun r k => setLineWord r (3 + k) (BitVec.ofInt 32 (satInt 32 (FMap.get sums (3 + k) 0)))) w.r
      some { w with r := setCount r (max n m), sums := sums, folds := w.folds + 1 }
    else
      let r := words.foldl (fun r k => setLineWord r (3 + k) (foldWord op (lineWord r (3 + k)) (lineWord a (3 + k)))) w.r
      some { w.unsummed (if op = 10 then [] else words.map (3 + ·)) with r := setCount r (max n m), folds := w.folds + 1 }

/-- The waiting records with an arrival folded into the oldest match that takes it (R242, R258); none: no match. Claim
records never fold (R311). -/
def foldInto (e : HEntry) (a : Line) : List Waiting → Option (List Waiting)
  | [] => none
  | w :: t =>
    if e.op ≠ 0 ∧ w.claim = 0 ∧ recHandler w.r = recHandler a ∧ recKey w.r = recKey a ∧ w.folds < 2 ^ 32 - 1 then
      match fold e w a with
      | some w' => some (w' :: t)
      | none => (foldInto e a t).map (w :: ·)
    else (foldInto e a t).map (w :: ·)

/-! ## Arrival (R242, R255) -/

def newWaiting (r : Line) (now claim : Nat) : Waiting := ⟨r, now, false, 0, [], claim⟩

/-- The ring's place number `k` from its head, as a scratchpad offset. -/
def DriftQ.place (q : DriftQ) (k : Nat) : Nat := q.ringBase + 64 * ((q.ringHead + k) % (q.ringLen / 64))

/-- A record written at the memory queue's tail (R242): granules full, tag 0. -/
def Core.spill (c : Core) (id : Nat) (r : Line) : Core :=
  let off := c.dq.place c.dq.ringCount
  let c := c.spStore id off (leBytes 64 r.toNat) true (some 0) false
  { c with dq := { c.dq with ringCount := c.dq.ringCount + 1 } }

/-- An arriving record; none is a refusal. A stopped core refuses (R330). While a record of the memory queue is to be
taken back, it goes before any arrival, which waits (R242). -/
def Core.arrive (c : Core) (id now : Nat) (r : Line) (claim : Nat) : Option Core :=
  if c.stopped then none
  else
    let done (c : Core) : Core := c.pulse 4 (recHandler r)
    if recNet r = 2 then
      if 8 ≤ c.dq.priv.length then none else some (done { c with dq := { c.dq with priv := c.dq.priv ++ [r] } })
    else
      if c.dq.ringCount ≠ 0 ∧ c.dq.waiting.length < c.dq.limit then none
      else match foldInto (c.handler (recHandler r)) r c.dq.waiting with
      | some ws => some (done { c with dq := { c.dq with waiting := ws } })
      | none =>
        if 0 < c.dq.ringCount ∨ c.dq.limit ≤ c.dq.waiting.length then
          if c.dq.spill ∧ c.dq.ringCount < c.dq.ringLen / 64 then some (done (c.spill id r)) else none
        else some (done { c with dq := { c.dq with waiting := c.dq.waiting ++ [newWaiting r now claim] } })

/-- A record offered to a core. -/
def Device.arrive (d : Device) (id : Nat) (r : Line) (claim : Nat) : Option Device :=
  ((d.core id).arrive id d.cycle r claim).map (d.setCore id)

/-- A record offered to a core and to its twin (R346); none is a refusal. -/
def Device.offer (d : Device) (id : Nat) (r : Line) : Option Device :=
  (d.receivers id).foldl (fun o c => o.bind fun d => d.arrive c r 0) (some d)

/-! ## Moved members (R309, R310) -/

/-- The key of a moved member's old id: ids of different partitions on one core are apart. -/
def movedKey (part id : Nat) : Nat := 65536 * part + id
/-- Where a message for an id is delivered: a moved member's new core (R309). -/
def Device.placeOf (d : Device) (id : Nat) : Nat := (FMap.find d.moved (movedKey (d.partOfCore id) id)).getD id
/-- The package that the member of an id is in now, after moves within this package too: of the partition's own members, or of
another package's that have gone on from here (R310). -/
def Device.awayOf (d : Device) (id : Nat) : Option Nat :=
  let k := movedKey (d.partOfCore id) (d.placeOf id)
  (FMap.find d.away k).or (FMap.find d.passedOn k)
/-- Cores that take new members: nothing goes on from them any more. -/
def Device.occupy (d : Device) (ids : List Nat) : Device :=
  { d with passedOn := ids.foldl (fun m id => FMap.erase m (movedKey (d.partOfCore id) id)) d.passedOn }

/-- Counts of R245. (DESIGN CHOICE, log entry 29.) -/
def Device.countSent (d : Device) (id : Nat) : Device := d.modCore id fun c => { c with sent := c.sent + 1 }
def Device.countRecv (d : Device) (id : Nat) : Device := d.modCore id fun c => { c with recv := c.recv + 1 }

/-- The oldest record of the memory queue taken back (R242). -/
def Core.takeBack (c : Core) (now : Nat) : Core :=
  let off := c.dq.place 0
  let r : Line := BitVec.ofNat 512 (readLE c.sp off 64)
  let q : DriftQ := { c.dq with ringHead := (c.dq.ringHead + 1) % (c.dq.ringLen / 64), ringCount := c.dq.ringCount - 1 }
  let q := if q.ringCount = 0 then
      match q.nextRing with
      | some (b, l) => { q with ringBase := b, ringLen := l, ringHead := 0, nextRing := none }
      | none => q
    else q
  let ws := match foldInto (c.handler (recHandler r)) r q.waiting with
    | some ws => ws
    | none => q.waiting ++ [newWaiting r now 0]
  { c.setFull off 64 false with dq := { q with waiting := ws } }

/-! ## Notices (R331 to R333) -/

def causeCode : Cause → Nat
  | .illop => 0x01 | .illpair => 0x02 | .illline => 0x03 | .btarget => 0x04 | .priv => 0x05 | .nopath => 0x06
  | .align => 0x07 | .bound => 0x08 | .page => 0x09 | .prot => 0x0A | .qdir => 0x0B | .stream => 0x0C | .deque => 0x0D
  | .codelet => 0x0E | .sendfull => 0x0F | .vnet => 0x10 | .scope => 0x11 | .layout => 0x12 | .dirty => 0x13
  | .cobj => 0x14 | .pregion => 0x15 | .span => 0x16 | .team => 0x17 | .journal => 0x18 | .poison => 0x19
  | .trap => 0x1A | .svc => 0x1B | .handler => 0x1C | .fetch => 0x20 | .uncorr => 0x21 | .cap => 0x28 | .disc => 0x29
  | .pagemap => 0x30 | .retrain => 0x31 | .diereset => 0x32 | .jobfault => 0x33 | .lost => 0x34 | .twin => 0x35
  | .halted => 0x36 | .irq => 0x40

/-- The payload word count of a notice kind (R333). -/
def noticeCount : Cause → Nat
  | .pagemap | .retrain => 5
  | .jobfault => 6
  | .lost | .twin | .uncorr => 4
  | .disc | .codelet | .halted => 3
  | _ => 2

/-- A notice record: the cause in w1 and w3, the payload from w4. -/
def noticeRecord (c : Cause) (src : Nat) (payload : List Word) : Line :=
  let code := BitVec.ofNat 32 (causeCode c)
  lineOfWords ([recWord0 255 2 (noticeCount c) false src, code, 0, code] ++ payload)

/-- The supervisor of a partition, if one can take a notice now (R332): its dies hold the partition (R344). Its notices
follow it when it has been moved (R309). -/
def Device.supervisor (d : Device) (p : Nat) : Option Nat :=
  let w := (d.part p).sup
  let id := bits w 15 0
  let c := d.core (d.placeOf id)
  if w.getLsbD 16 ∧ d.partOfCore id = p ∧ ((d.awayOf id).isSome ∨ (c.stopped = false ∧ c.dq.priv.length < 8)) then some id else none

/-- The record of a notice for the supervisor that takes it. -/
def Notice.forSup (n : Notice) (id : Nat) : Line := if n.own then setLineWord n.r 0 (setBits (lineWord n.r 0) 0 16 id) else n.r

/-- The lowest die of a partition, whose management core holds its notices and sends those that concern no core (R332). (DEDUCED, log
entry 60.) -/
def Device.lowestDie (d : Device) (p : Nat) : Nat := (d.diesOf p).head?.getD 0
/-- The die that a notice of a partition comes from. (DEDUCED, log entry 60.) -/
def Device.noticeDie (d : Device) (p : Nat) (n : Notice) : Nat := if n.own then d.lowestDie p else dieOf (recSrc n.r)

/-- A notice given to a supervisor from a die, over the boundaries between the two (R347); none is a refusal. To one in another package
it goes as a message (R310). -/
def Device.give (d : Device) (src id : Nat) (n : Notice) : Option Device :=
  if (d.awayOf id).isSome then
    some { d with flights := d.flights ++ [⟨.record, n.forSup id, id, 2, none, d.partOfCore id, false, none, 0, 0, 0, 0, none⟩] }
  else (d.useDies (d.partOfCore id) src (dieOf (d.placeOf id))).offer (d.placeOf id) (n.forSup id)

/-- A notice held at the management core of the partition's lowest die; past 64 it is dropped and counted (R332). -/
def Device.holdNotice (d : Device) (p : Nat) (n : Notice) : Device :=
  let d := d.useDies p (d.noticeDie p n) (d.lowestDie p)
  let x := d.part p
  if x.held.length < 64 then d.setPart p { x with held := x.held ++ [n] }
  else d.setPart p { x with dropped := min (x.dropped + 1) 255 }

/-- A notice to the supervisor of a partition, held when none can take it or older ones are held. -/
def Device.notify (d : Device) (p : Nat) (n : Notice) : Device :=
  if (d.part p).held.isEmpty then
    match d.supervisor p with
    | some id => (d.give (d.noticeDie p n) id n).getD (d.holdNotice p n)
    | none => d.holdNotice p n
  else d.holdNotice p n

/-- A notice about a core of a partition. -/
def Device.notice (d : Device) (p : Nat) (c : Cause) (src : Nat) (payload : List Word) : Device :=
  d.notify p ⟨false, noticeRecord c src payload⟩

/-- A notice that concerns no core: its source is the id of the supervisor that takes it. -/
def Device.noticeOwn (d : Device) (p : Nat) (c : Cause) (payload : List Word) : Device :=
  d.notify p ⟨true, noticeRecord c 0 payload⟩

/-- A LOST notice for a record (R333). -/
def Device.lost (d : Device) (id : Nat) (r : Line) : Device :=
  d.notice (d.partOfCore id) .lost id [BitVec.ofNat 32 id, lineWord r 0, lineWord r 1]

/-- The core stops, with a HALTED notice (R330). -/
def Device.halt (d : Device) (id : Nat) (second : Cause) : Device :=
  let d := d.modCore id fun c => { c with stopped := true, fore := { c.fore with running := false }, hind := { c.hind with running := false } }
  d.notice (d.partOfCore id) .halted id [BitVec.ofNat 32 id, BitVec.ofNat 32 (causeCode second)]

/-! ## Locks of proposal regions (R217) -/

def LineLock.free : LineLock := ⟨none, []⟩
/-- The name under which a stream's region holds locks: a region of trap handling is another than the suspended one, and
a partition's cores are others than those of the partition that was in its place (R235). -/
def Device.lockName (d : Device) (id : Nat) (hind : Bool) : Nat × Bool :=
  (id + 65536 * (d.core id).susp.isSome.toNat + 131072 * d.partOfCore id, hind)

/-- Every lock and hold of a region released. -/
def Device.releaseLocks (d : Device) (who : Nat × Bool) : Device :=
  { d with locks := (d.locks.map fun p => (p.1, (⟨if p.2.writer = some who then none else p.2.writer,
      p.2.readers.filter (· ≠ who)⟩ : LineLock))).filter fun p => p.2 != LineLock.free }

/-- A trap keeps the draw: a region that has drawn is in post-draw state (R217, R220). -/
def Region.kept (r : Region) : Region := if r.post.isSome then { r with st := .postDraw } else r
/-- Its stream is resumed at the `pcom`, which publishes again (R217, R235). -/
def Region.resumes (r : Region) : Region :=
  match r.post with
  | some p => { r with st := .opened, post := some { p with resumed := true } }
  | none => r
/-- An outcome that is owed to the `pcom` at a PC, and is dropped where its stream goes on elsewhere. -/
def Region.owedAt (r : Region) (pc : DWord) : Region := { r with owed := r.owed.filter fun o => o.pc == pc }

/-- A stream whose `pcom` has drawn and publishes, without a trap (R217, R235). -/
def Core.publishing (c : Core) (hind : Bool) : Bool := (c.stream hind).region.st == .opened && (c.stream hind).region.post.isSome

/-! ## The start of an activation (R35 to R37, R188, R251) -/

/-- The control registers at an activation start: those that are not persistent take their reset value. -/
def CRegs.start (r : CRegs) (redo priv : Bool) : CRegs :=
  { r with fflags := 0, qdir := 0, mxsat := false, disc := false, redo := redo, cause := 0, epc := 0, tval := 0,
           tshp := [], priv := priv }

/-- Full bits kept at an activation start: those of persistent and discardable regions; on a moraine core, all. -/
def Core.keepsFull (c : Core) (id g : Nat) : Bool :=
  isMoraine id || c.areas.any fun p => (p.2.persistent || p.2.discardable) && p.2.holds (16 * g)

/-! ## The image of the MXU queue (R169) -/

/-- The 64 bytes of a queue-image entry. -/
def MxCmd.image (m : MxCmd) (state : Nat) : Line :=
  lineOfWords [
    BitVec.ofNat 32 (m.minor + 2 ^ 8 * m.fmt.toNat + 2 ^ 12 * m.acct.toNat + 2 ^ 16 * m.tag.toNat + 2 ^ 24 * state + 2 ^ 26 * m.hind.toNat),
    BitVec.ofNat 32 (m.d.toNat + 2 ^ 8 * m.a.toNat + 2 ^ 16 * m.x.toNat),
    BitVec.ofNat 32 m.m, BitVec.ofNat 32 m.rows, m.shape]

/-- The hardware's own write of an entry: nothing but its bytes. (DEDUCED, log entry 28.) -/
def Core.putImage (c : Core) (m : MxCmd) (state : Nat) : Core :=
  { c with sp := writeBytes c.sp (Config.imageBase + 64 * m.slot) (leBytes 64 (m.image state).toNat) }

/-- The command that an entry of the image describes; none for an empty one. -/
def MxCmd.ofImage (slot : Nat) (l : Line) : Option MxCmd :=
  let w (k : Nat) : Word := lineWord l k
  if bits (w 0) 25 24 = 0 then none
  else some
    { minor := bits (w 0) 7 0, fmt := BitVec.ofNat 4 (bits (w 0) 11 8), acct := (w 0).getLsbD 12, tag := BitVec.ofNat 8 (bits (w 0) 23 16),
      executing := bits (w 0) 25 24 == 2, hind := (w 0).getLsbD 26, d := BitVec.ofNat 8 (bits (w 1) 7 0),
      a := BitVec.ofNat 8 (bits (w 1) 15 8), x := BitVec.ofNat 8 (bits (w 1) 23 16), m := bits (w 2) 6 0, shape := w 4,
      rows := bits (w 3) 6 0, slot := slot }

/-- The commands of the image: its occupied entries from the head on. -/
def Core.imageCmds (c : Core) : List MxCmd :=
  ((List.range 8).map fun k => MxCmd.ofImage ((c.mxu.head + k) % 8)
    (BitVec.ofNat 512 (readLE c.sp (Config.imageBase + 64 * ((c.mxu.head + k) % 8)) 64))).filterMap id

/-- A queue stopped for a context restore resumes from its image (R169). (DEDUCED, log entry 28.) -/
def Core.resumeQueue (c : Core) : Core :=
  if c.mxu.halted then { c with mxu := { c.mxu with cmds := c.imageCmds, halted := false } } else c

/-- The queue emptied, its entries in the image too; `stalled` cycles of waiting are counted. -/
def Core.emptyQueue (c : Core) (stalled : Nat) : Core :=
  let c := (c.mxu.cmds.foldl (fun c m => c.putImage m 0) c).settleStall stalled
  { c with mxu := { c.mxu with cmds := [], halted := false } }

/-- Shared state at an activation start; the generators, queues of messages, mailboxes and crossbar stay. (DEDUCED, log entry 64.) -/
def Core.startShared (c : Core) (id : Nat) (redo priv : Bool) : Core :=
  { c with queues := [], rows := [], starts := c.starts + 1, rowPoison := [], tiles := [], tilePoison := [], exps := [],
           mxu := { Mxu.reset with head := c.mxu.head, winRows := c.mxu.winRows, winNo := c.mxu.winNo, links := c.mxu.links }, vecBusy := 0, spFull := c.spFull.filter (c.keepsFull id), journal := [],
           cr := c.cr.start redo priv, queries := c.queries.map fun q => { q with abandoned := true },
           twinFailed := c.twinFailed && (redo || !c.redeliver.isEmpty), presented := 0 }

/-- Fore at an entry PC with its first registers; the entry's target bit is required (R29). (DEDUCED, log entry 34.) -/
def startStream (pc : DWord) (words : List Word) : Stream :=
  { Stream.reset with running := true, pc := pc, entering := some (0, true),
                      g := (List.range 16).foldl (fun m k => FMap.put m k ((words[k]?).getD 0) 0) [] }

/-- Streams put in place; stores that the old ones have sent stay outstanding (R72). -/
def Core.enter (c : Core) (fore hind : Stream) : Core :=
  { c with fore := { fore with acc := c.fore.acc }, hind := { hind with acc := c.hind.acc } }

def recordWords (r : Line) : List Word := (List.range 16).map (lineWord r)

/-- Whether a record can start an activation: its handler's entry or that of handler 255 is valid (R251, R330). -/
def Core.startable (c : Core) (r : Line) : Bool := (c.handler (recHandler r)).valid || (c.handler 255).valid

/-- An activation of a record (R251). An invalid entry starts handler 255 with cause HANDLER; with no valid handler 255
the core stops (R330). -/
def Device.startRecord (d : Device) (id : Nat) (r : Line) (redo : Bool) (claim : Nat) : Device :=
  let c := d.core id
  let e := c.handler (recHandler r)
  let isPriv : Bool := recNet r = 2
  if e.valid then
    let c := c.startShared id redo isPriv
    d.setCore id { c.enter (startStream (e.pc.signExtend 64) (recordWords r)) Stream.reset with
      act := some ⟨r, none, false, claim⟩ }
  else
    let h := c.handler 255
    let c := c.startShared id redo true
    let cr := { c.cr with cause := BitVec.ofNat 9 (causeCode .handler), tval := (lineWord r 0).setWidth 64 }
    if h.valid then
      d.setCore id { c.enter (startStream (h.pc.signExtend 64) (recordWords r)) Stream.reset with
        cr := cr, act := some ⟨r, none, false, claim⟩ }
    else d.halt id .handler

/-- A record selected on a core starts its activation, `taken` being the device without it; one that cannot start stops the core,
which keeps it (R300, R330). -/
def Device.startFrom (d taken : Device) (id : Nat) (r : Line) (redo : Bool) (claim : Nat) : Device :=
  if (d.core id).startable r then taken.startRecord id r redo claim else d.halt id .handler

/-- An activation of a `fork` record (R73). -/
def Device.startTask (d : Device) (id : Nat) (t : Task) (redo : Bool) : Device :=
  let c := (d.core id).startShared id redo false
  let words := [BitVec.ofNat 32 t.src, BitVec.ofNat 32 t.args.length] ++ t.args
  d.setCore id { c.enter (startStream t.target words) Stream.reset with act := some ⟨0, some t, false, 0⟩ }

/-- A core on which neither an activation nor trap handling runs. -/
def Core.free (c : Core) : Bool := c.act.isNone && c.susp.isNone && !c.stopped

/-- Effective priority of a waiting record: 3 once it has waited 8,192 cycles (R255, R306). -/
def Core.priority (c : Core) (now : Nat) (w : Waiting) : Nat :=
  if w.aged ∨ Config.agingCycles ≤ now - w.since then 3
  else
    let e := c.handler (recHandler w.r)
    if e.valid then e.prio.toNat else 0

/-- The index of the waiting record that dispatch takes: the highest effective priority, then the oldest. -/
def pickFrom (pr : Waiting → Nat) : List Waiting → Nat → Option (Nat × Nat)
  | [], _ => none
  | w :: t, k =>
    match pickFrom pr t (k + 1) with
    | some (j, p) => if p ≤ pr w then some (k, pr w) else some (j, p)
    | none => some (k, pr w)

end Sys2Proof.Machine
end

