-- ==== Sys2Proof/Machine/Ops.lean ====
section
/-!
DEFINITION. How a meaning runs, and the operations that meanings share: taking a trap and returning from one (R54,
R327 to R330), blocking (R54), and the issuing core's scratchpad (R54, R338, R343).
-/

namespace Sys2Proof.Machine

/-- What an instruction gives. -/
abbrev Result := Host.Outcome State Fault Refusal

/-! ## Running a meaning

A meaning is a computation on the state that may stop early. A stop discards every effect of the group: the device
returns to what it was before the group (R28, R54). -/

inductive Stop
  /-- `Block`: the group waits and issues again -/
  | block
  /-- the group waits, and the hardware has begun something for it: a walk, a release query, a lock pass -/
  | wait (f : Device → Device)
  /-- a precise trap -/
  | trap (c : Cause) (v : DWord)
  /-- a precise trap after what the group has brought about and the trap does not undo: a closed round (R291) -/
  | trapAfter (f : Device → Device) (c : Cause) (v : DWord)

abbrev Exec (α : Type) := StateT State (Except Stop) α

/-- The issuing core's id. -/
abbrev State.me (s : State) : Nat := s.issue.core
abbrev State.hind (s : State) : Bool := s.issue.hind
/-- The issuing core. -/
abbrev State.core (s : State) : Core := s.dev.core s.issue.core
/-- The issuing stream. -/
abbrev State.stream (s : State) : Stream := s.core.stream s.issue.hind
/-- The device as it stood before the group: what sources are read from (R28). (DEDUCED, log entry 76.) -/
abbrev State.base (s : State) : Device := s.pair.getD s.dev
abbrev State.baseCore (s : State) : Core := s.base.core s.issue.core
abbrev State.baseStream (s : State) : Stream := s.baseCore.stream s.issue.hind

abbrev State.setDev (s : State) (d : Device) : State := { s with dev := d }
abbrev State.modCore (s : State) (f : Core → Core) : State := s.setDev (s.dev.modCore s.issue.core f)
abbrev State.modStream (s : State) (f : Stream → Stream) : State := s.modCore fun c => c.modStream s.issue.hind f

/-! ## Taking a trap (R327, R329, R330) -/

/-- The number that `k.cause` takes: the code, and in bit 8 the trapped stream (R329). -/
def causeReg (c : Cause) (hind : Bool) : BitVec 9 := BitVec.ofNat 9 (causeCode c + 256 * hind.toNat)

/-- Trap handling starts on a core: `k.cause`, `k.epc` and `k.tval` are written; both streams are suspended; handler 255
starts as a privileged activation with every register zero. A lock pass under way is abandoned, a draw kept (R217, R327); a stream
to which a poisoned load has come back is kept at that load's group (R329); a line that a suspended stream has fetched is fetched
again after `rett`, so that it is of the translation in force then (R97; DEDUCED, log entry 11). In an activation started for trap handling, or without
a valid handler 255, the core stops instead. -/
def Device.beginTrap (d : Device) (id : Nat) (hind : Bool) (cause : Cause) (epc tval : DWord) : Device :=
  let c := d.core id
  let queries := (c.queries.filter fun q => !q.answered).map fun q => { q with abandoned := true }
  let cr := { c.cr with cause := causeReg cause hind, epc := epc, tval := tval }
  let d := if c.fore.region.pass.isSome then d.releaseLocks (d.lockName id false) else d
  let d := if c.hind.region.pass.isSome then d.releaseLocks (d.lockName id true) else d
  let calm (t : Stream) : Stream := { t.reissued with region := { t.region.kept with pass := none }, ranged := [], syncAt := none, fetched := none }
  let c : Core := { c with cr := cr, queries := queries, walkFail := [], fore := calm c.fore, hind := calm c.hind }
  let handling : Bool := match c.act with
    | some a => a.handling
    | none => false
  let h := c.handler 255
  if handling ∨ h.valid = false then (d.setCore id c).halt id cause
  else
    d.setCore id
      { c with cr := { cr with priv := true }, susp := some ⟨c.fore, c.hind, c.act, c.cr.priv, hind⟩,
               fore := startStream (h.pc.signExtend 64) [], hind := Stream.reset, act := some ⟨0, none, true, 0⟩ }

/-- `Trap` of a group that has no effect (R54): the state before the group, with trap handling started at `epc`. -/
def State.takeTrap (s : State) (cause : Cause) (epc tval : DWord) : State :=
  { s with dev := s.base.beginTrap s.issue.core s.issue.hind cause epc tval, pair := none, blocked := false, took := some cause }

/-- `Trap` of a group of which one effect stays. -/
def State.takeTrapAfter (s : State) (f : Device → Device) (cause : Cause) (epc tval : DWord) : State :=
  { s with dev := (f s.base).beginTrap s.issue.core s.issue.hind cause epc tval, pair := none, blocked := false, took := some cause }

/-- The group waits: the state before the group, with what the hardware has begun for it. -/
def State.waitWith (s : State) (f : Device → Device) : State :=
  { s with dev := f s.base, pair := none, blocked := true, took := none }

/-- Return from a trap (R96, R328, R329): the trapped stream continues at `epc` and the other where it stopped, with
`k.priv` = 0; stores that the handler has sent stay outstanding. A stream of the handler that still runs beside the one that issues
`rett` ends there, with its release query abandoned: R96 says nothing of it, while R72 makes `done` wait (DESIGN CHOICE, log
entry 97). The handler's locks, records and tokens are the caller's to release. (DEDUCED, log entry 27.) -/
def Core.resume (c : Core) (p : Suspended) (from_ epc : DWord) : Core :=
  let c : Core := { c with
    fore := { p.fore with acc := p.fore.acc ++ c.fore.acc, region := p.fore.region.resumes },
    hind := { p.hind with acc := p.hind.acc ++ c.hind.acc, region := p.hind.region.resumes },
    act := p.act, susp := none, cr := { c.cr with priv := false },
    queries := (c.queries.filter fun q => !q.answered).map fun q => { q with abandoned := true } }
  c.modStream p.trapped fun t => { t with pc := epc, running := true, entering := some (from_, false), region := t.region.owedAt epc }

/-! ## Running (R26, R54) -/

/-- The state in which a group's instruction runs: the PC is at the next group, unless the other half of the pair has
moved it already. -/
def State.begin (s : State) : State :=
  let s := { s with blocked := false, took := none }
  if s.pair.isSome then s else s.modStream fun t => { t with pc := s.issue.nextPc, entering := none }

/-- The state a computation leads to. -/
def State.finish (s : State) : Except Stop (Unit × State) → State
  | .ok (_, t) => t
  | .error .block => s.waitWith id
  | .error (.wait f) => s.waitWith f
  | .error (.trap c v) => s.takeTrap c s.issue.pc v
  | .error (.trapAfter f c v) => s.takeTrapAfter f c s.issue.pc v

/-- Runs a meaning. -/
def run (m : Exec Unit) (s : State) : Result := .next (s.finish (m s.begin))

/-! ## Parts of meanings -/

def block {α : Type} : Exec α := throw .block
def waitFor {α : Type} (f : Device → Device) : Exec α := throw (.wait f)
def trap {α : Type} (c : Cause) (v : DWord) : Exec α := throw (.trap c v)
/-- A trap whose description gives no value (R326). -/
def trap0 {α : Type} (c : Cause) : Exec α := throw (.trap c 0)
def trapW {α : Type} (c : Cause) (v : Word) : Exec α := throw (.trap c (v.setWidth 64))
def trapN {α : Type} (c : Cause) (v : Nat) : Exec α := throw (.trap c (BitVec.ofNat 64 v))
/-- ILLOP, NOPATH, PRIV hold the slot's PC (R53). -/
def trapSlot {α : Type} (c : Cause) : Exec α := do
  let s ← get
  throw (.trap c s.issue.slotPc)

def require (b : Bool) (e : Exec Unit) : Exec Unit := if b then pure () else e
/-- `Block(c)`. -/
def blockUnless (b : Bool) : Exec Unit := if b then pure () else block

def modCore (f : Core → Core) : Exec Unit := modify fun s => s.modCore f
def modStream (f : Stream → Stream) : Exec Unit := modify fun s => s.modStream f
def modDev (f : Device → Device) : Exec Unit := modify fun s => s.setDev (f s.dev)

/-- Privilege is required, or PRIV with the slot's PC. -/
def needPriv : Exec Unit := do
  let s ← get
  if s.baseCore.cr.priv then pure () else trapSlot .priv

/-- Flags raised in the issue cycle (R103): ORed into `k.fflags`, and kept for the other half of a pair (R64). -/
def State.raise (s : State) (f : Flags) : State :=
  let s := s.modCore fun c => { c with cr := { c.cr with fflags := c.cr.fflags ||| f } }
  { s with issue := { s.issue with raised := s.issue.raised ||| f } }

def raise (f : Flags) : Exec Unit := modify fun s => s.raise f

/-! ## The own scratchpad (R54, R81, R343) -/

/-- BOUND unless a span lies in the issuing core's scratchpad. (DEDUCED, log entry 75.) -/
def spBound (off n : Nat) : Exec Unit := do
  let s ← get
  if off + n ≤ spSize s.me then pure () else trapN .bound off

/-- A scalar read of a poisoned granule raises POISON with its address (R339). -/
def spClean (off n : Nat) : Exec Unit := do
  let s ← get
  match s.core.ownBad off n with
  | some a => trapN .poison a
  | none => pure ()

/-- `k.disc` is set by a read of granules that came back empty after a pre-emption (R80, R188). (DEDUCED, log entry 30.) -/
def spDisc (off n : Nat) : Exec Unit :=
  modify fun s => s.modCore fun c =>
    if (granules off n).any s.baseCore.spGone.contains then { c with cr := { c.cr with disc := true } } else c

/-- Whether a span touches the queue image. -/
def touchesImage (id off n : Nat) : Bool := inImage id off || inImage id (off + n - 1)

/-- A privileged store's bytes of the queue image: written while the queue is stopped for a context restore, and without
effect at any other time (R169). The KiB takes the store's tag. -/
def Core.imageStore (c : Core) (id off : Nat) (bs : List Byte) (tag : BitVec 4) (bad : Bool) : Core :=
  let k := Config.imageBase - off
  if c.mxu.halted ∧ touchesImage id off bs.length then
    { c.setTags (off + k) (bs.length - k) tag with
      sp := writeBytes c.sp (off + k) (bs.drop k), spPoison := poisonAfter c.spPoison (off + k) (bs.length - k) bad }
  else c

/-- A store of the core into its own scratchpad: PROT on the queue image without privilege (R169). With `journaled`, the
bytes are of a span that touches a journaled region: they enter the journal, or raise JOURNAL (R343), those of the queue image that a
privileged store's span also touches with them. (DESIGN CHOICE, log entry 121.) -/
def spWriteIn (journaled : Bool) (off : Nat) (bs : List Byte) (fill bad : Bool) : Exec Unit := do
  let s ← get
  let c := s.core
  let n := bs.length
  if touchesImage s.me off n && !c.cr.priv then trap0 .prot
  else if inImage s.me off then modCore fun c => c.imageStore s.me off bs 0 bad
  else if journaled then
    if fill then trap0 .prot
    else
      let new := (granules off n).filter fun g => (FMap.find c.journal g).isNone
      if 128 < c.journal.length + new.length then trapN .journal off
      else modCore fun c => c.journalWrite off bs bad
  else modCore fun c => (c.spStore s.me off bs fill (some 0) bad).imageStore s.me off bs 0 bad

/-- A store of one span. -/
def spWrite (off : Nat) (bs : List Byte) (fill bad : Bool) : Exec Unit := do
  let s ← get
  spWriteIn (s.core.journals off bs.length) off bs fill bad

/-- The forms that clear or set full bits, or move tiles, raise PROT on a journaled region (R343). -/
def spNoJournal (off n : Nat) : Exec Unit := do
  let s ← get
  if s.core.journals off n then trap0 .prot else pure ()

end Sys2Proof.Machine
end

