-- ==== Sys2Proof/Machine/Operands.lean ====
section
/-!
DEFINITION. Operands: reading and writing every operand form (R16, R17, R32, R33, R54, R55, R76), latches (R18), and the
registers that an instruction names, by which a group waits or is refused (R16, R18, R28).
-/

namespace Sys2Proof.Machine

/-! ## Registers of a stream -/

def Stream.reg (t : Stream) (n : Nat) : Word := FMap.get t.g n 0
def Stream.setReg (t : Stream) (n : Nat) (v : Word) : Stream := { t with g := FMap.put t.g n v 0 }
def Stream.opReg (t : Stream) (n : Nat) : Word := FMap.get t.o n 0
def Stream.setOpReg (t : Stream) (n : Nat) (v : Word) : Stream := { t with o := FMap.put t.o n v 0 }
def Stream.latch (t : Stream) (n : Nat) : Word := FMap.get t.x n 0
def Stream.setLatch (t : Stream) (n : Nat) (v : Word) : Stream := { t with x := FMap.put t.x n v 0 }

def Core.queue (c : Core) (n : Nat) : List Word := FMap.get c.queues n []
def Core.setQueue (c : Core) (n : Nat) (l : List Word) : Core := { c with queues := FMap.put c.queues n l [] }

/-! ## Queue registers (R17) -/

/-- The stream that reads queue register `n`: hind while the direction bit is 0. -/
def readerIsHind (qdir : BitVec 8) (n : Nat) : Bool := !qdir.getLsbD n

/-- The oldest entry; blocks while empty; QDIR for the writing stream. -/
def popQ (n : Nat) : Exec Word := do
  let s ← get
  if s.hind ≠ readerIsHind s.baseCore.cr.qdir n then trapN .qdir n
  else match s.core.queue n with
    | [] => block
    | v :: t =>
      set (s.modCore fun c => c.setQueue n t)
      pure v

/-- A push behind the youngest entry; blocks while four are held; QDIR for the reading stream. A push that finds the
queue register empty gives a pulse (R273). -/
def pushQ (n : Nat) (v : Word) : Exec Unit := do
  let s ← get
  if s.hind = readerIsHind s.baseCore.cr.qdir n then trapN .qdir n
  else if 4 ≤ (s.core.queue n).length then block
  else
    let first := (s.core.queue n).isEmpty
    set (s.modCore fun c =>
      let c := c.setQueue n (c.queue n ++ [v])
      if first then c.pulse 3 n else c)

/-! ## `Read` (R54) -/

/-- DEDUCED, log entry 76. -/
def readSrc (a : Src) : Exec Word := do
  let s ← get
  match a with
  | .g n => pure (s.baseStream.reg n.val)
  | .gz => pure 0
  | .o n => pure (s.baseStream.opReg n.val)
  | .x n => pure (s.baseStream.latch n.val)
  | .q n => popQ n.val

/-- The last source of classes 0 and 4: I in the immediate form (R33). -/
def readISrc (a : ISrc) : Exec Word :=
  match a with
  | .reg a => readSrc a
  | .imm v => pure v

/-- The 64-bit value of two registers. -/
def Stream.pair (t : Stream) (n : Nat) : DWord := t.reg (n + 1) ++ t.reg n

/-- `Pair` (R55). (DEDUCED, log entry 16.) -/
def readPair (p : PairReg) : Exec DWord := do
  let s ← get
  match p with
  | .even n => pure (s.baseStream.pair (2 * n.val))
  | .gz => pure 0

/-- `SextI` (R55). -/
def sextI (v : Word) : DWord := v.signExtend 64

def readPSrc (a : PSrc) : Exec DWord :=
  match a with
  | .reg p => readPair p
  | .imm v => pure (sextI v)

/-- A main-file register by number. -/
def readG (n : Nat) : Exec Word := do
  let s ← get
  pure (s.baseStream.reg n)

/-! ## `Write` (R54) -/

def writeG (n : Nat) (v : Word) : Exec Unit := modStream fun t => t.setReg n v

def writeDst (d : Dst) (v : Word) : Exec Unit :=
  match d with
  | .g n => writeG n.val v
  | .gz => pure ()
  | .o n => modStream fun t => t.setOpReg n.val v
  | .q n => pushQ n.val v

/-- A write on its way to a neighbour's scratchpad port (R134, R54). -/
def queueNb (dst off n : Nat) (data : Granule) (fill bad : Bool) : Exec Unit := do
  let s ← get
  modDev fun d => d.modCore dst fun c => { c with nbq := c.nbq ++ [⟨s.me, s.hind, off, n, data, fill, bad⟩] }

/-- A span of a neighbour's region: NOPATH without a neighbour, PROT unless the region is visible, BOUND past its end,
each with the trap value given (R76, R133, R190). Answers the neighbour and the scratchpad offset. (DEDUCED, log entry 22.) -/
def nbSpan (dir : Dir) (slot off n : Nat) (tval : Nat) : Exec (Nat × Nat) := do
  let s ← get
  match neighbour s.me dir with
  | none => trapN .nopath tval
  | some nb =>
    match (s.base.core nb).area slot with
    | none => trapN .prot tval
    | some a =>
      if a.visible = false then trapN .prot tval
      else if a.len < off + n then trapN .bound tval
      else pure (nb, a.base + off)

/-- A destination of classes 0 and 4; a window write is a word and sets its granule's full bit (R32, R54). (DEDUCED, log entry 22.) -/
def writeW (d : WDst) (v : Word) : Exec Unit :=
  match d with
  | .reg d => writeDst d v
  | .win dir slot off =>
    if off.toNat % 4 ≠ 0 then trapW .align off
    else do
      let (nb, o) ← nbSpan dir slot.val off.toNat 4 off.toNat
      queueNb nb o 4 (v.setWidth 128) true false

/-- `SetPair` (R55). -/
def writePairN (n : Nat) (v : DWord) : Exec Unit := do
  writeG n (v.extractLsb' 0 32)
  writeG (n + 1) (v.extractLsb' 32 32)

def writePair (n : PairDst) (v : DWord) : Exec Unit := writePairN (2 * n.val) v

/-- The destination of a `.d` form: a pair, or gz, which discards (R63). (DEDUCED, log entry 16.) -/
def writePairReg (p : PairReg) (v : DWord) : Exec Unit :=
  match p with
  | .even n => writePairN (2 * n.val) v
  | .gz => pure ()

/-- The lane's latch (R18). -/
def writeLatch (v : Word) : Exec Unit := modify fun s => s.modStream fun t => t.setLatch s.issue.lane1.toNat v

end Sys2Proof.Machine

namespace Sys2Proof

/-! ## Registers that an instruction names

A register is numbered as its field code: g n is n, o n is 64 + n. -/

def Src.ids : Src → List Nat
  | .g n => [n.val]
  | .o n => [64 + n.val]
  | _ => []

def Dst.ids : Dst → List Nat
  | .g n => [n.val]
  | .o n => [64 + n.val]
  | _ => []

def WDst.ids : WDst → List Nat
  | .reg d => d.ids
  | .win _ _ _ => []

def PairReg.ids : PairReg → List Nat
  | .even n => [2 * n.val, 2 * n.val + 1]
  | .gz => []

def pairIds (n : PairDst) : List Nat := [2 * n.val, 2 * n.val + 1]

def ISrc.ids : ISrc → List Nat
  | .reg s => s.ids
  | .imm _ => []

def PSrc.ids : PSrc → List Nat
  | .reg p => p.ids
  | .imm _ => []

def VSrc.ids : VSrc → List Nat
  | .s a => a.ids
  | _ => []

def spanIds (n k : Nat) : List Nat := (List.range k).map (n + ·)

def LdDst.ids : LdDst → List Nat
  | .sub _ d => d.ids
  | .pair p => pairIds p
  | .quad n => spanIds (4 * n.val) 4
  | .quadO => spanIds 64 4
  | .line n => spanIds (16 * n.val) 16
  | .dq _ | .quadQ _ => []

def StSrc.ids : StSrc → List Nat
  | .sub _ a => a.ids
  | .pair p => p.ids
  | .quad n => spanIds (4 * n.val) 4
  | .quadO => spanIds 64 4
  | .line n => spanIds (16 * n.val) 16
  | .dq _ | .quadQ _ => []

def Base.ids : Base → List Nat
  | .glob p => p.ids
  | .sp a => a.ids
  | .nb a => a.ids

def Full.ids : Full → List Nat
  | .busy d => d.ids
  | _ => []

/-- Registers read and registers written. -/
structure Uses where
  rd : List Nat
  wr : List Nat
  deriving DecidableEq, Repr

def Int3.uses : Int3 → Uses
  | .w dst a b => ⟨a.ids ++ b.ids, dst.ids⟩
  | .d dst a b => ⟨a.ids ++ b.ids, dst.ids⟩
def Int3W.uses (f : Int3W) : Uses := ⟨f.a.ids ++ f.b.ids, f.d.ids⟩
def Int2W.uses (f : Int2W) : Uses := ⟨f.a.ids, f.d.ids⟩
def Cmp.uses : Cmp → Uses
  | .w dst a b => ⟨a.ids ++ b.ids, dst.ids⟩
  | .d dst a b => ⟨a.ids ++ b.ids, dst.ids⟩
def SelOp.uses (f : SelOp) : Uses := ⟨f.a.ids ++ f.b.ids ++ f.c.ids, f.d.ids⟩
def LeaOp.uses : LeaOp → Uses
  | .w dst a b _ _ => ⟨a.ids ++ b.ids, dst.ids⟩
  | .d dst a b _ _ => ⟨a.ids ++ b.ids, dst.ids⟩
def MovOp.uses : MovOp → Uses
  | .w dst a => ⟨a.ids, dst.ids⟩
  | .d dst a => ⟨a.ids, dst.ids⟩
def KmovOp.uses : KmovOp → Uses
  | .w _ a => ⟨a.ids, []⟩
  | .d _ (.reg n) => ⟨pairIds n, []⟩
  | .d _ (.imm _) => ⟨[], []⟩
def KgetOp.uses : KgetOp → Uses
  | .w dst _ => ⟨[], dst.ids⟩
  | .d n _ => ⟨[], pairIds n⟩
def LdOp.uses (f : LdOp) : Uses := ⟨f.base.ids, f.d.ids⟩
def StOp.uses (f : StOp) : Uses := ⟨f.base.ids ++ f.v.ids, []⟩
def RinvOp.uses (f : RinvOp) : Uses := ⟨f.a.ids ++ f.b.ids, f.d.ids⟩
def DA.uses (f : DA) : Uses := ⟨f.a.ids, f.d.ids⟩
def AmoArgs.uses : AmoArgs → Uses
  | .w dst a b => ⟨a.ids ++ b.ids, dst.ids⟩
  | .d dst a b => ⟨a.ids ++ b.ids, pairIds dst⟩
def CasArgs.uses : CasArgs → Uses
  | .w dst a b c => ⟨a.ids ++ b.ids ++ c.ids, dst.ids⟩
  | .d dst a b c => ⟨a.ids ++ b.ids ++ c.ids, pairIds dst⟩
def F3R.uses (f : F3R) : Uses := ⟨f.a.ids ++ f.b.ids, f.d.ids⟩
def F2R.uses (f : F2R) : Uses := ⟨f.a.ids, f.d.ids⟩
def GenOp.uses : GenOp → Uses
  | .lane _ a _ => ⟨a.ids, []⟩
  | .stream x a => ⟨x.ids ++ a.ids, []⟩
def DrowOp.uses (f : DrowOp) : Uses := ⟨f.a.ids, f.d.ids⟩

/-- The registers of the main and operand files that an instruction names. `bfi`, `fma` and `fms` also read D. -/
def Instr.uses : Instr → Uses
  | .add f | .sub f | .adds f | .subs f | .mul f | .min f | .max f | .minu f | .maxu f
  | .and f | .or f | .xor f | .andn f | .shl f | .shr f | .sra f | .rol f => f.uses
  | .mulh f | .mulhu f | .div f | .divu f | .rem f | .remu f => f.uses
  | .fmin f | .fmax f | .feq f | .flt f | .fle f => f.uses
  | .clz f | .ctz f | .popc f | .fabs f | .fneg f | .fclass f => f.uses
  | .bfx f => ⟨f.a.ids, f.d.ids⟩
  | .bfi f => ⟨f.a.ids ++ f.d.ids, f.d.ids⟩
  | .seq f | .sne f | .slt f | .sge f | .sltu f | .sgeu f => f.uses
  | .sel f => f.uses
  | .lea f => f.uses
  | .chkb f => ⟨f.a.ids ++ f.b.ids, []⟩
  | .mov f => f.uses
  | .kmov f => f.uses
  | .kget f => f.uses
  | .bEq f | .bNe f | .bLt f | .bGe f | .bLtu f | .bGeu f => ⟨f.a.ids ++ f.b.ids, []⟩
  | .bdec f => ⟨[f.d.val], [f.d.val]⟩
  | .jr a | .ret a => ⟨a.ids, []⟩
  | .call f => ⟨[], pairIds f.d⟩
  | .callr f => ⟨f.a.ids, pairIds f.d⟩
  | .fork f => ⟨spanIds f.a.val f.n.val, []⟩
  | .join f => ⟨f.a.ids, []⟩
  | .ld f | .ldVol f | .ldTake f | .ldWait f => f.uses
  | .ldAcq f _ => f.uses
  | .lds f => ⟨f.base.ids, f.d.ids⟩
  | .st f | .stVol f | .stFill f => f.uses
  | .stRel f _ => f.uses
  | .pf f => ⟨f.a.ids, []⟩
  | .rwb f => ⟨f.a.ids ++ f.b.ids, []⟩
  | .rinv f | .rinvChk f => f.uses
  | .cobj f => f.uses
  | .cfree a => ⟨a.ids, []⟩
  | .fset f | .fclr f => ⟨f.a.ids, []⟩
  | .fget f => ⟨f.a.ids, f.d.ids⟩
  | .ltag f => ⟨f.a.ids ++ f.b.ids, []⟩
  | .amoAdd f | .amoMin f | .amoMax f | .amoAnd f | .amoOr f | .amoXor f | .amoSwap f => f.args.uses
  | .cas f => f.args.uses
  | .relq d _ => ⟨[], d.ids⟩
  | .fma f | .fms f => ⟨f.uses.rd ++ f.d.ids, f.uses.wr⟩
  | .fadd f | .fsub f | .fmul f | .fdiv f => f.uses
  | .fsqrt f | .fcvtI32F32 f | .fcvtU32F32 f | .fcvtF32I32 f | .fcvtF32U32 f => f.uses
  | .vadd f | .vsub f | .vmul f | .vmin f | .vmax f | .vadds f | .vsubs f | .vand f | .vor f | .vxor f
  | .vshl f | .vshr f | .vsra f | .vceq f | .vcne f | .vclt f | .vcle f => ⟨f.a.ids ++ f.b.ids, []⟩
  | .vfma f => ⟨f.a.ids ++ f.b.ids, []⟩
  | .vabs f | .vneg f | .vmov f | .vexp2 f | .vlog2 f | .vrcp f | .vrsqrt f | .vtanh f => ⟨f.a.ids, []⟩
  | .vsel f => ⟨f.a.ids ++ f.b.ids, []⟩
  | .vld f | .vmask f => ⟨f.a.ids, []⟩
  | .vst f => ⟨f.a.ids, []⟩
  | .vgath f => ⟨f.a.ids, []⟩
  | .vscat f => ⟨f.a.ids, []⟩
  | .gkey f | .gctr f => f.uses
  | .tld f | .texp f => ⟨f.a.ids, []⟩
  | .tst f => ⟨f.a.ids, []⟩
  | .mma f => ⟨f.m.ids, []⟩
  | .mmt f => ⟨f.m.ids, []⟩
  | .mcvt f => ⟨f.m.ids, []⟩
  | .bsum f => ⟨pairIds f.b, []⟩
  | .baccI32 f => ⟨spanIds (2 * f.n.val) 3 ++ f.a.ids ++ f.b.ids, spanIds (2 * f.n.val) 3⟩
  | .baccFloat f => ⟨spanIds (2 * f.n.val) 3, f.d.ids⟩
  | .mstat d | .psta d | .pcap d | .dqctlStat d => ⟨[], d.ids⟩
  | .pcom f => f.uses
  | .send f => ⟨spanIds (16 * f.regs.val) 16 ++ f.b.ids, f.full.ids⟩
  | .sendm f => ⟨spanIds (16 * f.regs.val) 16 ++ f.b.ids ++ f.c.ids, f.full.ids⟩
  | .repl f => ⟨spanIds (16 * f.regs.val) 16, f.full.ids⟩
  | .hdef f => ⟨f.a.ids ++ f.b.ids ++ f.c.ids, []⟩
  | .dqctlLim a | .dqctlSpill a => ⟨a.ids, []⟩
  | .dcnt f => ⟨f.a.ids ++ f.b.ids, f.full.ids⟩
  | .cpq f => ⟨spanIds (8 * f.n.val) 8, f.full.ids⟩
  | .gath f | .coll f => ⟨f.a.ids, f.full.ids⟩
  | .evx f | .mack f => ⟨f.a.ids ++ f.b.ids, []⟩
  | .evw f => f.uses
  | .mbx f => ⟨f.a.ids ++ f.b.ids, f.d.ids⟩
  | .dldL f => ⟨f.a.ids, spanIds (16 * f.n.val) 16⟩
  | .dstL f => ⟨f.a.ids ++ spanIds (16 * f.n.val) 16, []⟩
  | .dpush f => ⟨f.a.ids ++ f.b.ids ++ f.c.ids, []⟩
  | .dpro f | .ddem f | .dpin f | .dpinClr f | .dstat f => f.uses
  | .tlbinv a => ⟨a.ids, []⟩
  | .tlbprb f => ⟨f.a.ids, pairIds f.d⟩
  | .rdcyc d | .rdtime d => ⟨[], pairIds d⟩
  | _ => ⟨[], []⟩

/-- The main-file destinations (R28). -/
def Instr.mainDests (i : Instr) : List Nat := i.uses.wr.filter (· < 64)

/-- The operand-file entries that an instruction names, 0 to 7 (R16). -/
def Instr.opRegs (i : Instr) : List Nat := ((i.uses.rd ++ i.uses.wr).filter (64 ≤ ·)).map (· - 64)

/-- The operand-file entries that the operand fields of any word name (R32). (DEDUCED, log entry 17.) -/
def Fields.opRegs (f : Fields) : List Nat :=
  let low : Nat := if f.cls = 5 ∨ f.cls = 6 then 0xB0 else 0x40
  ([f.d.toNat, f.a.toNat, f.b.toNat, f.c.toNat].filter fun k => low ≤ k && k < low + 8).map (· - low)

/-- How many registers from field D on the form of a word's class and minor writes: what a word that does not decode
would have as its destination (R28). (DEDUCED, log entry 17.) -/
def Fields.destSpan (f : Fields) : Nat :=
  let m := f.minor.toNat
  match f.cls.toNat with
  | 0 =>
    if (1 ≤ m ∧ m ≤ 0x1C) ∨ (0x20 ≤ m ∧ m ≤ 0x26) ∨ m = 0x28 ∨ m = 0x30 ∨ m = 0x32 then
      (if f.dForm ∧ (m < 0x20 ∨ 0x26 < m) then 2 else 1)
    else 0
  | 1 => if m = 2 then 1 else if m = 4 ∨ m = 5 then 2 else 0
  | 2 =>
    if m = 0 then (match f.width with
      | 3 => 2 | 4 => 4 | 5 => 16 | _ => 1)
    else if m = 1 ∨ (5 ≤ m ∧ m ≤ 7) ∨ m = 0x0B then 1 else 0
  | 3 => if m ≤ 7 then (if f.width = 3 then 2 else 1) else if m = 9 then 1 else 0
  | 4 => if m ≤ 0x12 then 1 else 0
  | 7 => if m = 8 then (if f.q = 0 then 3 else 1) else if m = 0x0A then 1 else 0
  | 8 => if m = 1 ∨ m = 3 ∨ m = 4 then 1 else 0
  | 9 =>
    if m = 0x0A ∨ m = 0x0B ∨ (m = 4 ∧ f.x = 0) then 1
    else if m ≤ 8 ∧ m ≠ 3 ∧ m ≠ 4 ∧ f.q.toNat % 4 = 1 then 1 else 0
  | 10 => if m = 0 then 16 else if 3 ≤ m ∧ m ≤ 6 then 1 else 0
  | 11 => if 5 ≤ m ∧ m ≤ 7 then 2 else 0
  | _ => 0

/-- The main-file destinations that a word's field D names. -/
def Fields.mainDests (f : Fields) : List Nat := (spanIds f.d.toNat f.destSpan).filter (· < 48)

/-- Whether lane 1 can execute a word of this class and minor (R27, R45 to R47); an unassigned minor of a class that
lane 1 executes is judged as an encoding, not by its lane (R52). (DEDUCED, log entry 24.) -/
def laneOneForm (cls minor : Nat) : Bool :=
  cls = 0 || cls = 4 || (cls = 5 && !(0x16 ≤ minor && minor ≤ 0x19)) || (cls = 6 && minor ≠ 0x0D && minor ≠ 0x0E) ||
  (cls = 7 && minor ≠ 0 && minor ≠ 1 && minor ≠ 7 && minor ≠ 0x0D)

/-- The forms that a moraine core has (R39, R265): no class 5 to 8, no engine or crossbar form, and of the control
registers only k0 to k2, k8 to k15 and k40 to k42. -/
def moraineK (k : Nat) : Bool := k ≤ 2 || (8 ≤ k && k ≤ 15) || (40 ≤ k && k ≤ 42)

def Instr.moraineOk : Instr → Bool
  | .kmov (.w k _) | .kmov (.d k _) | .kget (.w _ k) | .kget (.d _ k) => moraineK k.val
  | .vadd _ | .vsub _ | .vmul _ | .vfma _ | .vmin _ | .vmax _ | .vabs _ | .vneg _ | .vadds _ | .vsubs _ | .vand _ | .vor _
  | .vxor _ | .vshl _ | .vshr _ | .vsra _ | .vceq _ | .vcne _ | .vclt _ | .vcle _ | .vsel _ | .vmov _ | .vld _ | .vst _
  | .vgath _ | .vscat _ | .vcvt _ | .vcvtSr _ | .vexp2 _ | .vlog2 _ | .vrcp _ | .vrsqrt _ | .vtanh _ | .vmaxr _ | .vsum _
  | .vresid _ | .vmask _ | .vpop _ | .vrand _ | .gkey _ | .gctr _ => false
  | .tld _ | .tst _ | .texp _ | .mwl _ | .mma _ | .mmt _ | .mclr _ | .mcvt _ | .bsum _ | .baccI32 _ | .baccFloat _ | .msync
  | .mstat _ | .tzero _ | .tmov _ | .pbeg | .pcom _ | .pabt | .psta _ | .pcap _ => false
  | .cpq _ | .gath _ | .coll _ | .evx _ | .evw _ | .dqctlSpill _ => false
  | _ => true

/-- Class A, which a markhor core turns away with NOPATH (R39). -/
def Instr.isDram : Instr → Bool
  | .dldL _ | .dstL _ | .dpush _ | .dpro _ | .ddem _ | .dpin _ | .dpinClr _ | .dstat _ => true
  | _ => false

open Machine in
/-- The cause that an instruction raises before it executes, by its core and privilege (R39, R52, R53): ILLOP, then
NOPATH, then PRIV. -/
def Instr.preCause (i : Instr) (id : Nat) (priv : Bool) : Option Cause :=
  if isMoraine id ∧ i.moraineOk = false then some .illop
  else if isMoraine id = false ∧ i.isDram then some .nopath
  else if priv then none
  else match i with
    | .kmov (.w k _) | .kmov (.d k _) =>
      if k.val = 4 ∨ k.val = 9 ∨ k.val = 12 ∨ k.val = 13 ∨ k.val = 14 ∨ k.val = 40 then some .priv else none
    | .rett | .tlbinv _ | .tlbinva | .tlbprb _ | .dpinClr _ => some .priv
    | .gkey (.stream _ _) | .gctr (.stream _ _) => some .priv
    | .send f => if f.net.val = 2 then some .priv else none
    | .sendm f => if f.net.val = 2 then some .priv else none
    | _ => none

end Sys2Proof

namespace Sys2Proof.Machine

/-- Raises the cause of `preCause` with the slot's PC (R53). -/
def precheck (i : Instr) : Exec Unit := do
  let s ← get
  match i.preCause s.me s.baseCore.cr.priv with
  | some c => trap c s.issue.slotPc
  | none => pure ()

end Sys2Proof.Machine
end

