-- ==== Sys2Proof/Machine/Flags.lean ====
section
/-!
DEFINITION. Float flags and rounding modes at issue: the mode in force (R66, R102), and the delivery of a float result
with the flags that it raises (R64, R103). The flags of each operation are computed in Float.lean.
-/

namespace Sys2Proof.Machine

/-- `k.frm`, read at issue. -/
def frm : Exec Rm := do
  let s ← get
  pure (rmOfBits s.baseCore.cr.frm)

/-- Q[3:1], or `k.frm` where it is zero (R66). -/
def modeOf (rm : Option Rm) : Exec Rm :=
  match rm with
  | some m => pure m
  | none => frm

/-- A 32-bit result of class 0 or 4: to its destination and to the lane's latch (R18, R59). -/
def deliverW (d : WDst) (v : Word) : Exec Unit := do
  writeW d v
  writeLatch v

/-- A float result with its flags. -/
def deliverF (d : WDst) (r : Word × Flags) : Exec Unit := do
  raise r.2
  deliverW d r.1

/-- A 64-bit result of a `.d` form: the latch takes its low word (R59). -/
def deliverD (p : PairReg) (v : DWord) : Exec Unit := do
  writePairReg p v
  writeLatch (v.extractLsb' 0 32)

/-- A write of `k.fflags`: the flags that the group raises are ORed in after it, by R64, where R103's last sentence can be read as
clearing them (DESIGN CHOICE, log entry 99). -/
def State.writeFflags (s : State) (v : Flags) : State :=
  s.modCore fun c => { c with cr := { c.cr with fflags := v ||| s.issue.raised } }

end Sys2Proof.Machine
end

