-- ==== Sys2Proof/Machine/Pools.lean ====
section
/-!
DEFINITION. Idle cores (R264) and the pools of a die (R311 to R314): who is a claimant, who holds a claim record, when a
rewritten pool takes effect, and the drain counters.
-/

namespace Sys2Proof.Machine

/-- Idle under R264. -/
def Core.idle (c : Core) : Bool :=
  c.act.isNone && c.susp.isNone && c.dq.waiting.isEmpty && c.dq.priv.isEmpty && c.dq.ringCount == 0 && c.deque.isEmpty &&
  c.redeliver.isEmpty

/-- The end of an activation, or of a wait, that leaves the core idle is noted (R312). -/
def Core.noteIdle (c : Core) (now : Nat) : Core := if c.idle then { c with idleSince := now } else c

/-- A core that holds a claim record, waiting, running, or to be started again after a rollback (R312, R342). -/
def Core.holdsClaim (c : Core) : Bool :=
  (c.dq.waiting.any fun w => w.claim != 0) ||
  (match c.act with
    | some a => a.claim != 0
    | none => false) ||
  (match c.susp with
    | some p => (match p.act with
      | some a => a.claim != 0
      | none => false)
    | none => false) ||
  c.redeliver.any fun a => a.claim != 0

/-- The members of a bind record, as core ids of a die (R302). -/
def BindRec.members (die : Nat) (b : BindRec) : List Nat :=
  let a := bits b.w1 4 0
  let b2 := if b.w1.getLsbD 6 then a + 8 else a + 1
  (List.range 32).filterMap fun k =>
    if b.w2.getLsbD k then some (markhorId die (if k < 16 then a else b2) (k % 16)) else none

/-- The bind record in force of a core: its die's slot that names it. -/
def Device.teamOf (d : Device) (id : Nat) : Option (Nat × BindRec) :=
  (d.slots.find? fun p => p.2.valid && p.1 / 256 == dieOf id && (p.2.members (dieOf id)).contains id).map fun p => (p.1 % 256, p.2)

/-- The pool that a core's bind record makes it the claimant of now: the rank-0 member of its team alone is one. -/
def Device.poolField (d : Device) (id : Nat) : Nat :=
  match d.teamOf id with
  | some t => if (t.2.members (dieOf id)).head? = some id then bits t.2.w0 16 15 else 0
  | none => 0

/-- The listed cores of a die. -/
def Device.listedOf (d : Device) (die : Nat) : List Nat := (d.cores.map (·.1)).filter fun id => dieOf id == die && isCore id

/-- A claimant's new pool takes effect once it holds no claim record (R314). -/
def Device.settlePool (d : Device) (id : Nat) : Device :=
  let c := d.core id
  let p := d.poolField id
  if c.pool = p ∨ c.holdsClaim then d else d.setCore id { c with pool := p, poolSince := d.cycle }

/-- Whether a pool of a die is at work: the queue holds a record of it, or a claimant of it is busy (R313). -/
def Device.poolBusy (d : Device) (die pool : Nat) : Bool :=
  ((FMap.get d.claimq die []).any fun r => r.pool == pool) ||
  (d.listedOf die).any fun id => (d.core id).pool == pool && (d.core id).holdsClaim

/-- The drain counter of a pool advanced at the end of its work (R313). -/
def Device.settleDrain (d : Device) (die pool : Nat) : Device :=
  let k := 4 * die + pool
  let busy := d.poolBusy die pool
  let was := d.poolActive.contains k
  let d := if was && !busy then { d with drains := FMap.put d.drains k (FMap.get d.drains k 0 + 1) 0 } else d
  { d with poolActive := markNat d.poolActive k busy }

/-- After a change of a claimant's or the claim queue's state. -/
def Device.settlePools (d : Device) (die : Nat) : Device :=
  let d := (d.listedOf die).foldl Device.settlePool d
  [1, 2, 3].foldl (fun d p => d.settleDrain die p) d

end Sys2Proof.Machine
end

