-- ==== Sys2Proof/Machine/Memory.lean ====
section
/-!
DEFINITION. Global memory: the physical map (R191), homes and copies (R193, R194, R280), coherence objects (R86, R289),
proposal versions and locks (R217, R218, R227), scope instances and the scope checker (R278, R279, R291), and address
translation (R54, R192, R208 to R211).
-/

namespace Sys2Proof.Machine

/-! ## The physical map (R191) -/

def isVault (pa : Nat) : Bool := pa < Config.vaultEnd
def isApp (pa : Nat) : Bool := Config.appBase ≤ pa && pa < Config.appEnd
def isDramPa (pa : Nat) : Bool :=
  (Config.fwinBase ≤ pa && pa < Config.fwinEnd) || (Config.deepBase ≤ pa && pa < Config.deepEnd)

/-- What a global access meets at a physical address (R192): performed, NOPATH or PROT. -/
def targetCause (pa : Nat) : Option Cause :=
  if isVault pa || isApp pa then none else if isDramPa pa then some .nopath else some .prot

/-! ## Homes, banks and slices (R193, R277) -/

/-- The package cluster that homes a vault line. -/
def vaultCluster (pa : Nat) : Nat := pa / Config.vaultBytes
/-- The slice that homes a line: 16 · cluster + pa[9:6], or 4096 for application-die memory. It is also the bank. -/
def homeSlice (pa : Nat) : Nat := if isVault pa then 16 * vaultCluster pa + pa / 64 % 16 else 4096
/-- The slice of a cluster that can hold a copy of a line. -/
def copySlice (cluster pa : Nat) : Nat := 16 * cluster + pa / 64 % 16

/-- The compute die that homes an address; 8, which is no compute die, for application-die memory. -/
def homeDie (pa : Nat) : Nat := if isVault pa then vaultCluster pa / 32 else 8
/-- Whether an access from a die to a line's home crosses to another compute die (R293). The application die stands in no
row of dies, and its own link is not one of the boundaries. (DESIGN CHOICE, log entry 61.) -/
def crosses (die pa : Nat) : Bool := isVault pa && homeDie pa != die

/-- Whether a core's cluster holds copies of this line: a markhor core's, of lines homed elsewhere (R277, R278). -/
def remote (id pa : Nat) : Bool := isMarkhor id && homeSlice pa != copySlice (pkgCluster id) pa

/-! ## Coherence objects (R86) -/

/-- Whether an object's range covers a byte by its physical address. -/
def Obj.coversPa (o : Obj) (pa : Nat) : Bool :=
  o.frames.any fun f => f.2 == pa / 32768 && o.base ≤ 32768 * f.1 + pa % 32768 && 32768 * f.1 + pa % 32768 < o.base + o.len

/-- The declared objects, those of swapped-out partitions among them: a home keeps a line's mode and version (R344). -/
def Device.allObjs (d : Device) : List Obj := d.objs ++ d.shadow.flatMap fun p => p.2.objs
def Device.objAt (d : Device) (pa : Nat) : Option Obj := d.allObjs.find? fun o => o.coversPa pa

/-- The object of a partition that covers a virtual address. -/
def Device.objAtVa (d : Device) (part va : Nat) : Option Obj :=
  d.objs.find? fun o => o.part == part && o.base ≤ va && va < o.base + o.len

def Device.propAt (d : Device) (pa : Nat) : Bool :=
  match d.objAt pa with
  | some o => o.prop
  | none => false

/-- The mode of the object at an address: 0 read-shared, 1 single-writer, 2 multi-writer; none if software-managed. -/
def Device.modeAt (d : Device) (pa : Nat) : Option Nat := (d.objAt pa).map (·.mode)

/-! ## Versions and locks (R217, R227) -/

def Device.version (d : Device) (pa : Nat) : Word := FMap.get d.versions (pa / 64) 0
/-- The home applies a write to a line: a proposal line's version rises by one. -/
def Device.bump (d : Device) (pa : Nat) : Device :=
  if d.propAt pa then { d with versions := FMap.put d.versions (pa / 64) (d.version pa + 1) 0 } else d

def Device.lock (d : Device) (ln : Nat) : LineLock := FMap.get d.locks ln LineLock.free
def Device.setLock (d : Device) (ln : Nat) (l : LineLock) : Device := { d with locks := FMap.put d.locks ln l LineLock.free }
/-- Whether some region holds a lock or hold on a line (R218). -/
def Device.locked (d : Device) (pa : Nat) : Bool := d.lock (pa / 64) != LineLock.free

/-! ## Bytes at the home -/

/-- The lowest poisoned granule of a span at the home. -/
def Device.homeBad (d : Device) (pa n : Nat) : Option Nat :=
  ((granules pa n).find? fun g => d.memPoison.contains g).map (16 * ·)

/-- The base of the egress window (R315, R356), when valid. -/
def Device.egressBase (d : Device) : Option Nat :=
  let lo := FMap.get d.regs 0x2002000000 0
  let hi := FMap.get d.regs 0x2002000004 0
  if lo.getLsbD 0 then some (bits hi 19 0 * 2 ^ 32 + bits lo 31 21 * 2 ^ 21) else none

/-- The word E of an egress slot: stores by cores are ignored there (R315). (DEDUCED, log entry 48.) -/
def Device.isEgressE (d : Device) (pa : Nat) : Bool :=
  match d.egressBase with
  | some b => b ≤ pa && pa < b + 0x200000 && 8 ≤ pa % 2048 && pa % 2048 < 12
  | none => false

/-- Bytes written at their home, without any other effect. -/
def Device.poke (d : Device) (pa : Nat) (bs : List Byte) (bad : Bool) : Device :=
  { d with mem := writeBytes d.mem pa bs, memPoison := poisonAfter d.memPoison pa bs.length bad }

/-- The granules of a line that a mask of poison names take it at their home. -/
def Device.taint (d : Device) (pa : Nat) (p : BitVec 4) : Device :=
  { d with memPoison := (List.range 4).foldl (fun l g => if p.getLsbD g then insertNat l (pa / 64 * 4 + g) else l) d.memPoison }

/-- A core's bytes written at their home: E of an egress slot keeps its value; a proposal line's version rises. -/
def Device.homeWrite (d : Device) (pa : Nat) (bs : List Byte) : Device :=
  let kept := bs.mapIdx fun i b => if d.isEgressE (pa + i) then readByte d.mem (pa + i) else b
  (d.poke pa kept false).bump pa

/-- The bytes of a mask that a core's stores may change: not E of an egress slot (R315). -/
def Device.storable (d : Device) (ln : Nat) (mask : BitVec 64) : BitVec 64 :=
  BitVec.ofNat 64 ((List.range 64).foldl (fun n i =>
    if mask.getLsbD i && !d.isEgressE (64 * ln + i) then n + 2 ^ i else n) 0)

/-- A dirty line merged into its home by its mask (R85, R194); a merged write-back bumps a proposal line (R227). -/
def Device.mergeHome (d : Device) (ln : Nat) (line : CacheLine) : Device :=
  let l := { line with mask := d.storable ln line.mask }
  if l.mask = 0 then d
  else
    let whole (g : Nat) : Bool := bits l.mask (16 * g + 15) (16 * g) = 0xFFFF
    let some_ (g : Nat) : Bool := bits l.mask (16 * g + 15) (16 * g) ≠ 0
    let p := (List.range 4).foldl (fun p g =>
      if some_ g && l.poison.getLsbD g then insertNat p (4 * ln + g)
      else if whole g then removeNat p (4 * ln + g) else p) d.memPoison
    Device.bump { d with mem := writeMasked d.mem (64 * ln) l.data l.mask, memPoison := p } (64 * ln)

/-! ## Cluster caches (R194) -/

/-- The set of a cluster that a line lives in: slice pa[9:6], set pa[16:10]. -/
def setKey (cluster ln : Nat) : Nat := 2048 * cluster + ln % 16 * 128 + ln / 16 % 128

def Device.ways (d : Device) (cluster ln : Nat) : List CacheLine := FMap.get d.caches (setKey cluster ln) []
def Device.setWays (d : Device) (cluster ln : Nat) (w : List CacheLine) : Device :=
  { d with caches := FMap.put d.caches (setKey cluster ln) w [] }

/-- The copy of a line in a cluster that is not its home. -/
def Device.copy (d : Device) (cluster ln : Nat) : Option CacheLine :=
  (d.ways cluster ln).find? fun l => l.ln == ln && !l.homed

/-- The entry of a line in the ways of its home slice. -/
def homedLine (ln : Nat) : CacheLine := ⟨ln, true, 0, 0, 0⟩

/-- The write-backs of some of a cluster's lines reach their homes at once: nothing is on its way from its die to theirs, and
a route is open. `rwb`, a release query and `Acquire` wait for that, so that no write-back of theirs is left on its way when
they end (R84, R286, R287, R299). (DESIGN CHOICE, log entry 61.) -/
def Device.backsReady (d : Device) (cluster : Nat) (lns : List Nat) : Bool :=
  lns.all fun ln => match d.copy cluster ln with
    | some l => l.mask == 0 || !crosses (cluster / 32) (64 * ln) || d.pairIdle (cluster / 32) (homeDie (64 * ln))
    | none => true

/-- The write-back of an evicted line that has to wait behind messages between its dies leaves as one of them; none if it
reaches its home at once (R194, R293). -/
def Device.writeBackLater (d : Device) (cluster : Nat) (l : CacheLine) : Option Device :=
  let home := homeDie (64 * l.ln)
  if crosses (cluster / 32) (64 * l.ln) && !d.pairIdle (cluster / 32) home then
    some (d.sendPacket (cluster / 32) home (.writeBack (64 * l.ln) l.data l.mask l.poison none))
  else none

/-- A write-back that reaches its home at once, counted between its dies where it crosses. -/
def Device.writeBackNow (d : Device) (cluster : Nat) (l : CacheLine) : Device :=
  let die := cluster / 32
  let home := homeDie (64 * l.ln)
  (if crosses die (64 * l.ln) then (d.useRoute (d.partOf die) (d.openRoute die home)).countPacket die home else d).mergeHome l.ln l

/-- A line becomes the most recently used of its set, and the sixteenth way's line leaves: a copy sends its dirty bytes to
its home, uncounted, where the line becomes the most recently used in its turn. Every such write-back leaves one dirty
copy fewer: `fuel` is a bound of them. -/
def Device.touchN : Nat → Device → Nat → CacheLine → Device
  | fuel, d, cluster, l =>
    let w := l :: (d.ways cluster l.ln).filter fun x => x.ln != l.ln
    let d := d.setWays cluster l.ln (w.take 16)
    match w[16]? with
    | none => d
    | some old =>
      if old.homed || old.mask == 0 then d
      else match d.writeBackLater cluster old with
        | some d => d
        | none =>
          let d := d.writeBackNow cluster old
          match fuel with
          | 0 => d
          | n + 1 => if isVault (64 * old.ln) then d.touchN n (vaultCluster (64 * old.ln)) (homedLine old.ln) else d

/-- The dirty copies of the package. -/
def Device.dirtyCopies (d : Device) : Nat := (d.caches.map fun p => (p.2.filter fun l => !l.homed && l.mask != 0).length).sum

/-- A use of a line in a cluster's slice. -/
def Device.touch (d : Device) (cluster : Nat) (l : CacheLine) : Device := d.touchN d.dirtyCopies cluster l

/-- The poison bits of a line at its home. -/
def Device.linePoison (d : Device) (ln : Nat) : BitVec 4 :=
  BitVec.ofNat 4 ((List.range 4).foldl (fun v g => if d.memPoison.contains (4 * ln + g) then v + 2 ^ g else v) 0)

/-- A clean copy as the home holds the line now. -/
def Device.freshCopy (d : Device) (ln : Nat) : CacheLine := ⟨ln, false, readLine d.mem (64 * ln), 0, d.linePoison ln⟩

/-- A use of a line at its home slice. -/
def Device.touchHome (d : Device) (pa : Nat) : Device :=
  if isVault pa then d.touch (vaultCluster pa) (homedLine (pa / 64)) else d

/-- A dirty line of a cluster sent to its home and merged there. -/
def Device.sendBack (d : Device) (cluster : Nat) (l : CacheLine) : Device :=
  if l.mask = 0 then d
  else match d.writeBackLater cluster l with
    | some d => d
    | none => (d.writeBackNow cluster l).touchHome (64 * l.ln)

/-- The copy that a cluster uses, filled from the home on a miss. -/
def Device.useCopy (d : Device) (cluster ln : Nat) : CacheLine × Device :=
  match d.copy cluster ln with
  | some l => (l, d.touch cluster l)
  | none =>
    let d := d.touchHome (64 * ln)
    (d.freshCopy ln, d.touch cluster (d.freshCopy ln))

/-- A cluster's copy replaced in place. -/
def Device.putCopy (d : Device) (cluster : Nat) (l : CacheLine) : Device :=
  d.setWays cluster l.ln ((d.ways cluster l.ln).map fun x => if x.ln = l.ln ∧ x.homed = false then l else x)

/-- A cluster's copy dropped without write-back. -/
def Device.dropCopy (d : Device) (cluster ln : Nat) : Device :=
  d.setWays cluster ln ((d.ways cluster ln).filter fun x => x.ln != ln || x.homed)

/-- A cluster writes back its dirty bytes of a line and keeps the copy clean. -/
def Device.writeBack (d : Device) (cluster ln : Nat) : Device :=
  match d.copy cluster ln with
  | some l => if l.mask = 0 then d else (d.putCopy cluster { l with mask := 0 }).sendBack cluster l
  | none => d

/-- A cluster's copy made equal to the home (R280, last paragraph). -/
def Device.refresh (d : Device) (cluster ln : Nat) : Device :=
  match d.copy cluster ln with
  | some _ => d.putCopy cluster (d.freshCopy ln)
  | none => d

/-- Every other cluster's copy of a line invalidated; a dirty copy's bytes are merged first. -/
def Device.invalidateOthers (d : Device) (keep : Option Nat) (ln : Nat) : Device :=
  (List.range 256).foldl (fun d k => if keep = some k then d else (d.writeBack k ln).dropCopy k ln) d

/-- Every copy of a line in every cluster written back and dropped (R86). -/
def Device.purge (d : Device) (ln : Nat) : Device := d.invalidateOthers none ln

/-- All copies that a cluster holds, with their line numbers. -/
def Device.copiesOf (d : Device) (cluster : Nat) : List CacheLine :=
  ((d.caches.filter fun p => p.1 / 2048 = cluster).map (·.2)).flatten.filter fun l => !l.homed

/-! ## Accesses at their places (R280) -/

/-- Before an access of a core at the home: its cluster's dirty bytes of the line are written back. They go with the
access. -/
def Device.beforeHome (d : Device) (id pa : Nat) : Device :=
  let d := match (if remote id pa then d.copy (pkgCluster id) (pa / 64) else none) with
    | some l => (d.putCopy (pkgCluster id) { l with mask := 0 }).mergeHome (pa / 64) l
    | none => d
  d.touchHome pa

/-- After it: the cluster's copy holds the home's bytes. -/
def Device.afterHome (d : Device) (id pa : Nat) : Device :=
  if remote id pa then d.refresh (pkgCluster id) (pa / 64) else d

/-- Whether a write to a line invalidates the other clusters' copies: single-writer and proposal lines (R289). -/
def Device.invalidates (d : Device) (pa : Nat) : Bool := d.propAt pa || d.modeAt pa == some 1

/-- A write performed at the home by a core. -/
def Device.storeHome (d : Device) (id pa : Nat) (bs : List Byte) : Device :=
  let d := d.beforeHome id pa
  let d := if d.invalidates pa then d.invalidateOthers (if remote id pa then some (pkgCluster id) else none) (pa / 64) else d
  (d.homeWrite pa bs).afterHome id pa

/-- Whether a plain store is performed at a copy: software-managed and multi-writer lines that are remote. -/
def Device.storesAtCopy (d : Device) (id pa : Nat) : Bool :=
  remote id pa && !d.propAt pa && (d.modeAt pa == none || d.modeAt pa == some 2)

/-- A plain store performed at its place, merged into the copy with its dirty mask or written at the home. -/
def Device.storePlain (d : Device) (id pa : Nat) (bs : List Byte) : Device :=
  if d.storesAtCopy id pa then
    let (l, d) := d.useCopy (pkgCluster id) (pa / 64)
    let k := pa % 64
    let v : Line := BitVec.ofNat 512 (leValue bs * 2 ^ (8 * k))
    let m := byteMask k bs.length
    let p := BitVec.ofNat 4 ((List.range 4).foldl (fun acc g =>
      if l.poison.getLsbD g && !(k ≤ 16 * g && 16 * g + 16 ≤ k + bs.length) then acc + 2 ^ g else acc) 0)
    d.putCopy (pkgCluster id) { l with data := mergeLine l.data v m, mask := l.mask ||| m, poison := p }
  else d.storeHome id pa bs

/-- The slice a store is counted at (R84, R280). -/
def Device.storeSlice (d : Device) (id pa : Nat) : Nat :=
  if d.storesAtCopy id pa then copySlice (pkgCluster id) pa else homeSlice pa

/-- A plain load performed: a hit reads the copy, a miss reads the home and fills a copy; a moraine core reads the home.
Answers the bytes as a number. -/
def Device.loadPlain (d : Device) (id pa n : Nat) : Nat × Device :=
  if remote id pa then
    let (l, d) := d.useCopy (pkgCluster id) (pa / 64)
    (bits l.data (8 * (pa % 64 + n) - 1) (8 * (pa % 64)), d)
  else (readLE d.mem pa n, d.touchHome pa)

/-- Whether an access of a core has to cross to the home's die: it is performed there, or misses in the cluster (R280, R293). -/
def Device.accessCrosses (d : Device) (id : Nat) (kind : AccKind) (pa : Nat) : Bool :=
  crosses (dieOf id) pa &&
  match kind with
  | .volLoad | .volStore => true
  | .load => !isMarkhor id || (d.copy (pkgCluster id) (pa / 64)).isNone
  | .store => !d.storesAtCopy id pa || (d.copy (pkgCluster id) (pa / 64)).isNone

/-- Nothing is on its way between a die and a line's home, either way, and a route is open. -/
def Device.linkIdle (d : Device) (die pa : Nat) : Bool :=
  !crosses die pa || (d.pairIdle die (homeDie pa) && d.pairIdle (homeDie pa) die)
/-- Nothing is on its way between a die and another, either way. -/
def Device.dieIdle (d : Device) (die : Nat) : Bool :=
  (List.range 8).all fun k => (d.packets die k).isEmpty && (d.packets k die).isEmpty

/-- An access and its answer that cross at once are counted both ways. -/
def Device.countCross (d : Device) (die pa : Nat) : Device :=
  if crosses die pa then
    ((d.useDies (d.partOf die) die (homeDie pa)).countPacket die (homeDie pa)).countPacket (homeDie pa) die
  else d

/-- A load performed at the home. -/
def Device.loadHome (d : Device) (id pa n : Nat) : Nat × Device :=
  let d := d.beforeHome id pa
  (readLE d.mem pa n, d.afterHome id pa)

/-- The poison of a line as a load of a core meets it: of the copy for a plain load that hits; at the home, of what the home
holds once the issuing cluster's dirty bytes are merged (R280). -/
def Device.loadPoison (d : Device) (id pa : Nat) (atHome : Bool) : BitVec 4 :=
  match (if remote id pa then d.copy (pkgCluster id) (pa / 64) else none) with
  | some l => if atHome then (d.mergeHome (pa / 64) l).linePoison (pa / 64) else l.poison
  | none => d.linePoison (pa / 64)

/-- The lowest granule of a span of a line that poison bits name. -/
def badOf (p : BitVec 4) (pa n : Nat) : Option Nat := ((granules pa n).find? fun g => p.getLsbD (g % 4)).map (16 * ·)

/-- The lowest poisoned granule that a load of a core would meet. (DEDUCED, log entry 10.) -/
def Device.loadBad (d : Device) (id pa n : Nat) (atHome : Bool) : Option Nat := badOf (d.loadPoison id pa atHome) pa n

/-! ## Scope instances (R278, R279) -/

/-- The order of the scopes (R278). -/
def Scope.code : Scope → Nat
  | .stream => 0 | .core => 1 | .team => 2 | .cluster => 3 | .quad => 4 | .die => 5 | .part => 6 | .pkg => 7 | .host => 8
  | .fab => 9 | .sys => 10

def Device.teamMembers (d : Device) (id : Nat) : List Nat :=
  match d.teamOf id with
  | some t => t.2.members (dieOf id)
  | none => [id]

def quadOf (cluster : Nat) : Nat := 4 * (cluster / 32) + cluster % 8 / 2

/-- The instance of a scope for a stream (R278). For a moraine core, team, cluster and quad are the core itself; for a
member moved from another package, the scopes up to the partition hold the moved team alone (R310). -/
def Device.instOf (d : Device) (id : Nat) (hind : Bool) (sc : Scope) : Inst :=
  if (d.core id).home.isSome && 2 ≤ Scope.code sc && Scope.code sc ≤ 6 then .team (d.teamMembers id)
  else match sc with
  | .stream => .stream id hind
  | .core => .core id
  | .team => if isMoraine id then .core id else .team (d.teamMembers id)
  | .cluster => if isMoraine id then .core id else .cluster (pkgCluster id)
  | .quad => if isMoraine id then .core id else .quad (quadOf (pkgCluster id))
  | .die => .die (dieOf id)
  | .part => .part (d.diesOf (d.partOfCore id))
  | .pkg => .pkg
  | .host => .host
  | .fab => .fab
  | .sys => .sys

/-- The cores that an instance inside a die can hold; none for an instance that holds whole dies. -/
def Inst.coreList : Inst → Option (List Nat)
  | .stream c _ | .core c => some [c]
  | .team cs => some cs
  | .cluster k => some ((List.range 16).map (markhorId (k / 32) (k % 32)))
  | .quad q => some (((List.range 8).map fun j => (List.range 16).map
      (markhorId (q / 4) (8 * (j / 2) + 2 * (q % 4) + j % 2))).flatten)
  | _ => none

/-- The dies that an instance of whole dies holds; none for one that is not made of compute dies alone. -/
def Inst.dieList : Inst → Option (List Nat)
  | .die d => some [d]
  | .part ds => some ds
  | .pkg => some (List.range 8)
  | _ => none

/-- How far an instance reaches beyond the compute dies: 1 host, 2 fab, 3 sys. -/
def Inst.reach : Inst → Nat
  | .host => 1 | .fab => 2 | .sys => 3 | _ => 0

/-- One instance includes another: its member set contains the other's (R279). -/
def Inst.includes (a b : Inst) : Bool :=
  if 0 < a.reach then b.reach ≤ a.reach
  else if 0 < b.reach then false
  else match a with
    | .stream _ _ => a == b
    | _ =>
      match a.dieList, b.dieList with
      | some ds, some es => es.all ds.contains
      | some ds, none => ((b.coreList).getD []).all fun c => ds.contains (dieOf c)
      | none, some _ => false
      | none, none => ((b.coreList).getD []).all ((a.coreList).getD []).contains

/-- Whether an instance holds cores outside a cluster (R286, R287). -/
def Inst.beyond (a : Inst) (cluster : Nat) : Bool :=
  match a.coreList with
  | some cs => cs.any fun c => pkgCluster c != cluster
  | none => true

/-- Whether a slice lies in an instance, for a release query (R278). -/
def Inst.hasSlice (a : Inst) (slice : Nat) : Bool :=
  if slice = 4096 then 0 < a.reach
  else if 0 < a.reach then true
  else match a with
    | .stream _ _ | .core _ => false
    | _ =>
      match a.dieList, a.coreList with
      | some ds, _ => ds.contains (slice / 512)
      | none, some cs => cs.any fun c => isMarkhor c && pkgCluster c == slice / 16
      | none, none => false

/-- The scope checker at the home (R291): the record after the access, or none for SCOPE. -/
def Device.scopeCheck (d : Device) (pa : Nat) (i : Inst) : Option Device :=
  match FMap.find d.scopes (pa / 64) with
  | none => some { d with scopes := FMap.set d.scopes (pa / 64) i }
  | some r => if i.includes r then some { d with scopes := FMap.set d.scopes (pa / 64) i } else none

def Device.scopeClear (d : Device) (ln : Nat) : Device := { d with scopes := FMap.erase d.scopes ln }

/-- The cluster's copies of multi-writer lines, which are homed outside it, where an instance holds cores outside it. -/
def Device.sharedLines (d : Device) (id : Nat) (i : Inst) : List Nat :=
  if isMarkhor id && i.beyond (pkgCluster id) then
    ((d.copiesOf (pkgCluster id)).filter fun l => d.modeAt (64 * l.ln) == some 2).map (·.ln)
  else []

/-- `Acquire(s)` (R287): the cluster's copies of multi-writer lines homed outside it are written back and invalidated. -/
def Device.acquire (d : Device) (id : Nat) (i : Inst) : Device :=
  (d.sharedLines id i).foldl (fun d ln => (d.writeBack (pkgCluster id) ln).dropCopy (pkgCluster id) ln) d

/-- The lines that `ReleaseQuery(s)` writes back (R286): multi-writer lines whose home lies in the instance. -/
def Device.releasedLines (d : Device) (id : Nat) (i : Inst) : List Nat :=
  (d.sharedLines id i).filter fun ln => i.hasSlice (homeSlice (64 * ln))

/-- The write-back step of `ReleaseQuery(s)` (R286). -/
def Device.releaseLines (d : Device) (id : Nat) (i : Inst) : Device :=
  (d.releasedLines id i).foldl (fun d ln => d.writeBack (pkgCluster id) ln) d

/-! ## Translation (R54, R208 to R211) -/

inductive Acc
  | rd | wr | ex
  deriving DecidableEq, Repr

/-- Bytes of a page by its size code (R98). -/
def pageBytes (size : Nat) : Nat := if size = 0 then 0x8000 else if size = 1 then 0x200000 else 0x40000000

def TlbEntry.allows (e : TlbEntry) (a : Acc) : Bool :=
  match a with
  | .rd => e.r | .wr => e.w | .ex => e.x

def TlbEntry.covers (e : TlbEntry) (va : Nat) : Bool := e.va / pageBytes e.size == va / pageBytes e.size
def TlbEntry.addr (e : TlbEntry) (va : Nat) : Nat := e.pa + va % pageBytes e.size

/-- Bits [63:52] are copies of bit 51. -/
def canonical (va : DWord) : Bool := va == (va.extractLsb' 0 52).signExtend 64
/-- The 52 implemented bits. -/
def va52 (va : DWord) : Nat := va.toNat % 2 ^ 52

/-- One level of a walk: a pointer, a leaf, or a failure. -/
inductive WalkStep
  | pointer (table : Nat) | leaf (e : TlbEntry) | fail
  deriving DecidableEq, Repr

/-- The index of a virtual address at a level (R209). -/
def walkIndex (level va : Nat) : Nat :=
  match level with
  | 0 => va / 2 ^ 42 % 1024
  | 1 => va / 2 ^ 30 % 4096
  | 2 => va / 2 ^ 21 % 512
  | _ => va / 2 ^ 15 % 64

def tableBytes (level : Nat) : Nat :=
  match level with
  | 0 => 8192 | 1 => 32768 | 2 => 4096 | _ => 512

/-- The entry of a level read at its home and judged (R210, R211). -/
def Device.walkLevel (d : Device) (level table va : Nat) : WalkStep :=
  if table % tableBytes level ≠ 0 ∨ ¬(isVault table || isApp table) then .fail
  else
    let e : DWord := BitVec.ofNat 64 (readLE d.mem (table + 8 * walkIndex level va) 8)
    let addr := bits e 51 9 * 512
    if e.getLsbD 0 = false ∨ bits e 8 4 ≠ 0 ∨ bits e 63 52 ≠ 0 then .fail
    else if e.getLsbD 1 = false ∧ e.getLsbD 2 = false ∧ e.getLsbD 3 = false then
      if level = 3 then .fail else .pointer addr
    else if level = 0 then .fail
    else
      let size := 3 - level
      if addr % pageBytes size ≠ 0 then .fail
      else .leaf ⟨va / pageBytes size * pageBytes size, size, addr, e.getLsbD 1, e.getLsbD 2, e.getLsbD 3⟩

/-- A read of a level's entry is a use of its line at the home (R194, R211). -/
def Device.touchLevel (d : Device) (level table va : Nat) : Device := d.touchHome (table + 8 * walkIndex level va)

/-- A whole walk at once from a die, as `tlbprb` and engines make it: its leaf, or none for a failure. A level whose home is on
another die is read once nothing is on its way between the two, with its two messages counted (R293): no answer while that has
to be waited for. -/
def Device.walkFrom (die va : Nat) : Nat → Device → Nat → Nat → Option (Option TlbEntry × Device)
  | 0, d, _, _ => some (none, d)
  | fuel + 1, d, level, table =>
    let at_ := table + 8 * walkIndex level va
    if !d.linkIdle die at_ then none
    else
      let e := (d.countCross die at_).touchLevel level table va
      match d.walkLevel level table va with
      | .fail => some (none, e)
      | .leaf x => some (some x, e)
      | .pointer t => Device.walkFrom die va fuel e (level + 1) t

def Device.walkNow (d : Device) (die ptbr va : Nat) : Option (Option TlbEntry × Device) := Device.walkFrom die va 4 d 0 ptbr

/-- The leaf that a page table holds for an address. -/
def Device.leafOf (d : Device) (va : Nat) : Nat → Nat → Nat → Option TlbEntry
  | 0, _, _ => none
  | fuel + 1, level, table =>
    match d.walkLevel level table va with
    | .fail => none
    | .leaf e => some e
    | .pointer t => d.leafOf va fuel (level + 1) t

/-- The TLB entry for an address. -/
def Core.tlbFind (c : Core) (va : Nat) : Option TlbEntry := c.tlb.find? fun e => e.covers va

/-- The translation of an address by the core's TLB, or else by its page table as it stands. -/
def Device.entryFor (d : Device) (id va : Nat) : Option TlbEntry :=
  ((d.core id).tlbFind va).or (d.leafOf va 4 0 (d.core id).cr.ptbr.toNat)

/-- A translation that neither traps nor fills a TLB, and is no use of an entry of it; no answer while its walk waits. R98 names
no change of the TLB, and of the order of R208 it says nothing. (DESIGN CHOICE, log entry 96.) -/
def Device.translateQuietly (d : Device) (id : Nat) (va : DWord) : Option (Option TlbEntry × Device) :=
  if canonical va then
    match (d.core id).tlbFind (va52 va) with
    | some e => some (some e, d)
    | none => d.walkNow (dieOf id) (d.core id).cr.ptbr.toNat (va52 va)
  else some (none, d)

/-- An entry becomes the most recently used of the 64. -/
def Core.tlbUse (c : Core) (e : TlbEntry) : Core := { c with tlb := (e :: c.tlb.filter (· ≠ e)).take 64 }

/-- A miss goes to a walker: it folds into a walk of the same table and page, or takes a free one of the die's 1,024. -/
def Device.startWalk (d : Device) (id va : Nat) : Device :=
  let ptbr := (d.core id).cr.ptbr.toNat
  let page := va / 32768
  let same (w : Walk) : Bool := w.die == dieOf id && w.ptbr == ptbr && w.page == page
  if d.walks.any same then { d with walks := d.walks.map fun w => if same w then { w with reqs := insertNat w.reqs id } else w }
  else if (d.walks.filter fun w => w.die == dieOf id).length < 1024 then
    { d with walks := d.walks ++ [⟨dieOf id, ptbr, page, 0, ptbr, [id]⟩] }
  else d

/-- What `Translate` (R54) finds: the physical address, or PAGE on a bad address or a failed walk, PROT without the
permission. A use of the TLB's entry counts in its order (R208); a miss starts a walk, and the group waits. (DEDUCED, log
entry 15.) -/
def lookup (va : DWord) (a : Acc) : Exec (Except Cause Nat) := do
  let s ← get
  if !canonical va then pure (.error .page)
  else match s.core.tlbFind (va52 va) with
    | some e =>
      if e.allows a then do
        set (s.modCore fun c => c.tlbUse e)
        pure (.ok (e.addr (va52 va)))
      else pure (.error .prot)
    | none =>
      if s.core.walkFail.contains (va52 va / 32768) then pure (.error .page)
      else waitFor fun d => d.startWalk s.me (va52 va)

/-- `Translate` (R54): what is found, or its trap. -/
def translate (va : DWord) (a : Acc) : Exec Nat := do
  match ← lookup va a with
  | .ok pa => pure pa
  | .error c => trap c va

/-- On a member moved from another package, NOPATH: of global memory it reaches no more than its code (R310). -/
def homeOnly (v : DWord) : Exec Unit := do
  let s ← get
  require s.core.home.isNone (trap .nopath v)

/-- Translation and the outcome of the physical target (R192). (DEDUCED, log entry 68; DEDUCED, log entry 75.) -/
def globalAddr (va : DWord) (a : Acc) : Exec Nat := do
  if a == .ex then pure () else homeOnly va
  let pa ← translate va a
  match targetCause pa with
  | none => pure pa
  | some c => trap c va

/-! ## Outstanding accesses (R281 to R283) -/

def AccKind.isStore : AccKind → Bool
  | .store | .volStore => true
  | _ => false

/-- A core's outstanding accesses of one stream, oldest first: those of a suspended activation come first. -/
def Core.outstanding (c : Core) (hind : Bool) : List Access :=
  (match c.susp with
    | some p => (if hind then p.hind else p.fore).acc
    | none => []) ++ (c.stream hind).acc

/-- Access number `k` is done: a card behind it waits for one access fewer (R295). -/
def Core.passCards (c : Core) (hind : Bool) (k : Nat) : Core :=
  { c with fifo := c.fifo.map fun x =>
      if x.hind = hind ∧ k < x.before.accs then { x with before := { x.before with accs := x.before.accs - 1 } } else x }

/-- Access number `k` removed. -/
def Core.dropAccess (c : Core) (hind : Bool) (k : Nat) : Core :=
  let c := c.passCards hind k
  match c.susp with
  | some p =>
    let t := if hind then p.hind else p.fore
    if k < t.acc.length then
      let t := { t with acc := t.acc.eraseIdx k }
      { c with susp := some (if hind then { p with hind := t } else { p with fore := t }) }
    else c.modStream hind fun x => { x with acc := x.acc.eraseIdx (k - t.acc.length) }
  | none => c.modStream hind fun x => { x with acc := x.acc.eraseIdx k }

/-- No access of the stream to a bank is outstanding (R281). -/
def Core.bankIdle (c : Core) (hind : Bool) (pa : Nat) : Bool :=
  (c.outstanding hind).all fun a => homeSlice a.pa != homeSlice pa

/-- Every earlier store of the stream has been performed. -/
def Core.storesDone (c : Core) (hind : Bool) : Bool := (c.outstanding hind).all fun a => !a.kind.isStore
/-- Writes of a stream on their way to a neighbour's scratchpad port (R134). -/
def Device.nbPendingOf (d : Device) (id : Nat) (hind : Bool) : Bool :=
  [Dir.n, Dir.e, Dir.s, Dir.w].any fun dir =>
    match neighbour id dir with
    | some nb => (d.core nb).nbq.any fun w => w.src == id && w.hind == hind
    | none => false
/-- Every earlier store and `.fill` of the stream has been performed (R284, R286); an `rwb` ends with its write-backs at their
homes (R299). -/
def Device.allDone (d : Device) (id : Nat) (hind : Bool) : Bool := (d.core id).storesDone hind && !d.nbPendingOf id hind
/-- Every earlier load of the stream has returned. -/
def Core.loadsDone (c : Core) (hind : Bool) : Bool := (c.outstanding hind).all fun a => a.kind.isStore

/-- DEDUCED, log entry 73. -/
def bumpCount (l : List SliceCount) (slice round : Nat) : List SliceCount :=
  if l.any fun x => x.slice == slice && x.round == round then
    l.map fun x => if x.slice = slice ∧ x.round = round then { x with n := x.n + 1 } else x
  else l ++ [⟨slice, round, 1⟩]

def countAt (l : List SliceCount) (slice round : Nat) : Nat :=
  ((l.find? fun x => x.slice == slice && x.round == round).map (·.n)).getD 0

end Sys2Proof.Machine
end

