-- ==== Sys2Proof/Machine/Access.lean ====
section
/-!
DEFINITION. What the memory forms share: data registers by width (R78), the gate of proposal regions (R216, R220), the
access queue of a stream (R281), release queries and acquires (R84, R92, R286, R287), and virtual ranges (R85, R86).
-/

namespace Sys2Proof.Machine

/-! ## Data registers (R78) -/

def ldBytes : LdDst → Nat
  | .sub .b _ => 1 | .sub .h _ => 2 | .sub .w _ => 4
  | .pair _ | .dq _ => 8
  | .quad _ | .quadO | .quadQ _ => 16
  | .line _ => 64

def stBytes : StSrc → Nat
  | .sub .b _ => 1 | .sub .h _ => 2 | .sub .w _ => 4
  | .pair _ | .dq _ => 8
  | .quad _ | .quadO | .quadQ _ => 16
  | .line _ => 64

def gSpan (n k : Nat) : List Dst := (List.range k).map fun j => if h : n + j < 48 then .g ⟨n + j, h⟩ else .gz
def oSpan (n k : Nat) : List Dst := (List.range k).map fun j => if h : n + j < 8 then .o ⟨n + j, h⟩ else .gz

/-- The destinations of a load's words, lower address first. -/
def ldDsts : LdDst → List Dst
  | .sub _ d => [d]
  | .pair p => gSpan (2 * p.val) 2
  | .dq q => List.replicate 2 (.q q)
  | .quad n => gSpan (4 * n.val) 4
  | .quadO => oSpan 0 4
  | .quadQ q => List.replicate 4 (.q q)
  | .line n => gSpan (16 * n.val) 16

/-- The words that a loaded value gives: extended below a word, else in ascending address. -/
def ldWords (n : Nat) (signed : Bool) (v : Nat) : List Word :=
  if n < 4 then
    [if signed then BitVec.ofInt 32 (signedOf (8 * n) v) else BitVec.ofNat 32 v]
  else (List.range (n / 4)).map fun k => BitVec.ofNat 32 (v / 2 ^ (32 * k))

def usesQueue : LdDst → Bool
  | .dq _ | .quadQ _ | .sub _ (.q _) => true
  | _ => false

/-- A loaded value written by the issuing group. -/
def writeLoad (d : LdDst) (signed : Bool) (v : Nat) : Exec Unit :=
  ((ldDsts d).zip (ldWords (ldBytes d) signed v)).forM fun p => writeDst p.1 p.2

/-- A register written when a load returns. -/
def Stream.putDst (t : Stream) (d : Dst) (v : Word) : Stream :=
  match d with
  | .g n => t.setReg n.val v
  | .o n => t.setOpReg n.val v
  | _ => t

def Stream.putLoad (t : Stream) (d : LdDst) (signed : Bool) (v : Nat) : Stream :=
  ((ldDsts d).zip (ldWords (ldBytes d) signed v)).foldl (fun t p => t.putDst p.1 p.2) t

/-- Registers as one little-endian number. -/
def wordsNat : List Word → Nat
  | [] => 0
  | w :: t => w.toNat + 2 ^ 32 * wordsNat t

def readGs (n k : Nat) : Exec Nat := do
  let s ← get
  pure (wordsNat ((List.range k).map fun j => s.baseStream.reg (n + j)))

def popMany (q : Nat) : Nat → Exec (List Word)
  | 0 => pure []
  | k + 1 => do
    let v ← popQ q
    let t ← popMany q k
    pure (v :: t)

/-- A store's data. -/
def readStore (v : StSrc) : Exec Nat :=
  match v with
  | .sub wd a => do
    let x ← readSrc a
    pure (match wd with
      | .b => x.toNat % 2 ^ 8
      | .h => x.toNat % 2 ^ 16
      | .w => x.toNat)
  | .pair p => do
    let x ← readPair p
    pure x.toNat
  | .dq q => do
    let l ← popMany q.val 2
    pure (wordsNat l)
  | .quad n => readGs (4 * n.val) 4
  | .quadO => do
    let s ← get
    pure (wordsNat ((List.range 4).map fun j => s.baseStream.opReg j))
  | .quadQ q => do
    let l ← popMany q.val 4
    pure (wordsNat l)
  | .line n => readGs (16 * n.val) 16

/-! ## Addresses (R76, R77) -/

/-- DEDUCED, log entry 75. -/
def aligned (a n : Nat) (v : DWord) : Exec Unit := if a % n = 0 then pure () else trap .align v

/-- A global address, aligned: ALIGN comes before PREGION. (DESIGN CHOICE, log entry 123.) -/
def globVa (p : PairReg) (off : Word) (n : Nat) : Exec DWord := do
  let b ← readPair p
  let va := b + sextI off
  aligned va.toNat n va
  pure va

/-- A scratchpad offset or a neighbour word, aligned. -/
def offset (a : Src) (off : Word) (n : Nat) : Exec Nat := do
  let b ← readSrc a
  let o := (b + off).toNat
  aligned o n (BitVec.ofNat 64 o)
  pure o

def dirOf (k : Nat) : Dir :=
  match k with
  | 0 => .n | 1 => .e | 2 => .s | _ => .w

/-- The neighbour and scratchpad offset that a word w selects (R76). -/
def nbAddr (w n : Nat) : Exec (Nat × Nat) := nbSpan (dirOf (w / 2 ^ 30 % 4)) (w / 2 ^ 26 % 16) (w % 2 ^ 26) n w

/-- The stream's earlier writes to a neighbour are performed (R134). -/
def nbQuiet (nb : Nat) : Exec Unit := do
  let s ← get
  blockUnless ((s.dev.core nb).nbq.all fun w => !(w.src == s.me && w.hind == s.hind))

/-! ## Proposal regions (R216, R220) -/

/-- Whether an address lies in a proposal object of the core's partition. -/
def State.proposalVa (s : State) (va : DWord) : Bool :=
  canonical va && (match s.dev.objAtVa (s.dev.partOfCore s.me) (va52 va) with
    | some o => o.prop
    | none => false)

/-- The checks made on a virtual address before translation: in a region, only plain accesses of proposal lines. (DEDUCED, log entry 25.) -/
def regionGate (va : DWord) (plain : Bool) : Exec RegionSt := do
  let s ← get
  match s.stream.region.st with
  | .closed => pure .closed
  | .postDraw => trapN .pregion 1
  | st => if plain && s.proposalVa va then pure st else trap .pregion va

/-- Forms that no region admits (R216). -/
def noRegion (v : DWord) : Exec Unit := do
  let s ← get
  match s.stream.region.st with
  | .closed => pure ()
  | .postDraw => trapN .pregion 1
  | _ => trap .pregion v

/-! ## Issue of global accesses (R280, R281) -/

def addAccess (a : Access) : Exec Unit := modStream fun t => { t with acc := t.acc ++ [a] }

/-- A message and its answer cross at once to a line's home on another die: nothing may be on its way between the two; both are
counted (R293). (DESIGN CHOICE, log entry 61.) -/
def crossOver (pa : Nat) : Exec Unit := do
  let s ← get
  blockUnless (s.dev.linkIdle (dieOf s.me) pa)
  modDev fun d => d.countCross (dieOf s.me) pa

/-- A synchronous access goes to its place: it waits for the stream's earlier accesses to its bank, and it may cross to another
die (R281, R293). (DEDUCED, log entry 18; DESIGN CHOICE, log entry 61.) -/
def reach (kind : AccKind) (pa : Nat) : Exec Unit := do
  let s ← get
  blockUnless (s.core.bankIdle s.hind pa)
  if s.dev.accessCrosses s.me kind pa then crossOver pa else pure ()

/-- The virtual address of a byte, of which another one's is known. -/
def vaOf (va : DWord) (pa b : Nat) : DWord := va - BitVec.ofNat 64 pa + BitVec.ofNat 64 b

/-- POISON with the virtual address of the lowest poisoned granule (R339), once the stream's earlier accesses to the bank, which
may write it, are performed (R281). (DEDUCED, log entry 10.) -/
def cleanGlobal (va : DWord) (pa n : Nat) (atHome : Bool) : Exec Unit := do
  let s ← get
  match s.dev.loadBad s.me pa n atHome with
  | some b => do
    blockUnless (s.core.bankIdle s.hind pa)
    trap .poison (vaOf va pa b)
  | none => pure ()

/-- A write to a read-shared object raises PROT; outside regions, plain stores to a proposal line are exempt (R289). -/
def writable (va : DWord) (pa : Nat) (plain : Bool) : Exec Unit := do
  let s ← get
  if s.dev.modeAt pa == some 0 && !(plain && s.dev.propAt pa) then trap .prot va else pure ()

/-- The first store or atomic after a `fence.rel.stream` waits until the stores before it are performed (R92). -/
def fenceGate : Exec Unit := do
  let s ← get
  if s.stream.fenced then do
    blockUnless (s.core.storesDone s.hind)
    modStream fun t => { t with fenced := false }
  else pure ()

/-- A store leaves for its place, counted in the round (R84). (DEDUCED, log entry 73.) -/
def sendStore (kind : AccKind) (va : DWord) (pa n v : Nat) : Exec Unit := do
  fenceGate
  let s ← get
  let c := s.core
  let slice := if kind == .volStore then homeSlice pa else s.dev.storeSlice s.me pa
  addAccess ⟨kind, va52 va, pa, n, false, .sub .w .gz, BitVec.ofNat 512 v, c.round, slice, none, 0, false, s.issue.pc⟩
  modCore fun c => { c with sentTo := bumpCount c.sentTo slice c.round }

/-- The round of a core closed: the counter moves on. -/
def Device.closeRound (d : Device) (id : Nat) : Device := d.modCore id fun c => { c with round := (c.round + 1) % 2 ^ 32 }

/-- The scope checker (R291) for an instance: the record moves, or SCOPE. A round that the access has closed itself stays
closed; one that its query closed is closed already. -/
def checkScope (va : DWord) (pa : Nat) (i : Inst) (closes : Bool) : Exec Unit := do
  let s ← get
  match s.dev.scopeCheck pa i with
  | some d => modDev fun _ => d
  | none => throw (.trapAfter (fun d => if closes then d.closeRound s.me else d) .scope va)

/-- A store waits while a region of another stream holds a lock or hold on its line (R218). (DEDUCED, log entry 32.) -/
def unlocked (pa : Nat) : Exec Unit := do
  let s ← get
  blockUnless (!s.dev.locked pa)

/-! ## Release and acquire (R84, R93, R286, R287) -/

/-- The query sent: dirty multi-writer lines are written back, the round is closed, and the answer is awaited. -/
def Device.sendQuery (d : Device) (id : Nat) (hind : Bool) (sc : Scope) : Device :=
  let i := d.instOf id hind sc
  (d.releaseLines id i).modCore id fun c =>
    { c with queries := c.queries ++ [⟨hind, c.round, sc, i, false, false⟩], round := (c.round + 1) % 2 ^ 32 }

/-- `ReleaseQuery(s)`: answers the number of the round closed, and the instance that the access was issued with (R279). A round that a
query has closed stays closed whatever its group then traps with, and one of stream or core scope is open again after PAGE, PROT and
POISON: R291 speaks of SCOPE alone (DESIGN CHOICE, log entry 108). -/
def releaseQuery (sc : Scope) : Exec (Word × Inst) := do
  let s ← get
  let c := s.core
  blockUnless (Scope.code sc = 0 || s.dev.allDone s.me s.hind)
  if Scope.code sc < 2 then do
    modDev fun d => d.closeRound s.me
    pure (BitVec.ofNat 32 c.round, s.dev.instOf s.me s.hind sc)
  else
    let mine (q : Query) : Bool := q.hind == s.hind && q.answered && !q.abandoned
    match c.queries.find? mine with
    | some q => do
      modCore fun c => { c with queries := c.queries.filter fun q => !mine q }
      pure (BitVec.ofNat 32 q.round, q.inst)
    | none => do
      blockUnless (!(c.queries.any fun q => !q.answered) &&
        s.dev.backsReady (pkgCluster s.me) (s.dev.releasedLines s.me (s.dev.instOf s.me s.hind sc)))
      waitFor fun d => d.sendQuery s.me s.hind sc

/-- `Acquire(s)` of an instance. -/
def acquire (i : Inst) : Exec Unit := do
  let s ← get
  blockUnless (s.dev.backsReady (pkgCluster s.me) (s.dev.sharedLines s.me i))
  modDev fun d => d.acquire s.me i

/-- The instance of a scope for the issuing stream now. -/
def scopeInst (sc : Scope) : Exec Inst := do
  let s ← get
  pure (s.dev.instOf s.me s.hind sc)

/-! ## Virtual ranges (R85, R86) -/

/-- The 32 KiB pages that a range touches. -/
def pagesOf (va n : Nat) : List Nat :=
  if n = 0 then [] else (List.range ((va + n - 1) / 32768 - va / 32768 + 1)).map (va / 32768 + ·)

/-- What a range form keeps while it waits for a walk: the pages that it has translated, and the order of use of the TLB
(R85, R208). -/
def Device.keepPages (d : Device) (id : Nat) (hind : Bool) (tlb : List TlbEntry) (pages : List (Nat × Nat)) : Device :=
  d.modCore id fun c => { c with tlb := tlb }.modStream hind fun t => { t with ranged := pages }

/-- A page of a range translated: `Translate`, and the outcome of the physical target. A page that the form has translated
before it waited is not translated again. -/
def translatePage (v : DWord) (p : Nat) (a : Acc) : Exec Nat := fun s =>
  match s.stream.ranged.find? fun x => x.1 == p with
  | some x => .ok (x.2, s)
  | none =>
    match globalAddr v a s with
    | .ok (pa, t) => .ok (pa / 32768, t.modStream fun x => { x with ranged := x.ranged ++ [(p, pa / 32768)] })
    | .error (.wait f) => .error (.wait fun d => f (d.keepPages s.me s.hind s.core.tlb s.stream.ranged))
    | .error e => .error e

/-- Every page of a range translated, before any change: pairs of virtual and physical page. A failure's trap value is the
range's address for its first page, and the page's own for a later one. (DESIGN CHOICE, log entry 83.) -/
def translatePages (va : Nat) (a : Acc) : List Nat → Exec (List (Nat × Nat))
  | [] => do
    modStream fun t => { t with ranged := [] }
    pure []
  | p :: t => do
    let pa ← translatePage (BitVec.ofNat 64 (max va (32768 * p))) p a
    let l ← translatePages va a t
    pure ((va52 (BitVec.ofNat 64 (32768 * p)) / 32768, pa) :: l)

/-- The virtual address of a line that a range overlaps, by its line number. -/
def rangeVa (va n : Nat) (frames : List (Nat × Nat)) (ln : Nat) : Option Nat :=
  (frames.find? fun f => f.2 == 64 * ln / 32768 &&
    32768 * f.1 + 64 * ln % 32768 < va + n && va < 32768 * f.1 + 64 * ln % 32768 + 64).map fun f =>
    32768 * f.1 + 64 * ln % 32768

/-- A stream's outstanding stores to a line that overlaps a range. -/
def Core.storesIn (c : Core) (hind : Bool) (va n : Nat) : Bool :=
  0 < n && (c.outstanding hind).any fun a => a.kind.isStore && a.va / 64 * 64 < va + n && va < a.va / 64 * 64 + 64

end Sys2Proof.Machine
end

