-- ==== Sys2Proof/Machine/Atomics.lean ====
section
/-!
DEFINITION. Class 3: atomics, fences and the release query (R90 to R93), with the page-request interrupt (R335).
-/

namespace Sys2Proof.Machine

/-! ## Atomics (R91, R227, R289, R291) -/

def ordReleases : Ord3 → Bool
  | .rel | .ar => true
  | _ => false
def ordAcquires : Ord3 → Bool
  | .acq | .ar => true
  | _ => false

/-- The tail word of a partition's page-request ring, when it is valid (R335). -/
def Device.prqTail (d : Device) (p : Nat) : Option Nat :=
  let lo := FMap.get d.regs (0x2001000008 + 16 * p) 0
  let hi := FMap.get d.regs (0x200100000C + 16 * p) 0
  if lo.getLsbD 0 then some (bits hi 19 0 * 2 ^ 32 + bits lo 31 6 * 64) else none

/-- An atomic on the tail word of a valid ring raises an interrupt at the application cores. -/
def Device.prqInterrupt (d : Device) (pa : Nat) : Device :=
  (List.range 8).foldl (fun d p =>
    if d.prqTail p = some pa then { d with appIrqs := d.appIrqs ++ [.pageRequest p] } else d) d

/-- The instance of an atomic: where it releases, that of its query. -/
def atomicInst (ord : Ord3) (sc : Scope) : Exec Inst :=
  if ordReleases ord then do
    let (_, i) ← releaseQuery sc
    pure i
  else scopeInst sc

/-- One indivisible read-modify-write at the home: `op` gives the new value, or none where nothing is written. Answers the
old value and the instance. (DEDUCED, log entry 32; DEDUCED, log entry 68.) POISON comes before SCOPE (DESIGN CHOICE, log entry
117), and ALIGN before PREGION (DESIGN CHOICE, log entry 123). -/
def atomicAt (va : DWord) (n : Nat) (ord : Ord3) (sc : Scope) (op : Nat → Option Nat) : Exec (Nat × Inst) := do
  aligned va.toNat n va
  noRegion va
  homeOnly va
  fenceGate
  let i ← atomicInst ord sc
  let pa ← globalAddr va .wr
  writable va pa false
  reach .volStore pa
  unlocked pa
  cleanGlobal va pa n true
  checkScope va pa i (ordReleases ord && Scope.code sc < 2)
  let s ← get
  let (old, d) := s.dev.loadHome s.me pa n
  modDev fun _ => d.prqInterrupt pa
  match op old with
  | some v => modDev fun d => d.storeHome s.me pa (leBytes n v)
  | none => pure ()
  pure (old, i)

/-- After the old value is delivered. -/
def acquireIf (ord : Ord3) (i : Inst) : Exec Unit := if ordAcquires ord then acquire i else pure ()

def amoForm (op : Word → Word → Word) (opD : DWord → DWord → DWord) (f : AmoOp) : Exec Unit :=
  match f.args with
  | .w dst a b => do
    let va ← readPair a
    let x ← readSrc b
    let (old, i) ← atomicAt va 4 f.ord f.scope fun v => some (op (BitVec.ofNat 32 v) x).toNat
    writeDst dst (BitVec.ofNat 32 old)
    acquireIf f.ord i
  | .d dst a b => do
    let va ← readPair a
    let x ← readPair b
    let (old, i) ← atomicAt va 8 f.ord f.scope fun v => some (opD (BitVec.ofNat 64 v) x).toNat
    writePair dst (BitVec.ofNat 64 old)
    acquireIf f.ord i

def casForm (f : CasOp) : Exec Unit :=
  match f.args with
  | .w dst a b c => do
    let va ← readPair a
    let x ← readSrc b
    let y ← readSrc c
    let (old, i) ← atomicAt va 4 f.ord f.scope fun v => if v = x.toNat then some y.toNat else none
    writeDst dst (BitVec.ofNat 32 old)
    acquireIf f.ord i
  | .d dst a b c => do
    let va ← readPair a
    let x ← readPair b
    let y ← readPair c
    let (old, i) ← atomicAt va 8 f.ord f.scope fun v => if v = x.toNat then some y.toNat else none
    writePair dst (BitVec.ofNat 64 old)
    acquireIf f.ord i

def sMin {w : Nat} (a b : BitVec w) : BitVec w := if a.slt b then a else b
def sMax {w : Nat} (a b : BitVec w) : BitVec w := if a.slt b then b else a

/-! ## Fences (R92, R216, R281) -/

/-- `fence.rel`: the query. At stream scope it closes the round and waits for nothing; the stream's next store or atomic
waits for those before the fence. Answers the instance. -/
def fenceRel (sc : Scope) : Exec Inst := do
  let (_, i) ← releaseQuery sc
  let s ← get
  if sc == .stream && !s.core.storesDone s.hind then modStream fun t => { t with fenced := true } else pure ()
  pure i

/-- `fence.acq`: every earlier load has returned; then `Acquire`. -/
def fenceAcq (sc : Scope) : Exec Unit := do
  let s ← get
  blockUnless (s.core.loadsDone s.hind)
  let i ← scopeInst sc
  acquire i

/-- `fence.ar` of cluster scope or wider discards the lines that the stream's fetch has buffered. (DEDUCED, log entry 11.) -/
def dropFetched (sc : Scope) : Exec Unit :=
  if 3 ≤ Scope.code sc then modStream fun t => { t with fetched := none } else pure ()

/-! ## Meanings -/

def execAmoAdd (f : AmoOp) (s : State) : Result := run (amoForm (· + ·) (· + ·) f) s
def execAmoMin (f : AmoOp) (s : State) : Result := run (amoForm sMin sMin f) s
def execAmoMax (f : AmoOp) (s : State) : Result := run (amoForm sMax sMax f) s
def execAmoAnd (f : AmoOp) (s : State) : Result := run (amoForm (· &&& ·) (· &&& ·) f) s
def execAmoOr (f : AmoOp) (s : State) : Result := run (amoForm (· ||| ·) (· ||| ·) f) s
def execAmoXor (f : AmoOp) (s : State) : Result := run (amoForm (· ^^^ ·) (· ^^^ ·) f) s
def execAmoSwap (f : AmoOp) (s : State) : Result := run (amoForm (fun _ b => b) (fun _ b => b) f) s
def execCas (f : CasOp) (s : State) : Result := run (casForm f) s

def execFenceAcq (sc : Scope) (s : State) : Result :=
  run (do
    noRegion 0
    fenceAcq sc) s

def execFenceRel (sc : Scope) (s : State) : Result :=
  run (do
    noRegion 0
    let _ ← fenceRel sc
    pure ()) s

def execFenceAr (sc : Scope) (s : State) : Result :=
  run (do
    noRegion 0
    let s ← get
    blockUnless (s.core.loadsDone s.hind)
    let i ← fenceRel sc
    acquire i
    dropFetched sc) s

/-- R93: D receives the number of the round closed. -/
def execRelq (dst : Dst) (sc : Scope) (s : State) : Result :=
  run (do
    noRegion 0
    let (r, _) ← releaseQuery sc
    writeDst dst r) s

end Sys2Proof.Machine
end

