-- ==== Sys2Proof/Machine/Events.lean ====
section
/-!
DEFINITION. How an event takes place: it changes the device alone. An event that is not due changes nothing.
-/

namespace Sys2Proof.Machine

/-- The state after an event. -/
def State.after (s : State) (d : Device) : State := { s with dev := d, pair := none, blocked := false, took := none }

/-- An event as a change of the device. -/
def happen (f : Device → Device) (s : State) : Result := .next (s.after (f s.dev))

/-! ## Gates of the rime crossbar (R273) -/

def xAnd (w : Word) : Nat := bits w 7 0
def xOr (w : Word) : Nat := bits w 15 8
def xAction (w : Word) : Nat := bits w 18 16
def xHandler (w : Word) : Nat := bits w 26 19

/-- The terms of an action. -/
def Core.termsOf (c : Core) (action : Nat) : List Nat := (List.range 8).filter fun t => xAction (c.term t).cfg == action

/-- A credit of an action spent, of its lowest term that has one; without such a term the gate is open. None where the
gate holds. -/
def Core.spend (c : Core) (action : Nat) : Option Core :=
  let ts := c.termsOf action
  if ts.isEmpty then some c
  else match ts.find? fun t => (c.term t).credits ≠ 0 with
    | some t => some { c with xterm := FMap.set c.xterm t { c.term t with credits := (c.term t).credits - 1 } }
    | none => none

/-! ## Lists of what is on its way -/

/-- Whether no earlier element of a list shares a key with element `k`. -/
def firstOf {α : Type} [DecidableEq α] (keys : List α) (k : Nat) : Bool :=
  match keys[k]? with
  | some x => !(keys.take k).contains x
  | none => false

end Sys2Proof.Machine
end

