-- ==== Sys2Proof/Machine/Boot.lean ====
section
/-!
DEFINITION. Boot and attestation (R361 to R364).
-/

namespace Sys2Proof.Machine

/-- The bytes that a signature is made over: the digest of what is signed, never that itself (R362). -/
def signed (bytes : List Byte) : List Byte := leBytes 64 (digest bytes).toNat

/-- Why an image is not accepted: its signature does not verify over its digest under the root key, or its version is below
the fused counter; none for an accepted one. (DEDUCED, log entry 62.) -/
def Device.refusal (d : Device) (i : Image) : Option BootCause :=
  if !ed448Verify (leBytes 57 d.rootKey.toNat) (signed i.bytes) i.signature then some .signature
  else if i.version < d.secVer then some .version
  else none

/-- An accepted image is measured, and raises the counter to its version. -/
def Device.measure (d : Device) (i : Image) : Device :=
  { d with mlog := d.mlog ++ [digest i.bytes], secVer := max d.secVer i.version }

/-- Stage 3: vaults, DRAM rows and shadow storage zero, every die as after reset; application-die memory, the fused and
measured state of AD and its own registers stay, those of the dies are as after reset (R356), and the links are trained. The count that `rdcyc` reads goes on from power-on. (DESIGN CHOICE,
log entry 85.) -/
def Device.train (d : Device) : Device :=
  { Device.reset with cycle := d.cycle, tick := d.tick,
                      mem := d.mem.filter fun p => Config.appBase ≤ p.1 && p.1 < Config.appEnd,
                      regs := d.regs.filter fun p => 0x2001000000 ≤ p.1, mlog := d.mlog, secVer := d.secVer, rootKey := d.rootKey, idSecret := d.idSecret,
                      idCert := d.idCert, quotes := d.quotes, bootReports := d.bootReports, boot := .firmware }

/-- A failure holds the dies in reset, and AD reports the stage and the cause to the board controller. -/
def Device.failBoot (d : Device) (stage : Nat) (c : BootCause) : Device :=
  { d with boot := .failed stage c, bootReports := d.bootReports ++ [(stage, c)] }

/-- The stages in order; a verification failure stops before the stage it guards. (DEDUCED, log entry 62.) -/
def Device.bootStages (d : Device) (fw app : Image) : Device :=
  match d.refusal fw with
  | some c => d.failBoot 2 c
  | none =>
    let d := (d.measure fw).train
    match d.refusal app with
    | some c => d.failBoot 4 c
    | none => { d.measure app with boot := .running }

/-- DEDUCED, log entry 62. -/
def execBoot (fw app : Image) (s : State) : Result := happen (fun d => if d.boot = .off then d.bootStages fw app else d) s

/-! ## Attestation (R364) -/

/-- Bytes of the measurement log. -/
def logBytes (l : List (BitVec 512)) : List Byte := l.flatMap fun x => leBytes 64 x.toNat

/-- Bytes 0 to 103 of a quote. -/
def Device.quoteBody (d : Device) (nonce : BitVec 256) : List Byte :=
  leBytes 32 nonce.toNat ++ leBytes 64 (digest (logBytes d.mlog)).toNat ++ leBytes 4 d.secVer ++ leBytes 4 d.pkgNum

/-- A quote: its body and the identity key's signature over the body's digest. -/
def Device.quote (d : Device) (nonce : BitVec 256) : BitVec 1744 :=
  let body := d.quoteBody nonce
  BitVec.ofNat 1744 (leValue (body ++ ed448Sign (leBytes 57 d.idSecret.toNat) (signed body)))

def execAttestationRequest (nonce : BitVec 256) (s : State) : Result :=
  happen (fun d => if d.boot = .running then { d with quotes := d.quotes ++ [d.quote nonce] } else d) s

end Sys2Proof.Machine
end

