-- ==== Sys2Proof/Machine/Control.lean ====
section
/-!
DEFINITION. Class 1: control transfer, streams, the end of an activation, tasks and codelets (R69 to R74, R327, R328).
-/

namespace Sys2Proof.Machine

/-! ## Transfers (R26, R29, R70) -/

/-- Target: the line of the group's PC, displaced, and the slot (R41, R55). -/
def target (pc : DWord) (i : Disp) : DWord :=
  (pc &&& ~~~(63 : DWord)) + (i.lines.signExtend 64 <<< 6) + BitVec.ofNat 64 i.slot.val

/-- PC := t. The target bit, and the form of t, are checked when the group at t would issue (R29). -/
def jump (t : DWord) : Exec Unit :=
  modify fun s => s.modStream fun x => { x with pc := t, entering := some (s.issue.pc, true) }

def jumpTo (i : Disp) : Exec Unit := do
  let s ← get
  jump (target s.issue.pc i)

/-- `b.cc`: a 32-bit compare. -/
def branchIf (cond : Word → Word → Bool) (f : BccOp) : Exec Unit := do
  let a ← readSrc f.a
  let b ← readSrc f.b
  if cond a b then jumpTo f.i else pure ()

/-- SetPair(D, NextPC). -/
def link (d : PairDst) : Exec Unit := do
  let s ← get
  writePair d s.issue.nextPc

/-! ## The end of an activation (R72, R328) -/

/-- Tokens of a core on their way; those of a member moved from another package go there (R310). -/
def Device.tokenFlight (d : Device) (id : Nat) (t : Token) : Flight :=
  ⟨.token, 0, t.core, 0, some id, d.partOfCore id, false, none, t.mbox, t.n, 0, ((d.core id).home.map (·.1)).getD 0, none⟩

/-- A core's tokens leave at once as messages, ahead of what waits in its send queues. (DESIGN CHOICE, log entry 127.) -/
def Device.sendTokens (d : Device) (id : Nat) (l : List Token) : Device :=
  let out := l.map (d.tokenFlight id)
  let d := l.foldl (fun d t => d.useDies (d.partOfCore id) (dieOf id) (dieOf (d.placeOf t.core))) d
  { d with flights := d.flights ++ out }

/-- Held records and tokens of the ending activation are released (R241, R261); those that `keep` does not pick are
discarded. Tokens leave at once as messages. -/
def Device.releaseMessages (d : Device) (id : Nat) (keep : Bool → Bool) : Device :=
  let c := d.core id
  let free (l : List SendEntry) : List SendEntry :=
    (l.filter fun e => !e.held || keep e.byTrap).map fun e => { e with held := false }
  (d.setCore id { c with sendq := (c.sendq.map fun p => (p.1, free p.2)).filter fun p => !p.2.isEmpty, tokens := [] }).sendTokens id
    (c.tokens.filter fun t => keep t.byTrap)

/-- Messages of trap handling alone are released, at `rett` (R328). (DEDUCED, log entry 66.) -/
def Device.releaseTrapMessages (d : Device) (id : Nat) : Device :=
  let c := d.core id
  let free (l : List SendEntry) : List SendEntry := l.map fun e => if e.byTrap then { e with held := false, byTrap := false } else e
  (d.setCore id { c with sendq := c.sendq.map fun p => (p.1, free p.2), tokens := c.tokens.filter fun t => !t.byTrap }).sendTokens id
    (c.tokens.filter fun t => t.byTrap)

/-- The first job that waits for this notice to be served. -/
def serveFirst (r : Line) : List Job → List Job
  | [] => []
  | j :: t => if j.notice = some r ∧ j.served = false then { j with served := true } :: t else j :: serveFirst r t

/-- The job whose JOBFAULT notice an ended activation received is tried again (R333, R337). -/
def Device.serveJobFault (d : Device) (r : Line) : Device := { d with jobs := serveFirst r d.jobs }

/-- Both streams idle; stores that have left stay outstanding, those of a suspended activation first. -/
def Core.endStreams (c : Core) : Core :=
  { c with fore := { Stream.reset with acc := c.outstanding false }, hind := { Stream.reset with acc := c.outstanding true } }

/-- The activation, or the trapped one that handler 255 abandons, ends. (DEDUCED, log entry 65.) -/
def Device.endActivation (d : Device) (id : Nat) : Device :=
  let c := d.core id
  let abandons := c.susp.isSome
  let d := match c.act with
    | some a => d.serveJobFault a.r
    | none => d
  let d := d.releaseMessages id fun byTrap => byTrap || !abandons
  let d := d.modCore id fun c =>
    let c : Core := if abandons then { c with journal := [] } else c.applyJournal id
    let c := c.endStreams
    let c := { c with mxu := { c.mxu with links := [] } }
    let c : Core := { c with act := none, susp := none, queries := c.queries.map fun q => { q with abandoned := true } }
    c.noteIdle d.cycle
  d.settlePools (dieOf id)

/-- Writes of the core on their way to a neighbour's scratchpad port. -/
def Device.nbPending (d : Device) (id : Nat) : Bool := d.nbPendingOf id false || d.nbPendingOf id true

/-- Line writes of the core that wait at a channel controller to be accepted (R200). -/
def Device.linesPending (d : Device) (id : Nat) : Bool := d.linesWait.any fun p => p.2.any fun w => w.core == id

/-- What `done` waits for (R72, R200). (DEDUCED, log entry 65.) -/
def Device.mayEnd (d : Device) (id : Nat) : Bool :=
  let c := d.core id
  !c.hind.running && c.mxu.cmds.isEmpty && !c.mxu.halted && c.loadsDone false && c.loadsDone true && c.vecBusy == 0 &&
  !d.nbPending id && !d.linesPending id

/-- A suspended stream in post-draw state cannot be abandoned (R328). -/
def Suspended.postDraw (p : Suspended) : Bool := p.fore.region.st == .postDraw || p.hind.region.st == .postDraw

/-- The end of an activation whose `done` has issued: once the other half's work is done. -/
def endForm : Exec Unit := do
  let s ← get
  if s.dev.mayEnd s.me then modDev fun d => d.endActivation s.me else block

/-- `done` issues when nothing of the activation before its group is left; beside another half, the activation ends once
what that half has begun is done as well (R28, R72). -/
def doneForm : Exec Unit := do
  let s ← get
  if s.hind then trap0 .stream
  else if !s.base.mayEnd s.me then block
  else if (match s.core.susp with
      | some p => p.postDraw
      | none => false) then trapN .pregion 1
  else if s.dev.mayEnd s.me then modDev fun d => d.endActivation s.me
  else modStream fun t => { t with ending := true }

/-! ## Tasks and codelets (R73, R74) -/

/-- The id that a core goes by in records: what `k.coreid` reads. (DEDUCED, log entry 35.) -/
def State.coreId (s : State) : Nat := s.core.homeId.getD s.me

def forkForm (f : ForkOp) : Exec Unit := do
  let s ← get
  if 16 ≤ s.core.deque.length then trap0 .deque
  else
    let args := (List.range f.n.val).map fun k => s.baseStream.reg (f.a.val + k)
    modCore fun c => { c with deque := ⟨target s.issue.pc f.i, s.coreId, args⟩ :: c.deque }

/-- The ready record of a descriptor (R74). (DEDUCED, log entry 35.) -/
def Core.readyRecord (c : Core) (src off : Nat) : Line :=
  lineOfWords [recWord0 (c.portWord (off + 4)).toNat 0 3 false src, BitVec.ofNat 32 off, 0, BitVec.ofNat 32 off,
    c.portWord (off + 8), c.portWord (off + 12)]

/-- A codelet counter set by the hardware: four bytes, full bit and layout tag kept (R74). A counter in the queue image stays as it is,
without a trap: whether R169's PROT is for a `join` there is left open. (DESIGN CHOICE, log entry 118.) -/
def Core.setCounter (c : Core) (id off : Nat) (v : Word) : Core := c.spStore id off (leBytes 4 v.toNat) false none false

/-- DEDUCED, log entry 67. -/
def joinForm (f : AOff) : Exec Unit := do
  let a ← readSrc f.a
  let o := (a + f.off).toNat
  if o % 16 ≠ 0 then trapN .align o
  else do
    spBound o 4
    let s ← get
    let n := (s.core.portWord o).toNat
    if n = 0 then trapN .codelet o
    else do
      let r := s.core.readyRecord s.coreId o
      modCore fun c => c.setCounter s.me o (BitVec.ofNat 32 (n - 1))
      if n = 1 then
        let t ← get
        match t.dev.arrive s.me r 0 with
        | some d => modDev fun _ => d
        | none => block
      else pure ()

/-! ## Meanings -/

def execBr (i : Disp) (s : State) : Result := run (jumpTo i) s
def execBEq (f : BccOp) (s : State) : Result := run (branchIf (fun a b => a == b) f) s
def execBNe (f : BccOp) (s : State) : Result := run (branchIf (fun a b => a != b) f) s
def execBLt (f : BccOp) (s : State) : Result := run (branchIf BitVec.slt f) s
def execBGe (f : BccOp) (s : State) : Result := run (branchIf (fun a b => !a.slt b) f) s
def execBLtu (f : BccOp) (s : State) : Result := run (branchIf BitVec.ult f) s
def execBGeu (f : BccOp) (s : State) : Result := run (branchIf (fun a b => !a.ult b) f) s

/-- The decrement takes effect whether or not the branch is taken. -/
def execBdec (f : BdecOp) (s : State) : Result :=
  run (do
    let v ← readG f.d.val
    writeG f.d.val (v - 1)
    if v - 1 = 0 then pure () else jumpTo f.i) s

def execJr (a : PairReg) (s : State) : Result :=
  run (do
    let t ← readPair a
    jump t) s

def execCall (f : CallOp) (s : State) : Result :=
  run (do
    link f.d
    jumpTo f.i) s

/-- A pair that is both link and target gives its old value. -/
def execCallr (f : CallrOp) (s : State) : Result :=
  run (do
    let t ← readPair f.a
    link f.d
    jump t) s

def execRet (a : PairReg) (s : State) : Result :=
  run (do
    let t ← readPair a
    jump t) s

/-- Hind starts at the target in its activation start state (R22, R35, R71): its registers at their start values, no proposal
region open. The last outcome of its regions, which R224 gives for the activation, stays. (DEDUCED, log entry 82.) -/
def execSplit (i : Disp) (s : State) : Result :=
  run (do
    let s ← get
    if s.hind || s.core.hind.running then trap0 .stream
    else modCore fun c =>
      { c with hind := { startStream (target s.issue.pc i) [] with
          acc := c.hind.acc, region := { Region.reset with last := c.hind.region.last }, entering := some (s.issue.pc, true) } }) s

/-- Hind stops once no register write of it is pending (R71). -/
def execHaltH (s : State) : Result :=
  run (do
    let s ← get
    if !s.hind then trap0 .stream
    else do
      blockUnless (s.core.loadsDone true)
      modStream fun t => { t with running := false }) s

def execDone (s : State) : Result := run doneForm s
def execFork (f : ForkOp) (s : State) : Result := run (forkForm f) s
def execJoin (f : AOff) (s : State) : Result := run (joinForm f) s

end Sys2Proof.Machine
end

