-- ==== Sys2Proof/Machine/Dram.lean ====
section
/-!
DEFINITION. The DRAM banks (R195 to R198) and class A (R156, R199 to R205), with the bank operation that performs an
accepted line write and the arrival of a pushed granule.
-/

namespace Sys2Proof.Machine

/-! ## Rows (R195, R196) -/

/-- A row of a bank: its bank's index, its number, and whether it is a fixed firn row. -/
structure RowAt where
  bank : Nat
  row : Nat
  fixed : Bool
  deriving DecidableEq, Repr

def rowAt (pa : Nat) : Option RowAt :=
  if Config.fwinBase ≤ pa ∧ pa < Config.fwinEnd then
    some ⟨(pa - Config.fwinBase) / 0x20000, (pa - Config.fwinBase) % 0x20000 / 1024, true⟩
  else if Config.deepBase ≤ pa ∧ pa < Config.deepEnd then
    some ⟨(pa - Config.deepBase) / 0x2000000, (pa - Config.deepBase) % 0x2000000 / 1024, false⟩
  else none

/-- The die and the channel of a bank. -/
def bankDie (i : Nat) : Nat := i / 48 / 64
def bankChannel (i : Nat) : Nat := i / 48 % 64

/-- The row of an address of a moraine core's own channel. -/
def ownRow (id pa : Nat) : Option RowAt :=
  match rowAt pa with
  | some r => if isMoraine id ∧ bankDie r.bank = dieOf id ∧ bankChannel r.bank = channelOf id then some r else none
  | none => none

/-- The physical address of an own row, or NOPATH (R196). -/
def needRow (pa : DWord) : Exec RowAt := do
  let s ← get
  match ownRow s.me pa.toNat with
  | some r => pure r
  | none => trap .nopath pa

/-! ## Banks (R197, R198, R201) -/

def Bank.reset : Bank := ⟨[], 0⟩
def Device.bank (d : Device) (i : Nat) : Bank := FMap.get d.banks i Bank.reset
def Device.setBank (d : Device) (i : Nat) (b : Bank) : Device := { d with banks := FMap.put d.banks i b Bank.reset }
def Device.bankOps (d : Device) (i : Nat) : List BankOp := FMap.get d.bankq i []
def Device.enterBank (d : Device) (i : Nat) (op : BankOp) : Device := { d with bankq := FMap.set d.bankq i (d.bankOps i ++ [op]) }

/-- Line writes that a channel controller holds. -/
def Device.heldLines (d : Device) (die channel : Nat) : Nat :=
  ((d.bankq.filter fun p => bankDie p.1 == die && bankChannel p.1 == channel).map fun p => p.2.length).sum

/-- Line writes that wait at a channel controller for a place (R200). -/
def channelKey (die channel : Nat) : Nat := 64 * die + channel
def Device.waitLines (d : Device) (die channel : Nat) : List BankWait := FMap.get d.linesWait (channelKey die channel) []
/-- A line write arrives at its controller: accepted into its bank's order, or left waiting while 64 are held. -/
def Device.offerLine (d : Device) (core bank : Nat) (op : BankOp) : Device :=
  let die := bankDie bank
  let ch := bankChannel bank
  if (d.waitLines die ch).isEmpty && d.heldLines die ch < 64 then d.enterBank bank op
  else { d with linesWait := FMap.set d.linesWait (channelKey die ch) (d.waitLines die ch ++ [⟨core, bank, op⟩]) }
/-- The oldest waiting line accepted, once a place is free. -/
def Device.acceptLine (d : Device) (die ch : Nat) : Device :=
  match d.waitLines die ch with
  | w :: t =>
    if d.heldLines die ch < 64 then { d.enterBank w.bank w.op with linesWait := FMap.put d.linesWait (channelKey die ch) t [] } else d
  | [] => d
/-- No line write to a bank is ahead: accepted and not yet written, or waiting to be accepted. -/
def Device.bankFree (d : Device) (i : Nat) : Bool :=
  (d.bankOps i).isEmpty && (d.waitLines (bankDie i) (bankChannel i)).all fun w => w.bank != i

/-- The slot of a deep row. -/
def Bank.slotOf (b : Bank) (row : Nat) : Option Nat := (b.slots.find? fun p => p.2.row == row).map (·.1)
/-- The lowest free slot. -/
def Bank.freeSlot (b : Bank) : Option Nat := (List.range Config.slotsPerBank).find? fun k => (FMap.find b.slots k).isNone
/-- The unpinned occupied slot of least age. -/
def oldest : List (Nat × Promo) → Option (Nat × Promo)
  | [] => none
  | p :: t =>
    match oldest t with
    | some q => if p.2.pinned then some q else if p.2.age ≤ q.2.age then some p else some q
    | none => if p.2.pinned then none else some p

/-- Promotion of a deep row: status, slot and bank after it (R156, R197, R201). -/
def Bank.promote (b : Bank) (row part : Nat) : Nat × Nat × Bank :=
  let take (k : Nat) : Nat × Nat × Bank := (0, k, ⟨FMap.set b.slots k ⟨row, b.counter, false, part⟩, b.counter + 1⟩)
  match b.slotOf row with
  | some k => (1, k, b)
  | none =>
    match b.freeSlot with
    | some k => take k
    | none =>
      match oldest b.slots with
      | some p => take p.1
      | none => (2, 0, b)

def Bank.pin (b : Bank) (k : Nat) (on : Bool) (part : Nat) : Bank :=
  match FMap.find b.slots k with
  | some p =>
    if on then (if p.pinned then b else { b with slots := FMap.set b.slots k { p with pinned := true, part := part } })
    else if p.part = part then { b with slots := FMap.set b.slots k { p with pinned := false } } else b
  | none => b

/-- A status word: status in [31:30], slot in [8:0]. -/
def statusWord (status slot : Nat) : Word := BitVec.ofNat 32 (status * 2 ^ 30 + slot)

/-! ## Line forms (R200) -/

def lineAddr (a : PairReg) (off : Word) : Exec DWord := do
  let b ← readPair a
  let pa := b + sextI off
  aligned pa.toNat 64 pa
  pure pa

/-- An operation waits for those that reached its bank before it (R198). -/
def bankReady (i : Nat) : Exec Unit := do
  let s ← get
  blockUnless (s.dev.bankFree i)

def dldForm (f : DlineOp) : Exec Unit := do
  let pa ← lineAddr f.a f.off
  let r ← needRow pa
  bankReady r.bank
  let s ← get
  match s.dev.homeBad pa.toNat 64 with
  | some a => trapN .poison a
  | none => writeLoad (.line f.n) false (readLE s.dev.mem pa.toNat 64)

/-- The line goes to its controller, where it is accepted or waits; the stream goes on (R200). (DEDUCED, log entry 80.) -/
def dstForm (f : DlineOp) : Exec Unit := do
  let pa ← lineAddr f.a f.off
  let r ← needRow pa
  let v ← readGs (16 * f.n.val) 16
  let s ← get
  modDev fun d => d.offerLine s.me r.bank ⟨pa.toNat, BitVec.ofNat 512 v, 0⟩

/-! ## `dpush` (R156, R205) -/

/-- The lines of a span. -/
def spanLines (pa n : Nat) : List Nat := (List.range (n / 64)).map fun k => pa + 64 * k

/-- The granules of a push, with their poison (R339). -/
def Device.pushGrans (d : Device) (src pa off n : Nat) (tag : BitVec 4) : List PushGran :=
  (List.range (n / 16)).map fun k =>
    ⟨src, off + 16 * k, BitVec.ofNat 128 (readLE d.mem (pa + 16 * k) 16), tag, (d.homeBad (pa + 16 * k) 16).isSome⟩

/-- `dpush` (R156): its granules go behind all that are on their way to the destination, those of other moraine cores too, whose order
R156 leaves open (DESIGN CHOICE, log entry 109). -/
def dpushForm (f : DpushOp) : Exec Unit := do
  let a ← readPair f.a
  let b ← readSrc f.b
  let c ← readSrc f.c
  let n := f.len.toNat
  require (a.toNat % 64 = 0) (trapN .align (bits a 31 0))
  require (c.toNat % 64 = 0) (trapW .align c)
  require (n % 64 = 0 && 64 ≤ n && n ≤ 65536) (trapW .align f.len)
  require (c.toNat + n ≤ Config.spBytes) (trapW .bound c)
  let s ← get
  require (isMarkhor b.toNat && dieOf b.toNat == dieOf s.me) (trapW .nopath b)
  let lines := spanLines a.toNat n
  match lines.find? fun x => (ownRow s.me x).isNone with
  | some x => trapN .nopath x
  | none => do
    blockUnless (lines.all fun x => match rowAt x with
      | some r => s.dev.bankFree r.bank
      | none => true)
    modDev fun d => d.modCore b.toNat fun k => { k with portq := k.portq ++ d.pushGrans s.me a.toNat c.toNat n f.tag }

/-! ## Promotion forms (R156, R201 to R204) -/

/-- The deep or fixed row of Pair(A). -/
def formRow (f : DrowOp) : Exec RowAt := do
  let a ← readPair f.a
  needRow a

def State.part (s : State) : Nat := s.dev.partOfCore s.me

/-- `dpro` (R156); with status 11 the slot field is 0 (DESIGN CHOICE, log entry 110). -/
def dproForm (f : DrowOp) : Exec Unit := do
  let r ← formRow f
  if r.fixed then writeDst f.d (statusWord 3 0)
  else do
    bankReady r.bank
    let s ← get
    let (st, k, b) := (s.dev.bank r.bank).promote r.row s.part
    modDev fun d => d.setBank r.bank b
    writeDst f.d (statusWord st k)

def ddemForm (f : DrowOp) : Exec Unit := do
  let r ← formRow f
  if r.fixed then writeDst f.d (statusWord 3 0)
  else do
    bankReady r.bank
    let s ← get
    let b := s.dev.bank r.bank
    match b.slotOf r.row with
    | none => writeDst f.d (statusWord 1 0)
    | some k =>
      if (FMap.find b.slots k).any (·.pinned) then writeDst f.d (statusWord 2 0)
      else do
        modDev fun d => d.setBank r.bank { b with slots := FMap.erase b.slots k }
        writeDst f.d (statusWord 0 0)

/-- DEDUCED, log entry 50. With status 10 or 11 the slot field is 0. (DESIGN CHOICE, log entry 110.) -/
def dpinForm (f : DrowOp) : Exec Unit := do
  let r ← formRow f
  if r.fixed then writeDst f.d (statusWord 3 0)
  else do
    bankReady r.bank
    let s ← get
    let (st, k, b) := (s.dev.bank r.bank).promote r.row s.part
    if st = 2 then writeDst f.d (statusWord 2 0)
    else do
      modDev fun d => d.setBank r.bank (b.pin k true s.part)
      writeDst f.d (statusWord 0 k)

/-- DEDUCED, log entry 50. With status 01 or 11 the slot field is 0. (DESIGN CHOICE, log entry 110.) -/
def dpinClrForm (f : DrowOp) : Exec Unit := do
  needPriv
  let r ← formRow f
  if r.fixed then writeDst f.d (statusWord 3 0)
  else do
    let s ← get
    let b := s.dev.bank r.bank
    match b.slotOf r.row with
    | none => writeDst f.d (statusWord 1 0)
    | some k => do
      modDev fun d => d.setBank r.bank (b.pin k false s.part)
      writeDst f.d (statusWord 0 k)

/-- The fields of `dstat` (R204). -/
def statWord (b : Bank) (r : RowAt) : Word :=
  if r.fixed then statusWord 3 (r.bank % 48 * 1024)
  else match b.slotOf r.row with
    | none => statusWord 0 (r.bank % 48 * 1024)
    | some k => statusWord 1 (((FMap.find b.slots k).any (·.pinned)).toNat * 2 ^ 29 + r.bank % 48 * 1024 + k)

/-- DEDUCED, log entry 50. -/
def dstatForm (f : DrowOp) : Exec Unit := do
  let r ← formRow f
  let s ← get
  writeDst f.d (statWord (s.dev.bank r.bank) r)

/-! ## Meanings -/

def execDldL (f : DlineOp) (s : State) : Result := run (do precheck (.dldL f); dldForm f) s
def execDstL (f : DlineOp) (s : State) : Result := run (do precheck (.dstL f); dstForm f) s
def execDpush (f : DpushOp) (s : State) : Result := run (do precheck (.dpush f); dpushForm f) s
def execDpro (f : DrowOp) (s : State) : Result := run (do precheck (.dpro f); dproForm f) s
def execDdem (f : DrowOp) (s : State) : Result := run (do precheck (.ddem f); ddemForm f) s
def execDpin (f : DrowOp) (s : State) : Result := run (do precheck (.dpin f); dpinForm f) s
def execDpinClr (f : DrowOp) (s : State) : Result := run (do precheck (.dpinClr f); dpinClrForm f) s
def execDstat (f : DrowOp) (s : State) : Result := run (do precheck (.dstat f); dstatForm f) s

/-! ## Events -/

/-- A bank performs the oldest accepted line write; its controller then accepts a line that waits. -/
def Device.bankStep (d : Device) (i : Nat) : Device :=
  match d.bankOps i with
  | op :: t =>
    Device.acceptLine { (d.poke op.pa (leBytes 64 op.data.toNat) false).taint op.pa op.poison with bankq := FMap.put d.bankq i t [] }
      (bankDie i) (bankChannel i)
  | [] => d

def execBankOperation (bank : Nat) (s : State) : Result := happen (fun d => d.bankStep bank) s

/-- A pushed granule arrives at its destination's port, and at that of its twin in the same cycle (R346): the tag of its KiB, its
bytes and its full bit in one action. The tag is set with every granule, not with the KiB's first alone. (DESIGN CHOICE, log entry 102.) -/
def Device.pushArrives (d : Device) (id : Nat) : Device :=
  match (d.core id).portq with
  | g :: t =>
    (d.receivers id).foldl (fun d j => d.modCore j fun c => c.spStore j g.off (leBytes 16 g.data.toNat) true (some g.tag) g.poison)
      (d.modCore id fun c => { c with portq := t })
  | [] => d

def execDpushGranuleArrival (core : Nat) (s : State) : Result := happen (fun d => d.pushArrives core) s

end Sys2Proof.Machine
end

