-- ==== Sys2Proof/Machine/Special.lean ====
section
/-!
DEFINITION. The correctly rounded special functions of R137: 2^a, log2 a and tanh a by interval arithmetic on
fixed-point integers, at rising precision until both ends of the interval round alike. 1/a and 1/√a are exact
quotients (Float.lean).
-/

namespace Sys2Proof.Machine

/-! ## Fixed point: an integer n stands for n · 2^−p. Each function bounds its value from below and above. -/

/-- Σ t^k/k! for t in [0, 1), `n` terms; `term` is the current one. Rounded down. -/
def expLoFrom : Nat → Nat → Nat → Nat → Nat → Nat
  | 0, _, _, _, _ => 0
  | n + 1, p, t, k, term => term + expLoFrom n p t (k + 1) (term * t / 2 ^ p / (k + 1))

/-- The same rounded up; the last term counts twice, for the terms left out. -/
def expHiFrom : Nat → Nat → Nat → Nat → Nat → Nat
  | 0, _, _, _, term => 2 * term + 2
  | n + 1, p, t, k, term => term + expHiFrom n p t (k + 1) ((term * t / 2 ^ p + 1) / (k + 1) + 1)

def expLo (p t : Nat) : Nat := expLoFrom (p / 3) p t 0 (2 ^ p)
def expHi (p t : Nat) : Nat := expHiFrom (p / 3) p t 0 (2 ^ p)

/-- Σ z^(2k+1)/(2k+1) for z in [0, 1/2], rounded down; `pw` is the current power. -/
def atanhLoFrom : Nat → Nat → Nat → Nat → Nat → Nat
  | 0, _, _, _, _ => 0
  | n + 1, p, z2, k, pw => pw / (2 * k + 1) + atanhLoFrom n p z2 (k + 1) (pw * z2 / 2 ^ p)

def atanhHiFrom : Nat → Nat → Nat → Nat → Nat → Nat
  | 0, _, _, _, pw => 2 * pw + 2
  | n + 1, p, z2, k, pw => pw / (2 * k + 1) + 1 + atanhHiFrom n p z2 (k + 1) (pw * z2 / 2 ^ p + 1)

def atanhLo (p z : Nat) : Nat := atanhLoFrom (p / 2) p (z * z / 2 ^ p) 0 z
def atanhHi (p z : Nat) : Nat := atanhHiFrom (p / 2) p (z * z / 2 ^ p + 1) 0 z

/-- ln 2 = 2 atanh (1/3). -/
def ln2Lo (p : Nat) : Nat := 2 * atanhLo p (2 ^ p / 3)
def ln2Hi (p : Nat) : Nat := 2 * atanhHi p (2 ^ p / 3 + 1)

/-- floor (m · 2^e · 2^p). -/
def fixFloor (p : Nat) (m : Nat) (e : Int) : Nat :=
  if 0 ≤ e + p then m * 2 ^ (e + p).toNat else if bitLen m < (-(e + p)).toNat then 0 else m / 2 ^ (-(e + p)).toNat

/-- An enclosure (lo, hi, e): the value lies strictly between lo · 2^e and hi · 2^e. -/
abbrev Encl := Nat × Nat × Int

/-- Both ends rounded, if they agree. (DESIGN CHOICE, log entry 13.) -/
def Encl.decide (f : FFmt) (rm : Rm) (neg : Bool) (b : Encl) : Option FRes :=
  let lo := roundFin f rm neg (2 * b.1 + 1) (b.2.2 - 1)
  let hi := roundFin f rm neg (2 * b.2.1 - 1) (b.2.2 - 1)
  if lo = hi then some lo else none

/-- The first precision that decides; the last one's lower end if none does. (DESIGN CHOICE, log entry 13.) -/
def refine (f : FFmt) (rm : Rm) (neg : Bool) (encl : Nat → Encl) : List Nat → FRes
  | [] => roundFin f rm neg (2 * (encl 640).1 + 1) ((encl 640).2.2 - 1)
  | p :: ps => ((encl p).decide f rm neg).getD (refine f rm neg encl ps)

/-- DESIGN CHOICE, log entry 13. -/
def precisions : List Nat := [160, 320, 640]

/-- 2^x of a finite x that is no integer. -/
def exp2Encl (neg : Bool) (m : Nat) (e : Int) (p : Nat) : Encl :=
  let fl := fixFloor p m e
  let whole : Int := (fl / 2 ^ p : Nat)
  let frac := fl % 2 ^ p
  let n : Int := if neg then -whole - 1 else whole
  let fLo := if neg then 2 ^ p - frac - 1 else frac
  let fHi := if neg then 2 ^ p - frac else frac + 1
  (expLo p (fLo * ln2Lo p / 2 ^ p), expHi p (fHi * ln2Hi p / 2 ^ p + 1), n - p)

/-- Whether m · 2^e is an integer. -/
def isInteger (m : Nat) (e : Int) : Bool := 0 ≤ e || (bitLen m > (-e).toNat && m % 2 ^ (-e).toNat == 0) || m == 0

def exp2Res (f : FFmt) (rm : Rm) : FVal → FRes
  | .nan s => (f.nan, nvIf s)
  | .inf n => if n then (f.zero false, 0) else (f.inf false, 0)
  | .fin n m e =>
    if m = 0 then roundFin f rm false 1 0
    else if 16 ≤ e + bitLen m then roundFin f rm false 1 (if n then -70000 else 70000)
    else if isInteger m e then
      let k : Int := (if 0 ≤ e then m * 2 ^ e.toNat else m / 2 ^ (-e).toNat : Nat)
      roundFin f rm false 1 (if n then -k else k)
    else refine f rm false (exp2Encl n m e) precisions

/-- |log2 y| of y = m · 2^e, with k = the nearest whole part: (k, y ≥ 1, z = |y − 1|/(y + 1) as a fraction). -/
structure LogParts where
  k : Int
  above : Bool
  num : Nat
  den : Nat

def logParts (m : Nat) (e : Int) : LogParts :=
  let l := bitLen m - 1
  let one := 2 ^ l
  let big : Bool := 3 * one ≤ 2 * m
  let unit := if big then 2 * one else one
  ⟨e + l + big.toNat, unit ≤ m, if unit ≤ m then m - unit else unit - m, m + unit⟩

/-- log2 x as an integer interval at 2^−p. -/
def log2Ends (m : Nat) (e : Int) (p : Nat) : Int × Int :=
  let b := logParts m e
  let z := b.num * 2 ^ p / b.den
  let lo := 2 * atanhLo p z * 2 ^ p / ln2Hi p
  let hi := 2 * atanhHi p (z + 1) * 2 ^ p / ln2Lo p + 1
  let base : Int := b.k * 2 ^ p
  if b.above then (base + lo, base + hi) else (base - hi, base - lo)

def log2Neg (m : Nat) (e : Int) : Bool := e + bitLen m - 1 < 0

def log2Encl (m : Nat) (e : Int) (p : Nat) : Encl :=
  let (lo, hi) := log2Ends m e p
  if log2Neg m e then ((-hi).toNat, (-lo).toNat, -(p : Int)) else (lo.toNat, hi.toNat, -(p : Int))

def log2Res (f : FFmt) (rm : Rm) : FVal → FRes
  | .nan s => (f.nan, nvIf s)
  | .inf n => if n then (f.nan, flagNV) else (f.inf false, 0)
  | .fin n m e =>
    if m = 0 then (f.inf true, flagDZ)
    else if n then (f.nan, flagNV)
    else if m = 2 ^ (bitLen m - 1) then intToFloat f rm (e + bitLen m - 1) 0
    else refine f rm (log2Neg m e) (log2Encl m e) precisions

/-- tanh of m · 2^e > 0: x − x³/3 < tanh x < x for small x, else (1 − E)/(1 + E) with E = exp(−2x), which is
below 1. -/
def tanhEncl (m : Nat) (e : Int) (p : Nat) : Encl :=
  if e + bitLen m ≤ -20 then
    -- at a scale 4 · 64 bits below x: x³/3 is at most x · 2^−40
    let s := 2 ^ 256
    let cube := m * m * m
    let sh := -(2 * e) - 256
    let c3 := if 0 ≤ sh then cube / 2 ^ (min sh.toNat 4096) / 3 + 1 else cube * 2 ^ (-sh).toNat / 3 + 1
    (m * s - c3, m * s, e - 256)
  else
    let y := 2 * fixFloor p m e
    let n := y / ln2Hi p
    let (eLo, eHi) :=
      if 4 * p ≤ n then (0, 1)
      else
        let rLo := y - n * ln2Hi p
        let rHi := y + 2 - n * ln2Lo p
        (2 ^ (2 * p) / expHi p rHi / 2 ^ n, 2 ^ (2 * p) / expLo p rLo / 2 ^ n + 1)
    let one := 2 ^ p
    ((one - eHi) * 2 ^ p / (one + eHi), min ((one - eLo) * 2 ^ p / (one + eLo) + 1) one, -(p : Int))

def tanhRes (f : FFmt) (rm : Rm) : FVal → FRes
  | .nan s => (f.nan, nvIf s)
  | .inf n => roundFin f rm n 1 0
  | .fin n m e =>
    if m = 0 then (f.zero n, 0)
    else refine f rm n (tanhEncl m (if 16 ≤ e then 16 else e)) precisions

end Sys2Proof.Machine
end

