-- ==== Sys2Proof/Machine/Draw.lean ====
section
/-!
DEFINITION. Random draws: GenOut (R147), `Draw` with its tape mode (R54, R152), and the generators of a core (R146, R150).
-/

namespace Sys2Proof.Machine

/-- One round of GenOut on (a, b). -/
def genRound (kw : Word) (sh : Nat) (p : Word × Word) : Word × Word :=
  let a := p.1 + p.2 + kw + 0x9E3779B9
  (a, p.2.rotateLeft sh ^^^ a)

/-- GenOut (R147). -/
def genOut (key ctr : DWord) : Word :=
  let lo := key.extractLsb' 0 32
  let hi := key.extractLsb' 32 32
  let p := (ctr.extractLsb' 0 32, ctr.extractLsb' 32 32)
  (genRound hi 17 (genRound lo 11 (genRound hi 5 (genRound lo 19 (genRound hi 13 (genRound lo 7 p)))))).2

/-- A generator after one draw: counter and index move on. -/
def Gen.next (g : Gen) : Gen := { g with ctr := g.ctr + 1, idx := g.idx + 1 }

/-- The tape region of a core. -/
def Core.tapeArea (c : Core) : Option Area := (c.areas.find? fun p => p.2.tape).map (·.2)

/-- Whether the tape holds the word of a draw index. -/
def Core.tapeHolds (c : Core) (idx : Word) : Bool :=
  match c.tapeArea with
  | some a => 4 * idx.toNat + 4 ≤ a.len
  | none => false

/-- In tape mode, the tape has no word for a generator's draw index. -/
def Core.tapeEnds (c : Core) (g : Gen) : Bool := c.cr.rngmode && !c.tapeHolds g.idx

/-- The value that a generator gives: the tape's word in tape mode, else GenOut. -/
def Core.drawn (c : Core) (g : Gen) : Word :=
  if c.cr.rngmode then
    match c.tapeArea with
    | some a => BitVec.ofNat 32 (c.spNat (a.base + 4 * g.idx.toNat) 4)
    | none => 0
  else genOut g.key g.ctr

/-- BOUND with the draw index where the tape has no word for it; nothing is consumed. -/
def needTape (g : Gen) : Exec Unit := do
  let s ← get
  if s.baseCore.tapeEnds g then trapW .bound g.idx else pure ()

/-- A draw of the issuing stream's generator; mode, tape and generator are those before the group (R28). -/
def drawStream : Exec Word := do
  let s ← get
  let g := s.baseCore.gen s.hind
  needTape g
  modCore fun c => c.setGen s.hind g.next
  pure (s.baseCore.drawn g)

/-- The core whose lane generators a draw reads: as before the group (R28), or, where lane 0 has drawn, as its draws have left
them, which come first (R151). -/
def State.laneCore (s : State) : Core := if s.issue.drew then s.core else s.baseCore

/-- A lane's generator after a draw of `g`: the counter and the index are the draw's; a key that lane 0 has written stays. That
the counter is the draw's where lane 0 has written it too is the model's choice. (DESIGN CHOICE, log entry 91.) -/
def Core.drawLane (c : Core) (id i : Nat) (g : Gen) : Core := c.setLane i { c.lane id i with ctr := g.ctr + 1, idx := g.idx + 1 }

/-- The draws of the active lanes in ascending order, each from its own generator; every index is checked first. An
inactive lane draws nothing. -/
def drawLanes (active : List Bool) : Exec (List Word) := do
  let s ← get
  let gen (i : Nat) : Gen := s.laneCore.lane s.me i
  let lanes := (List.range active.length).filter fun i => active.getD i false
  lanes.forM fun i => needTape (gen i)
  modify fun t => { t.modCore fun c => lanes.foldl (fun c i => c.drawLane s.me i (gen i)) c with issue := { t.issue with drew := true } }
  pure ((List.range active.length).map fun i => if active.getD i false then s.baseCore.drawn (gen i) else 0)

end Sys2Proof.Machine
end

