-- ==== Sys2Proof/Machine/Vector.lean ====
section
/-!
DEFINITION. Class 5 and what class 6 shares with it: element views of a row (R122, R123), predicates, sources and
destinations (R124 to R126, R131, R133, R134), element-wise forms (R132), and the scratchpad forms (R142 to R144).
-/

namespace Sys2Proof.Machine

/-! ## Elements of a row (R122, R123) -/

/-- Container width and element count under `k.acct`. -/
def contW (acct : Bool) : Nat := if acct then 16 else 32
def contN (acct : Bool) : Nat := if acct then 256 else 128

/-- The `n` low fields of width `w` of a number. -/
def unpackN (w : Nat) : Nat → Nat → List Nat
  | 0, _ => []
  | n + 1, v => v % 2 ^ w :: unpackN w n (v / 2 ^ w)

/-- Fields of width `w` as one number. -/
def packN (w : Nat) : List Nat → Nat
  | [] => 0
  | v :: t => v % 2 ^ w + 2 ^ w * packN w t

/-- The containers of a row. -/
def containers (acct : Bool) (r : Row) : List Nat := unpackN (contW acct) (contN acct) r.toNat
def rowOf (acct : Bool) (l : List Nat) : Row := BitVec.ofNat 4096 (packN (contW acct) l)

/-- A value held in its container: integers with their sign above, floats with zeros. -/
def heldIn (acct : Bool) (ty : VTy) (v : Nat) : Nat :=
  if ty.isInt then patternOf (contW acct) (signedOf ty.width v) else v % 2 ^ ty.width

/-- Whether a type is allowed under `k.acct`. -/
def typeFits (acct : Bool) (ty : VTy) : Bool := !acct || (ty != .i32 && ty != .f32)

def acctOf : Exec Bool := do
  let s ← get
  pure s.baseCore.cr.acct

/-- ILLOP for a type that does not fit. -/
def needType (acct : Bool) (ty : VTy) : Exec Unit := if typeFits acct ty then pure () else trapSlot .illop

/-- A form that runs only with `k.acct` = 0. -/
def needWide (acct : Bool) : Exec Unit := if acct then trapSlot .illop else pure ()

/-! ## The interlock with the MXU (R126) -/

/-- Whether a queued or executing command names an accumulator. -/
def Mxu.namesAcc (m : Mxu) (n : Nat) : Bool := m.cmds.any fun c => c.minor != 2 && c.d.toNat % 2 == n

/-- Waits until no command from before the group names the accumulators of these rows (R28). -/
def rowsQuiet (rows : List Nat) : Exec Unit := do
  let s ← get
  blockUnless (rows.all fun r => !s.baseCore.mxu.namesAcc (r / 64))

/-! ## Sources, predicate, destination -/

/-- The rows that an instruction names. -/
def srcRows : VSrc → List Nat
  | .v n => [n.val]
  | _ => []
def dstRows : VDst → List Nat
  | .v n => [n.val]
  | .win _ _ => []
def predRows : Option (Fin 128) → List Nat
  | some p => [p.val]
  | none => []

/-- A source as containers: a vector's, or the scalar repeated. -/
def readVec (acct : Bool) (a : VSrc) (i : Word) : Exec (List Nat) := do
  let s ← get
  match a with
  | .v n => pure (containers acct (s.baseCore.row s.me n.val))
  | .s x => do
    let v ← readSrc x
    pure (List.replicate (contN acct) v.toNat)
  | .imm => pure (List.replicate (contN acct) i.toNat)

def readRow (acct : Bool) (n : Nat) : Exec (List Nat) := do
  let s ← get
  pure (containers acct (s.baseCore.row s.me n))

/-- The active elements. -/
def activeOf (acct : Bool) (pred : Option (Fin 128)) : Exec (List Bool) := do
  let s ← get
  match pred with
  | none => pure (List.replicate (contN acct) true)
  | some p => pure ((containers acct (s.baseCore.row s.me p.val)).map (· != 0))

/-- Whether some named row is poisoned. -/
def anyPoison (rows : List Nat) : Exec Bool := do
  let s ← get
  pure (rows.any s.baseCore.rowBad)

/-- Containers written to the active elements of a row; a whole write takes the poison of its data, one in part keeps a
set bit (R338, R339). -/
def writeRow (acct : Bool) (n : Nat) (active : List Bool) (vals : List Nat) (poison : Bool) : Exec Unit :=
  modify fun s => s.modCore fun c =>
    let old := containers acct (c.row s.issue.core n)
    let new := (old.zip (active.zip vals)).map fun p => if p.2.1 then p.2.2 else p.1
    c.setRow n (rowOf acct new) (poison || (c.rowBad n && !active.all id))

/-- A row of `w`-bit elements to a neighbour's window, granule by granule (R133, R134). (DEDUCED, log entry 22.) -/
def writeWindow (dir : Dir) (slot : Nat) (off : Word) (w : Nat) (vals : List Nat) (poison : Bool) : Exec Unit := do
  let n := vals.length * w / 8
  if off.toNat % 16 ≠ 0 then trapW .align off
  else do
    let (nb, o) ← nbSpan dir slot off.toNat n off.toNat
    let data := packN w vals
    (List.range (n / 16)).forM fun g => queueNb nb (o + 16 * g) 16 (BitVec.ofNat 128 (data / 2 ^ (128 * g))) true poison

/-- A vector instruction is under way until its completion event. -/
def noteVector : Exec Unit := modCore fun c => { c with vecBusy := c.vecBusy + 1 }

/-- Results in containers of type `ty`, to the destination. -/
def writeVec (acct : Bool) (ty : VTy) (d : VDst) (i : Word) (active : List Bool) (vals : List Nat) (poison : Bool) : Exec Unit :=
  match d with
  | .v n => writeRow acct n.val active vals poison
  | .win dir slot => writeWindow dir slot.val i ty.width vals poison

/-- Flags of the active elements. -/
def flagsOf (active : List Bool) (rs : List FRes) : Flags :=
  (active.zip rs).foldl (fun f p => if p.1 then f ||| p.2.2 else f) 0

/-! ## Element-wise forms (R131, R132) -/

/-- An operation on `w`-bit integers, by value. -/
def intOp (w : Nat) (op : Int → Int → Int) (a b : Nat) : FRes := (patternOf w (op (signedOf w a) (signedOf w b)), 0)

/-- An operation of two elements by type. -/
abbrev Op2 := VTy → Rm → Nat → Nat → FRes

/-- A member that gives an element of its type. -/
def vec2 (op : Op2) (f : V3) : Exec Unit := do
  let acct ← acctOf
  needType acct f.ty
  let rows := dstRows f.d ++ srcRows f.a ++ srcRows f.b ++ predRows f.pred
  rowsQuiet rows
  let m ← frm
  let a ← readVec acct f.a f.i
  let b ← readVec acct f.b f.i
  let active ← activeOf acct f.pred
  let bad ← anyPoison (srcRows f.a ++ srcRows f.b ++ predRows f.pred)
  let w := f.ty.width
  let rs := (a.zip b).map fun p => op f.ty m (p.1 % 2 ^ w) (p.2 % 2 ^ w)
  raise (flagsOf active rs)
  writeVec acct f.ty f.d f.i active (rs.map fun r => heldIn acct f.ty r.1) bad
  noteVector

def vec1 (op : VTy → Rm → Nat → FRes) (f : V2) : Exec Unit := do
  let acct ← acctOf
  needType acct f.ty
  rowsQuiet (dstRows f.d ++ srcRows f.a ++ predRows f.pred)
  let m ← frm
  let a ← readVec acct f.a f.i
  let active ← activeOf acct f.pred
  let bad ← anyPoison (srcRows f.a ++ predRows f.pred)
  let rs := a.map fun x => op f.ty m (x % 2 ^ f.ty.width)
  raise (flagsOf active rs)
  writeVec acct f.ty f.d f.i active (rs.map fun r => heldIn acct f.ty r.1) bad
  noteVector

/-- Integers by one operation, floats by another. -/
def byKind (i : Nat → Nat → Nat → FRes) (f : FFmt → Rm → Nat → Nat → FRes) : Op2 := fun ty m a b =>
  if ty.isInt then i ty.width a b else f ty.ffmt m a b

def floatOp (op : Rm → FVal → FVal → FExact) (f : FFmt) (m : Rm) (a b : Nat) : FRes := deliver f m (op m (unpack f a) (unpack f b))

def opAdd : Op2 := byKind (fun w => intOp w (· + ·)) (floatOp addVal)
def opSub : Op2 := byKind (fun w => intOp w (· - ·)) (floatOp fun m a b => addVal m a (negVal b))
def opMul : Op2 := byKind (fun w => intOp w (· * ·)) (floatOp fun _ a b => mulVal a b)
def opMin : Op2 := byKind (fun w => intOp w min) fun f _ a b => minMaxBits f false a b
def opMax : Op2 := byKind (fun w => intOp w max) fun f _ a b => minMaxBits f true a b
def opAdds : Op2 := fun ty _ => intOp ty.width fun a b => satInt ty.width (a + b)
def opSubs : Op2 := fun ty _ => intOp ty.width fun a b => satInt ty.width (a - b)
def opBits (op : Nat → Nat → Nat) : Op2 := fun _ _ a b => (op a b, 0)
def opShl : Op2 := fun ty _ a b => (a * 2 ^ (b % ty.width) % 2 ^ ty.width, 0)
def opShr : Op2 := fun ty _ a b => (a / 2 ^ (b % ty.width), 0)
def opSra : Op2 := fun ty _ a b => (patternOf ty.width (signedOf ty.width a / (2 : Int) ^ (b % ty.width)), 0)

/-- A compare: the integer 1 or 0 in the container, whatever the type. -/
def vecCmp (ints : Int → Int → Bool) (floats : FFmt → Nat → Nat → Bool × Flags) (f : V3) : Exec Unit := do
  let acct ← acctOf
  needType acct f.ty
  rowsQuiet (dstRows f.d ++ srcRows f.a ++ srcRows f.b ++ predRows f.pred)
  let a ← readVec acct f.a f.i
  let b ← readVec acct f.b f.i
  let active ← activeOf acct f.pred
  let bad ← anyPoison (srcRows f.a ++ srcRows f.b ++ predRows f.pred)
  let w := f.ty.width
  let rs : List FRes := (a.zip b).map fun p =>
    if f.ty.isInt then ((ints (signedOf w p.1) (signedOf w p.2)).toNat, 0)
    else ((floats f.ty.ffmt (p.1 % 2 ^ w) (p.2 % 2 ^ w)).1.toNat, (floats f.ty.ffmt (p.1 % 2 ^ w) (p.2 % 2 ^ w)).2)
  raise (flagsOf active rs)
  writeVec acct f.ty f.d f.i active (rs.map (·.1)) bad
  noteVector

/-- `vcne` on floats: a NaN operand gives 1. -/
def fneBits (f : FFmt) (a b : Nat) : Bool × Flags := (!(feqBits f a b).1, (feqBits f a b).2)

/-- `vfma`: the old element of D is read, with one rounding on floats. -/
def vfmaForm (f : VFma) : Exec Unit := do
  let acct ← acctOf
  needType acct f.ty
  rowsQuiet ([f.d.val] ++ srcRows f.a ++ srcRows f.b ++ predRows f.pred)
  let m ← frm
  let a ← readVec acct f.a f.i
  let b ← readVec acct f.b f.i
  let d ← readRow acct f.d.val
  let active ← activeOf acct f.pred
  let bad ← anyPoison ([f.d.val] ++ srcRows f.a ++ srcRows f.b ++ predRows f.pred)
  let w := f.ty.width
  let fmt := f.ty.ffmt
  let rs : List FRes := (d.zip (a.zip b)).map fun p =>
    if f.ty.isInt then (patternOf w (signedOf w p.1 + signedOf w p.2.1 * signedOf w p.2.2), 0)
    else deliver fmt m (fmaVal m (unpack fmt (p.1 % 2 ^ w)) (unpack fmt (p.2.1 % 2 ^ w)) (unpack fmt (p.2.2 % 2 ^ w)))
  raise (flagsOf active rs)
  writeRow acct f.d.val active (rs.map fun r => heldIn acct f.ty r.1) bad
  noteVector

/-- An element chosen by `vsel`: a NaN becomes the canonical NaN of a float type, with NV for a signalling one (R101,
R131). (DEDUCED, log entry 93.) -/
def chosen (ty : VTy) (x : Nat) : FRes :=
  if ty.isInt then (x, 0)
  else match unpack ty.ffmt x with
    | .nan sig => (ty.ffmt.nan, if sig then flagNV else 0)
    | _ => (x, 0)

def vselForm (f : VSelOp) : Exec Unit := do
  let acct ← acctOf
  needType acct f.ty
  rowsQuiet (dstRows f.d ++ srcRows f.a ++ srcRows f.b ++ [f.c.val] ++ predRows f.pred)
  let a ← readVec acct f.a f.i
  let b ← readVec acct f.b f.i
  let c ← readRow acct f.c.val
  let active ← activeOf acct f.pred
  let bad ← anyPoison (srcRows f.a ++ srcRows f.b ++ [f.c.val] ++ predRows f.pred)
  let rs := (c.zip (a.zip b)).map fun p => chosen f.ty ((if p.1 ≠ 0 then p.2.1 else p.2.2) % 2 ^ f.ty.width)
  raise (flagsOf active rs)
  writeVec acct f.ty f.d f.i active (rs.map fun r => heldIn acct f.ty r.1) bad
  noteVector

/-- `vmov`: a vector source's containers as they are. -/
def vmovForm (f : V2) : Exec Unit := do
  let acct ← acctOf
  needType acct f.ty
  rowsQuiet (dstRows f.d ++ srcRows f.a ++ predRows f.pred)
  let a ← readVec acct f.a f.i
  let active ← activeOf acct f.pred
  let bad ← anyPoison (srcRows f.a ++ predRows f.pred)
  let vals := match f.a with
    | .v _ => a
    | _ => a.map (heldIn acct f.ty)
  writeVec acct f.ty f.d f.i active vals bad
  noteVector

/-! ## Scratchpad forms (R142 to R144) -/

def vBase (a : Src) (off : Word) : Exec Nat := do
  let b ← readSrc a
  pure (b + off).toNat

/-- The runs of consecutive bytes to write, with their offsets. -/
def runsOf : Nat → List (Option Byte) → Option (Nat × List Byte) → List (Nat × List Byte)
  | _, [], none => []
  | _, [], some r => [(r.1, r.2.reverse)]
  | o, none :: t, none => runsOf (o + 1) t none
  | o, none :: t, some r => (r.1, r.2.reverse) :: runsOf (o + 1) t none
  | o, some b :: t, none => runsOf (o + 1) t (some (o, [b]))
  | o, some b :: t, some r => runsOf (o + 1) t (some (r.1, b :: r.2))

/-- The bytes of active elements, none for the others. -/
def elementBytes (w : Nat) (active : List Bool) (vals : List Nat) : List (Option Byte) :=
  ((active.zip vals).map fun p => (leBytes (w / 8) p.2).map fun b => if p.1 then some b else none).flatten

/-- Whether a span holds a poisoned granule, before the group (R28). -/
def spTouchesPoison (off n : Nat) : Exec Bool := do
  let s ← get
  pure (s.baseCore.ownBad off n).isSome

/-- DEDUCED, log entry 70. -/
def vldForm (f : VLdOp) : Exec Unit := do
  let acct ← acctOf
  needType acct f.ty
  rowsQuiet ([f.d.val] ++ predRows f.pred)
  let o ← vBase f.a f.off
  if o % 16 = 0 then pure () else trapN .align o
  let n := contN acct * f.ty.width / 8
  spBound o n
  let active ← activeOf acct f.pred
  let badP ← anyPoison (predRows f.pred)
  let badS ← spTouchesPoison o n
  spDisc o n
  let s ← get
  let vals := (unpackN f.ty.width (contN acct) (s.core.spNat o n)).map (heldIn acct f.ty)
  writeRow acct f.d.val active vals (badP || badS)
  noteVector

def vstForm (f : VStOp) : Exec Unit := do
  let acct ← acctOf
  needType acct f.ty
  rowsQuiet ([f.b.val] ++ predRows f.pred)
  let o ← vBase f.a f.off
  let n := contN acct * f.ty.width / 8
  if o % 16 = 0 then pure () else trapN .align o
  spBound o n
  let v ← readRow acct f.b.val
  let active ← activeOf acct f.pred
  let bad ← anyPoison ([f.b.val] ++ predRows f.pred)
  let s ← get
  let journaled := s.core.journals o n
  (runsOf o (elementBytes f.ty.width active v) none).forM fun r => spWriteIn journaled r.1 r.2 false bad
  noteVector

/-- The addresses of `vgath` and `vscat`; ALIGN, and BOUND with the lowest active address past the end. -/
def vAddrs (o w : Nat) (idx : List Nat) (active : List Bool) : Exec (List Nat) := do
  let s ← get
  let k := w / 8
  if o % k ≠ 0 then trapN .align o
  else
    let addrs := idx.map fun i => o + i * k
    let past : List Nat := ((addrs.zip active).filter fun p => p.2 && spSize s.me < p.1 + k).map (·.1)
    match past.min? with
    | some a => trapN .bound a
    | none => pure addrs

/-- DEDUCED, log entry 70. -/
def vgathForm (f : VGathOp) : Exec Unit := do
  let acct ← acctOf
  needType acct f.ty
  rowsQuiet ([f.d.val, f.b.val] ++ predRows f.pred)
  let o ← vBase f.a f.off
  let idx ← readRow acct f.b.val
  let active ← activeOf acct f.pred
  let addrs ← vAddrs o f.ty.width idx active
  let k := f.ty.width / 8
  let badR ← anyPoison ([f.b.val] ++ predRows f.pred)
  let s ← get
  let live := ((addrs.zip active).filter (·.2)).map (·.1)
  live.forM fun a => spDisc a k
  let vals := (addrs.zip active).map fun p => if p.2 then heldIn acct f.ty (s.core.spNat p.1 k) else 0
  writeRow acct f.d.val active vals (badR || live.any fun a => (s.core.ownBad a k).isSome)
  noteVector

def vscatForm (f : VScatOp) : Exec Unit := do
  let acct ← acctOf
  needType acct f.ty
  rowsQuiet ([f.b.val, f.c.val] ++ predRows f.pred)
  let o ← vBase f.a f.off
  let idx ← readRow acct f.c.val
  let active ← activeOf acct f.pred
  let addrs ← vAddrs o f.ty.width idx active
  let v ← readRow acct f.b.val
  let bad ← anyPoison ([f.b.val, f.c.val] ++ predRows f.pred)
  let s ← get
  let live := (addrs.zip (active.zip v)).filter (·.2.1)
  let journaled := live.any fun p => s.core.journals p.1 (f.ty.width / 8)
  live.forM fun p => spWriteIn journaled p.1 (leBytes (f.ty.width / 8) p.2.2) false bad
  noteVector

/-! ## Meanings -/

def execVadd (f : V3) (s : State) : Result := run (vec2 opAdd f) s
def execVsub (f : V3) (s : State) : Result := run (vec2 opSub f) s
def execVmul (f : V3) (s : State) : Result := run (vec2 opMul f) s
def execVfma (f : VFma) (s : State) : Result := run (vfmaForm f) s
def execVmin (f : V3) (s : State) : Result := run (vec2 opMin f) s
def execVmax (f : V3) (s : State) : Result := run (vec2 opMax f) s

/-- |a| modulo 2^w, so that the minimum maps to itself. -/
def execVabs (f : V2) (s : State) : Result :=
  run (vec1 (fun ty _ a =>
    (if ty.isInt then patternOf ty.width (signedOf ty.width a).natAbs else absBits ty.ffmt a, 0)) f) s
def execVneg (f : V2) (s : State) : Result :=
  run (vec1 (fun ty _ a => (if ty.isInt then patternOf ty.width (-signedOf ty.width a) else negBits ty.ffmt a, 0)) f) s
def execVadds (f : V3) (s : State) : Result := run (vec2 opAdds f) s
def execVsubs (f : V3) (s : State) : Result := run (vec2 opSubs f) s
def execVand (f : V3) (s : State) : Result := run (vec2 (opBits Nat.land) f) s
def execVor (f : V3) (s : State) : Result := run (vec2 (opBits Nat.lor) f) s
def execVxor (f : V3) (s : State) : Result := run (vec2 (opBits Nat.xor) f) s
def execVshl (f : V3) (s : State) : Result := run (vec2 opShl f) s
def execVshr (f : V3) (s : State) : Result := run (vec2 opShr f) s
def execVsra (f : V3) (s : State) : Result := run (vec2 opSra f) s
def execVceq (f : V3) (s : State) : Result := run (vecCmp (fun a b => a == b) feqBits f) s
def execVcne (f : V3) (s : State) : Result := run (vecCmp (fun a b => a != b) fneBits f) s
def execVclt (f : V3) (s : State) : Result := run (vecCmp (fun a b => a < b) fltBits f) s
def execVcle (f : V3) (s : State) : Result := run (vecCmp (fun a b => a ≤ b) fleBits f) s
def execVsel (f : VSelOp) (s : State) : Result := run (vselForm f) s
def execVmov (f : V2) (s : State) : Result := run (vmovForm f) s
def execVld (f : VLdOp) (s : State) : Result := run (vldForm f) s
def execVst (f : VStOp) (s : State) : Result := run (vstForm f) s
def execVgath (f : VGathOp) (s : State) : Result := run (vgathForm f) s
def execVscat (f : VScatOp) (s : State) : Result := run (vscatForm f) s

end Sys2Proof.Machine
end

