-- ==== Sys2Proof/Machine/VecSpecial.lean ====
section
/-!
DEFINITION. Class 6: conversions, special functions, reductions, masks, draws and generators (R116, R135 to R141, R145,
R149, R150).
-/

namespace Sys2Proof.Machine

/-! ## Conversions (R107 to R109, R135, R136) -/

/-- One element from type S to type T. -/
def convertElem (m : Rm) (src dst : VTy) (x : Nat) : FRes :=
  let x := x % 2 ^ src.width
  let w := dst.width
  if src.isInt then
    if dst.isInt then (patternOf w (satInt w (signedOf src.width x)), 0)
    else intToFloat dst.ffmt m (signedOf src.width x) 0
  else if dst.isInt then
    let r := toInt m (-(2 : Int) ^ (w - 1)) ((2 : Int) ^ (w - 1) - 1) (unpack src.ffmt x)
    (patternOf w r.1, r.2)
  else if src = dst then
    if (unpack src.ffmt x).isNan then (src.ffmt.nan, nvIf (unpack src.ffmt x).isSig) else (x, 0)
  else convert src.ffmt dst.ffmt m x

def vcvtForm (f : VCvtOp) : Exec Unit := do
  let acct ← acctOf
  needType acct f.src
  needType acct f.dst
  rowsQuiet (dstRows f.d ++ [f.a.val] ++ predRows f.pred)
  let m ← frm
  let a ← readRow acct f.a.val
  let active ← activeOf acct f.pred
  let bad ← anyPoison ([f.a.val] ++ predRows f.pred)
  let rs := a.map (convertElem m f.src f.dst)
  raise (flagsOf active rs)
  writeVec acct f.dst f.d f.i active (rs.map fun r => heldIn acct f.dst r.1) bad
  noteVector

/-- One element of `vcvt.sr.f32.bf16` with its draw (R136). -/
def stochastic (x dv : Nat) : FRes :=
  let v := unpack fp32 x
  if v.isNan then (bf16.nan, nvIf v.isSig)
  else
    let lo := x % 2 ^ 16
    let s := lo + dv / 2 ^ 16
    let carry := s / 2 ^ 16
    let res := x / 2 ^ 16 + carry
    let nx : Flags := if carry = 1 ∨ lo ≠ 0 then flagNX else 0
    let ov : Flags := if carry = 1 ∧ res / 2 ^ 7 % 2 ^ 8 = 0xFF then flagOF else 0
    let uf : Flags := if res / 2 ^ 7 % 2 ^ 8 = 0 ∧ lo ≠ 0 then flagUF else 0
    (res, nx ||| ov ||| uf)

def vcvtSrForm (f : VCvtOp) : Exec Unit := do
  let acct ← acctOf
  needWide acct
  rowsQuiet (dstRows f.d ++ [f.a.val] ++ predRows f.pred)
  let a ← readRow acct f.a.val
  let active ← activeOf acct f.pred
  let bad ← anyPoison ([f.a.val] ++ predRows f.pred)
  let dvs ← drawLanes active
  let rs := (a.zip dvs).map fun p => stochastic p.1 p.2.toNat
  raise (flagsOf active rs)
  writeVec acct .bf16 f.d f.i active (rs.map fun r => heldIn acct .bf16 r.1) bad
  noteVector

/-! ## Special functions (R137) -/

def one : FVal := .fin false 1 0

def rcpRes (f : FFmt) (m : Rm) (x : FVal) : FRes := deliver f m (divVal one x)
def rsqrtRes (f : FFmt) (m : Rm) (x : FVal) : FRes := deliver f m (rsqrtVal x)

def special (op : FFmt → Rm → FVal → FRes) : VTy → Rm → Nat → FRes := fun ty m a => op ty.ffmt m (unpack ty.ffmt a)

/-! ## Reductions (R116, R130, R138 to R141) -/

/-- POISON for a reduction that reads a poisoned row: the lowest one's number above 0xFFFF_0000 (R339). -/
def rowsClean (rows : List Nat) : Exec Unit := do
  let s ← get
  match (rows.filter s.baseCore.rowBad).min? with
  | some n => trapN .poison (0xFFFF0000 + n)
  | none => pure ()

/-- One level of the tree of R116: element i and element i + n. -/
def treeLevel {α : Type} (add : α → α → α) (l : List α) : List α :=
  ((l.take (l.length / 2)).zip (l.drop (l.length / 2))).map fun p => add p.1 p.2

def treeFold {α : Type} (add : α → α → α) : Nat → List α → List α
  | 0, l => l
  | k + 1, l => treeFold add k (treeLevel add l)

/-- The sum of 128 or 256 elements by the tree, with the flags of every addition. -/
def treeSum (f : FFmt) (m : Rm) (l : List Nat) : FRes :=
  let add (a b : FRes) : FRes :=
    let r := deliver f m (addVal m (unpack f a.1) (unpack f b.1))
    (r.1, a.2 ||| b.2 ||| r.2)
  match treeFold add (if l.length = 256 then 8 else 7) (l.map fun x => (x, 0)) with
  | r :: _ => r
  | [] => (0, 0)

/-- Elements where active, zero elsewhere. -/
def activeVals (w : Nat) (l : List Nat) (active : List Bool) : List Nat :=
  (l.zip active).map fun p => if p.2 then p.1 % 2 ^ w else 0

/-- Element k alone of a row written. -/
def onlyAt (n k : Nat) : List Bool := (List.range n).map (· == k)

/-- Element 0 receives the sum whatever the predicate makes of it, as R138 says; R124, which keeps an inactive element of a
destination, is read as being about operations element by element. (DEDUCED, log entry 101.) -/
def vsumForm (f : VRed) : Exec Unit := do
  let acct ← acctOf
  needType acct f.ty
  rowsQuiet ([f.d.val, f.a.val] ++ predRows f.pred)
  rowsClean ([f.a.val] ++ predRows f.pred)
  let m ← frm
  let a ← readRow acct f.a.val
  let active ← activeOf acct f.pred
  let w := f.ty.width
  let vals := activeVals w a active
  let first := onlyAt (contN acct) 0
  if f.ty.isInt then do
    let sum := (vals.map (signedOf w)).foldl (· + ·) 0
    let full := patternOf 32 sum
    let c := contW acct
    writeRow acct f.d.val first (List.replicate (contN acct) (patternOf c (satInt c (signedOf 32 full)))) false
    writeLatch (BitVec.ofNat 32 full)
  else do
    let r := treeSum f.ty.ffmt m vals
    raise r.2
    writeRow acct f.d.val first (List.replicate (contN acct) (heldIn acct f.ty r.1)) false
    writeLatch (BitVec.ofNat 32 r.1)
  noteVector

/-- The greatest active element with its index so far (R139): a NaN is chosen only while nothing else is. -/
def better (ty : VTy) (best : Option (Nat × Nat)) (x i : Nat) : Option (Nat × Nat) :=
  let above (a b : Nat) : Bool :=
    if ty.isInt then signedOf ty.width b < signedOf ty.width a
    else
      let u := unpack ty.ffmt a
      let v := unpack ty.ffmt b
      !u.isNan && (v.isNan || belowVal v u)
  match best with
  | none => some (x, i)
  | some (b, j) => if above x b then some (x, i) else some (b, j)

def bestOf (ty : VTy) : List (Nat × Bool) → Nat → Option (Nat × Nat) → Option (Nat × Nat)
  | [], _, best => best
  | (x, act) :: t, i, best => bestOf ty t (i + 1) (if act then better ty best (x % 2 ^ ty.width) i else best)

/-- Elements 0 and 1 are written whatever the predicate makes of them (R139). (DEDUCED, log entry 101.) -/
def vmaxrForm (f : VRed) : Exec Unit := do
  let acct ← acctOf
  needType acct f.ty
  rowsQuiet ([f.d.val, f.a.val] ++ predRows f.pred)
  rowsClean ([f.a.val] ++ predRows f.pred)
  let a ← readRow acct f.a.val
  let active ← activeOf acct f.pred
  let w := f.ty.width
  let (v, idx) := match bestOf f.ty (a.zip active) 0 none with
    | some (x, i) => (if f.ty.isFloat && (unpack f.ty.ffmt x).isNan then f.ty.ffmt.nan else x, i)
    | none => (if f.ty.isInt then 2 ^ (w - 1) else f.ty.ffmt.nan, 0xFFFFFFFF)
  let sig := f.ty.isFloat && (a.zip active).any fun p => p.2 && (unpack f.ty.ffmt (p.1 % 2 ^ w)).isSig
  raise (nvIf sig)
  let both : List Bool := (List.range (contN acct)).map fun i => decide (i < 2)
  writeRow acct f.d.val both ([heldIn acct f.ty v, idx] ++ List.replicate (contN acct - 2) 0) false
  writeLatch (BitVec.ofNat 32 idx)
  noteVector

/-- The count goes into element 0 as the container's value, not as one of type T (R140; DESIGN CHOICE, log entry
88), and whatever the predicate makes of that element (DEDUCED, log entry 101). -/
def vpopForm (f : VRed) : Exec Unit := do
  let acct ← acctOf
  needType acct f.ty
  rowsQuiet ([f.d.val, f.a.val] ++ predRows f.pred)
  rowsClean ([f.a.val] ++ predRows f.pred)
  let a ← readRow acct f.a.val
  let active ← activeOf acct f.pred
  let n := ((activeVals f.ty.width a active).filter (· ≠ 0)).length
  writeRow acct f.d.val (onlyAt (contN acct) 0) (List.replicate (contN acct) n) false
  writeLatch (BitVec.ofNat 32 n)
  noteVector

/-- One residual (R141): p − q where positive or NaN, else +0. -/
def residual (f : FFmt) (m : Rm) (p q : Nat) : FRes :=
  let r := deliver f m (addVal m (unpack f p) (negVal (unpack f q)))
  let e := unpack f r.1
  (if e.isNan || ltVal (.fin false 0 0) e then r.1 else 0, r.2)

def vresidForm (f : VResidOp) : Exec Unit := do
  let acct ← acctOf
  needType acct f.ty
  rowsQuiet ([f.d.val, f.a.val, f.b.val] ++ predRows f.pred)
  rowsClean ([f.a.val, f.b.val] ++ predRows f.pred)
  let m ← frm
  let p ← readRow acct f.a.val
  let q ← readRow acct f.b.val
  let active ← activeOf acct f.pred
  let w := f.ty.width
  let fmt := f.ty.ffmt
  let rs := (p.zip q).map fun x => residual fmt m (x.1 % 2 ^ w) (x.2 % 2 ^ w)
  let res := activeVals w (rs.map (·.1)) active
  let s1 := treeSum fmt m res
  raise (flagsOf active rs ||| s1.2)
  if s1.1 = 0 then do
    let back := activeVals w p active
    let s2 := treeSum fmt m back
    raise s2.2
    writeRow acct f.d.val active (back.map (heldIn acct f.ty)) false
    writeLatch (BitVec.ofNat 32 (Nat.lor s2.1 fmt.signBit))
    modCore fun c => { c with cr := { c.cr with rzero := c.cr.rzero + 1 } }
  else do
    writeRow acct f.d.val active (res.map (heldIn acct f.ty)) false
    writeLatch (BitVec.ofNat 32 s1.1)
  noteVector

/-! ## Masks, draws, generators (R145, R149, R150) -/

/-- The scratchpad is read as it was before the group: beside a store of lane 0, its old bytes (R28, R145). (DEDUCED, log entry 70;
DEDUCED, log entry 89.) -/
def vmaskForm (f : VLdOp) : Exec Unit := do
  let acct ← acctOf
  if f.ty != (if acct then .i16 else .i32) then trapSlot .illop
  else do
    rowsQuiet ([f.d.val] ++ predRows f.pred)
    let o ← vBase f.a f.off
    let n := contN acct / 8
    if o % n = 0 then pure () else trapN .align o
    spBound o n
    let active ← activeOf acct f.pred
    let badP ← anyPoison (predRows f.pred)
    let badS ← spTouchesPoison o n
    spDisc o n
    let s ← get
    writeRow acct f.d.val active (unpackN 1 (contN acct) (s.baseCore.spNat o n)) (badP || badS)
    noteVector

/-- The value of a draw: itself, or dv[31:8] × 2^−24. -/
def drawElem (ty : VTy) (dv : Word) : Nat :=
  if ty = .f32 then (intToFloat fp32 .rne (dv.toNat / 256 : Nat) (-24)).1 else dv.toNat

/-- The tape's BOUND comes before the trap of a window (R133, R152). (DESIGN CHOICE, log entry 87.) -/
def vrandForm (f : VRandOp) : Exec Unit := do
  let acct ← acctOf
  needWide acct
  rowsQuiet (dstRows f.d ++ predRows f.pred)
  let active ← activeOf acct f.pred
  let bad ← anyPoison (predRows f.pred)
  let dvs ← drawLanes active
  writeVec acct f.ty f.d f.i active (dvs.map (drawElem f.ty)) bad
  noteVector

/-- Writes selected lane generators from the elements of a row. -/
def writeLanes (active : List Bool) (vals : List Nat) (f : Gen → Word → Gen) : Exec Unit :=
  modify fun s => s.modCore fun c =>
    (List.range vals.length).foldl (fun c i =>
      if active.getD i false then c.setLane i (f (c.lane s.issue.core i) (BitVec.ofNat 32 (vals.getD i 0))) else c) c

/-- Both forms: `set` makes the new generator from the old, the high word and the low word. The stream form runs with any
`k.acct` (R123, R150). (DESIGN CHOICE, log entry 90.) -/
def genForm (set : Gen → Word → Word → Gen) : GenOp → Exec Unit
  | .lane n a pred => do
    let acct ← acctOf
    needWide acct
    rowsQuiet ([n.val] ++ predRows pred)
    let hi ← readSrc a
    let vals ← readRow acct n.val
    let active ← activeOf acct pred
    writeLanes active vals fun g lo => set g hi lo
    noteVector
  | .stream x a => do
    let hi ← readSrc a
    let lo ← readSrc x
    modify fun s => s.modCore fun c => c.setGen s.issue.hind (set (c.gen s.issue.hind) hi lo)
    noteVector

def setKeyOf (g : Gen) (hi lo : Word) : Gen := { g with key := hi ++ lo }
def setCtrOf (g : Gen) (hi lo : Word) : Gen := { g with ctr := hi ++ lo, idx := lo }

/-! ## Meanings -/

def execVcvt (f : VCvtOp) (s : State) : Result := run (vcvtForm f) s
def execVcvtSr (f : VCvtOp) (s : State) : Result := run (vcvtSrForm f) s
def execVexp2 (f : V2) (s : State) : Result := run (vec1 (special exp2Res) f) s
def execVlog2 (f : V2) (s : State) : Result := run (vec1 (special log2Res) f) s
def execVrcp (f : V2) (s : State) : Result := run (vec1 (special rcpRes) f) s
def execVrsqrt (f : V2) (s : State) : Result := run (vec1 (special rsqrtRes) f) s
def execVtanh (f : V2) (s : State) : Result := run (vec1 (special tanhRes) f) s
def execVmaxr (f : VRed) (s : State) : Result := run (vmaxrForm f) s
def execVsum (f : VRed) (s : State) : Result := run (vsumForm f) s
def execVresid (f : VResidOp) (s : State) : Result := run (vresidForm f) s
def execVmask (f : VLdOp) (s : State) : Result := run (vmaskForm f) s
def execVpop (f : VRed) (s : State) : Result := run (vpopForm f) s
def execVrand (f : VRandOp) (s : State) : Result := run (vrandForm f) s

def execGkey (f : GenOp) (s : State) : Result :=
  run (do
    precheck (.gkey f)
    genForm setKeyOf f) s

def execGctr (f : GenOp) (s : State) : Result :=
  run (do
    precheck (.gctr f)
    genForm setCtrOf f) s

end Sys2Proof.Machine
end

