-- ==== Sys2Proof/Machine/Matrix.lean ====
section
/-!
DEFINITION. Class 7 but for `bsum`: tile shapes and places (R157, R160, R161), tile loads and stores (R173, R174), the
command queue with its image (R158, R163 to R171), `mcvt` (R180) and `bacc` (R182).
-/

namespace Sys2Proof.Machine

/-! ## Shapes (R157, R160, R161) -/

structure TShape where
  layout : Nat
  ty : Nat
  rows : Nat
  cols : Nat
  deriving DecidableEq, Repr

def shapeOf (w : Word) : TShape := ⟨bits w 3 0, bits w 7 4, bits w 15 8 + 1, bits w 23 16 + 1⟩

/-- Bytes of an element by its format code. -/
def codeBytes (ty : Nat) : Nat := if ty ≤ 1 then 4 else if ty ≤ 4 then 2 else 1
def TShape.b (h : TShape) : Nat := codeBytes h.ty
def TShape.bytes (h : TShape) : Nat := h.rows * h.cols * h.b

def shapeOk (w : Word) : Bool :=
  let h := shapeOf w
  bits w 31 24 = 0 && h.ty ≤ 6 && h.layout ≤ 4 && h.bytes ≤ 16384 &&
  (h.layout < 3 || (h.rows % 8 == 0 && h.cols % 8 == 0))

/-- Place(i, j). (DEDUCED, log entry 12.) -/
def TShape.place (h : TShape) (i j : Nat) : Nat :=
  (match h.layout with
    | 2 => h.rows * j + i
    | 3 => (i / 8 * (h.cols / 8) + j / 8) * 64 + i % 8 * 8 + j % 8
    | 4 => (j / 8 * (h.rows / 8) + i / 8) * 64 + j % 8 * 8 + i % 8
    | _ => h.cols * i + j) * h.b

/-- The format codes of R34. -/
def fmtCode : TFmt → Nat
  | .i32 => 0 | .f32 => 1 | .i16 => 2 | .bf16 => 3 | .f16 => 4 | .i8 => 5 | .ps8 => 6

def fmtOf (k : Nat) : FFmt := if k = 3 then bf16 else if k = 4 then fp16 else fp32

/-! ## Tiles -/

/-- DEDUCED, log entry 12. -/
def Core.tile (c : Core) (t : Nat) : FMap Byte := FMap.get c.tiles t []
def Core.setTile (c : Core) (t : Nat) (m : FMap Byte) : Core := { c with tiles := FMap.put c.tiles t m [] }
def Core.expVec (c : Core) (t : Nat) : Line := FMap.get c.exps t 0
def Core.setExpVec (c : Core) (t : Nat) (v : Line) : Core := { c with exps := FMap.put c.exps t v 0 }
/-- The exponent of a row: entry j, signed. -/
def Core.rowExp (c : Core) (t j : Nat) : Int := (((c.expVec t).extractLsb' (8 * j) 8 : Byte)).toInt
def Core.setRowExp (c : Core) (t j : Nat) (e : Byte) : Core :=
  c.setExpVec t (BitVec.ofNat 512 (leValue ((List.range 64).map fun i =>
    if i = j then e else (c.expVec t).extractLsb' (8 * i) 8)))

/-- Element (i, j) as its bits. (DEDUCED, log entry 12.) -/
def tileElem (m : FMap Byte) (h : TShape) (i j : Nat) : Nat := readLE m (h.place i j) h.b

def Core.tileRowBad (c : Core) (t i : Nat) : Bool := c.tilePoison.contains (256 * t + i)

/-! ## Interlocks (R158) -/

/-- Whether a queued or executing command names a tile. -/
def Mxu.namesTile (m : Mxu) (t : Nat) : Bool := m.cmds.any fun c => c.minor != 5 && c.a.toNat % 16 == t

/-- A tile that no command from before the group names (R28, R158). A command that the other half queues does not delay this one and
reads the tile's new bytes when it runs (DESIGN CHOICE, log entry 111). -/
def tileQuiet (t : Nat) : Exec Unit := do
  let s ← get
  blockUnless (!s.baseCore.mxu.namesTile t)

/-- The shape register of a tile, ILLOP unless it is a shape. -/
def shapeReg (t : Nat) : Exec Word := do
  let s ← get
  let w := FMap.get s.baseCore.cr.tshp t 0
  if shapeOk w then pure w else trapSlot .illop

/-- The shape of the tile that a form may name is checked, since it uses the tile (R160). -/
def tileUse (t : Option (Fin 8)) : Exec Unit := do
  match t with
  | some t => do
    let _ ← shapeReg t.val
    pure ()
  | none => pure ()

/-- The tile that a form may name is named by no command. -/
def tileQuietOpt (t : Option (Fin 8)) : Exec Unit :=
  match t with
  | some t => tileQuiet t.val
  | none => pure ()

/-! ## `tld`, `tst`, `texp` (R173, R189, R339, R343) -/

def tileOff (a : Src) (off : Word) (n : Nat) : Exec Nat := do
  let o ← offset64 a off
  spBound o n
  pure o
where
  offset64 (a : Src) (off : Word) : Exec Nat := do
    let b ← readSrc a
    let o := (b + off).toNat
    if o % 64 = 0 then pure o else trapN .align o

/-- The lowest KiB of a span whose tag is not the layout. -/
def Core.wrongTag (c : Core) (o n layout : Nat) : Option Nat :=
  ((kibs o n).find? fun k => (c.seenTag k).toNat != layout).map (1024 * ·)

/-- The poison of a tile's rows after a load from a span: those with an element in a poisoned granule. -/
def loadedPoison (c : Core) (t o : Nat) (h : TShape) : List Nat :=
  (List.range h.rows).foldl (fun l i =>
    markNat l (256 * t + i) ((List.range h.cols).any fun j => c.granBad ((o + h.place i j) / 16))) c.tilePoison

/-- R173; PROT of `.take` on a journaled region (R343) comes after BOUND and before the wait and LAYOUT. (DESIGN CHOICE, log entry
122.) -/
def tldForm (f : TldOp) : Exec Unit := do
  let w ← shapeReg f.t.val
  let h := shapeOf w
  tileQuiet f.t.val
  let o ← tileOff f.a f.off h.bytes
  if f.take then spNoJournal o h.bytes else pure ()
  let s ← get
  blockUnless (s.core.allFull s.me o h.bytes)
  match s.core.wrongTag o h.bytes h.layout with
  | some k => trapN .layout k
  | none => pure ()
  spDisc o h.bytes
  modCore fun c =>
    let bytes := c.spBytes o h.bytes
    { c.setTile f.t.val (writeBytes (c.tile f.t.val) 0 bytes) with tilePoison := loadedPoison c f.t.val o h }
  if f.take then modCore fun c => c.setFull o h.bytes false else pure ()

/-- R173, whose checks of `texp` name no shape: it loads the exponent vector alone. (DEDUCED, log entry 103.) Where PROT of `.take`
stands among them is as in `tld`. (DESIGN CHOICE, log entry 122.) -/
def texpForm (f : TldOp) : Exec Unit := do
  tileQuiet f.t.val
  let o ← tileOff f.a f.off 64
  if f.take then spNoJournal o 64 else pure ()
  let s ← get
  blockUnless (s.core.allFull s.me o 64)
  spDisc o 64
  modCore fun c => c.setExpVec f.t.val (BitVec.ofNat 512 (c.spNat o 64))
  if f.take then modCore fun c => c.setFull o 64 false else pure ()

/-- Bytes stored by `tst`, with the layout tag, and the poison of each granule's rows. -/
def tstStore (o : Nat) (bytes : List Byte) (fill : Bool) (layout : Nat) (bad : List Nat) : Exec Unit := do
  let s ← get
  let n := bytes.length
  spNoJournal o n
  if touchesImage s.me o n && !s.core.cr.priv then trap0 .prot
  else modCore fun c =>
    let tag := BitVec.ofNat 4 layout
    let c' := (if inImage s.me o then c else c.spStore s.me o bytes fill (some tag) false).imageStore s.me o bytes tag false
    let kept (g : Nat) : Bool := !inImage s.me (16 * g) || c.mxu.halted
    { c' with spPoison := (bad.filter kept).foldl insertNat c'.spPoison }

def tstForm (f : TstOp) : Exec Unit :=
  match f.t with
  | .tile t => do
    let w ← shapeReg t.val
    let h := shapeOf w
    tileQuiet t.val
    let o ← tileOff f.a f.off h.bytes
    let s ← get
    let c := s.core
    let badRows := (List.range h.rows).filter fun i => c.tileRowBad t.val i
    let bad := (badRows.map fun i => (List.range h.cols).map fun j => (o + h.place i j) / 16).flatten
    tstStore o (readBytes (c.tile t.val) 0 h.bytes) f.fill h.layout bad
  | .acc n => do
    rowsQuiet [64 * n.val]
    let o ← tileOff f.a f.off 32768
    let s ← get
    let c := s.core
    let bytes := ((List.range 64).map fun r => leBytes 512 (c.row s.me (64 * n.val + r)).toNat).flatten
    let badRows := (List.range 64).filter fun r => c.rowBad (64 * n.val + r)
    let bad := (badRows.map fun r => (List.range 32).map fun g => o / 16 + 32 * r + g).flatten
    tstStore o bytes f.fill 0 bad

/-- A tile's bytes, exponents and poison replaced (R174). -/
def Core.putTile (c : Core) (t : Nat) (m : FMap Byte) (e : Line) (bad : Nat → Bool) : Core :=
  { (c.setTile t m).setExpVec t e with
    tilePoison := (List.range 256).foldl (fun l i => markNat l (256 * t + i) (bad i)) c.tilePoison }

/-! ## The command queue (R158, R163 to R169) -/

/-- A command placed at the tail. -/
def Core.queueCmd (c : Core) (m : MxCmd) : Core :=
  let m := { m with slot := (c.mxu.head + c.mxu.cmds.length) % 8 }
  { c with mxu := { c.mxu with cmds := c.mxu.cmds ++ [m], queued := c.mxu.queued + 1 } }.putImage m 1

def pushCmd (m : MxCmd) : Exec Unit := do
  let s ← get
  blockUnless (s.core.mxu.cmds.length < 8)
  modCore fun c => c.queueCmd m

def isS : Exec Bool := do
  let s ← get
  pure (isSCore s.me)

def illopUnless (b : Bool) : Exec Unit := if b then pure () else trapSlot .illop

/-- A command of the issuing stream. -/
def newCmd (minor fmt tag d a x m : Nat) (shape : Word) : Exec MxCmd := do
  let s ← get
  pure ⟨minor, BitVec.ofNat 4 fmt, s.baseCore.cr.acct, BitVec.ofNat 8 tag, false, s.hind, BitVec.ofNat 8 d, BitVec.ofNat 8 a,
    BitVec.ofNat 8 x, m, shape, 0, 0⟩

def mwlForm (f : MwlOp) : Exec Unit := do
  let acct ← acctOf
  let sc ← isS
  let w ← shapeReg f.t.val
  let h := shapeOf w
  illopUnless (h.ty = fmtCode f.fmt)
  illopUnless (if sc then f.fmt == .ps8 else (f.fmt == .bf16 || f.fmt == .f16) && !acct)
  illopUnless (h.rows ≤ (if sc then 128 else 64) && h.cols ≤ (if sc then 128 else 32))
  let cmd ← newCmd 2 (fmtCode f.fmt) f.tag.toNat 0 (0xA0 + f.t.val) 0 0 w
  pushCmd cmd
  modCore fun c => { c with mxu := { c.mxu with issued := some (BitVec.ofNat 4 (fmtCode f.fmt), w) } }

/-- The checks of `mma` and `mmt` that raise ILLOP, then M. Answers the shape and M. The
latched shape and format are those from before the pair, so an `mwl` in lane 0 is not the most recent one for lane 1 (R28). (DEDUCED,
log entry 104.) -/
def mmaCheck (fmt : TFmt) (t : Nat) (block : Nat) (msrc : Src) : Exec (Word × Nat) := do
  let acct ← acctOf
  let sc ← isS
  let s ← get
  let w ← shapeReg t
  let h := shapeOf w
  match s.baseCore.mxu.issued with
  | none => trapSlot .illop
  | some (lf, lw) =>
    illopUnless (h.ty = fmtCode fmt && h.cols = (shapeOf lw).rows)
    illopUnless (if sc then fmt == .i8 || fmt == .i16 else (fmt == .bf16 || fmt == .f16) && lf.toNat = fmtCode fmt && !acct)
    illopUnless (!sc || (block < 2 && (block = 0 || acct)))
    let v ← readSrc msrc
    if v.toNat = 0 ∨ 64 < v.toNat ∨ h.rows < v.toNat then trapW .bound v
    else pure (w, v.toNat)

def mmaForm (f : MmaOp) : Exec Unit := do
  let (w, m) ← mmaCheck f.fmt f.t.val f.block.val f.m
  let cmd ← newCmd 3 (fmtCode f.fmt) f.tag.toNat (0xB0 + f.acc.val) (0xA0 + f.t.val) f.block.val m w
  pushCmd cmd

def dirCode : Dir → Nat
  | .n => 0 | .e => 1 | .s => 2 | .w => 3

/-- X[7:0] of an `mmt` (R165). -/
def mmtX (f : MmtOp) : Nat :=
  f.block.val + (match f.rx with
    | some r => 4 + 8 * dirCode r
    | none => 0) + (match f.fwd with
    | some r => 32 + 64 * dirCode r
    | none => 0)

/-- TEAM unless the neighbour is a member of the core's team (R178). -/
def teamNeighbour (dir : Option Dir) (x : Nat) : Exec Unit := do
  let s ← get
  match dir with
  | none => pure ()
  | some r =>
    let ok : Bool := match neighbour s.me r with
      | some nb => (match s.base.teamOf s.me with
        | some t => (t.2.members (dieOf s.me)).contains nb
        | none => false)
      | none => false
    if ok then pure () else trapN .team x

/-- `mmt` (R165, R178): BOUND comes before TEAM (DESIGN CHOICE, log entry 112). -/
def mmtForm (f : MmtOp) : Exec Unit := do
  let (w, m) ← mmaCheck f.fmt f.t.val f.block.val f.m
  let x := mmtX f
  teamNeighbour f.rx x
  teamNeighbour f.fwd x
  let cmd ← newCmd 4 (fmtCode f.fmt) f.tag.toNat (0xB0 + f.acc.val) (0xA0 + f.t.val) x m w
  pushCmd cmd

/-- `mclr`; an F-core takes no command while `k.acct` = 1 (R105). -/
def mclrForm (f : MclrOp) : Exec Unit := do
  let acct ← acctOf
  let sc ← isS
  illopUnless (sc || !acct)
  let cmd ← newCmd 5 0 f.tag.toNat (0xB0 + f.acc.val) 0 0 0 0
  pushCmd cmd

/-! ## `msync`, `mstat` (R170, R171) -/

/-- Waits for the commands that were queued before it when it first issued. -/
def msyncForm : Exec Unit := do
  let s ← get
  let m := s.baseCore.mxu
  match s.stream.syncAt with
  | none =>
    if m.cmds.isEmpty then pure ()
    else waitFor fun d => d.modCore s.me fun c => c.modStream s.hind fun t => { t with syncAt := some m.queued }
  | some n =>
    if n ≤ m.queued - m.cmds.length then modStream fun t => { t with syncAt := none } else block

/-- The receive and forward directions of a command. -/
def MxCmd.rx (m : MxCmd) : Option Nat := if m.minor = 4 ∧ m.x.getLsbD 2 then some (bits m.x 4 3) else none
def MxCmd.fwd (m : MxCmd) : Option Nat := if m.minor = 4 ∧ m.x.getLsbD 5 then some (bits m.x 7 6) else none

def MxCmd.streams (m : MxCmd) : Bool := m.minor = 3 || m.minor = 4
/-- Rows of the command are still to stream. -/
def MxCmd.unfinished (m : MxCmd) : Bool := m.executing && m.streams && m.rows < m.m

/-- Whether the command at the head waits for the governor's next window, at a cycle of the die's count. -/
def Mxu.waitGov (m : Mxu) (cycles : Nat) (shut : Bool) : Bool :=
  match m.govFrom, m.cmds with
  | some f, h :: _ => h.unfinished && (shut || windowOf f == windowOf cycles)
  | _, _ => false
/-- Whether the command at the head waits for link rows. -/
def Mxu.waitLink (m : Mxu) : Bool :=
  match m.cmds with
  | h :: _ => h.unfinished && (match h.rx with
    | some r => (FMap.get m.links r []).isEmpty
    | none => false)
  | [] => false

def mstatWord (m : Mxu) (cycles : Nat) (shut : Bool) : Word :=
  BitVec.ofNat 32 (m.cmds.length + 2 ^ 4 * (m.head % 8) + 2 ^ 8 * m.lastTag.toNat + 2 ^ 16 * (m.waitGov cycles shut).toNat +
    2 ^ 17 * m.waitLink.toNat + 2 ^ 18 * (m.links.any fun p => !p.2.isEmpty).toNat)

/-! ## `mcvt` (R108, R113, R180) -/

/-- R180; with a tile, its shape is checked (R160), before M. (DESIGN CHOICE, log entry 106.) -/
def mcvtForm (f : McvtOp) : Exec Unit := do
  let acct ← acctOf
  illopUnless (!acct || (f.tile.isSome && f.bf))
  tileUse f.tile
  rowsQuiet [64 * f.d.val, 64 * f.a.val]
  tileQuietOpt f.tile
  let mv ← readSrc f.m
  if mv.toNat = 0 ∨ 64 < mv.toNat then trapW .bound mv
  else do
    let md ← frm
    let s ← get
    let b := s.baseCore
    let fmt := if f.bf then bf16 else fp32
    let ty : VTy := if f.bf then .bf16 else .f32
    let elem (j x : Nat) : FRes := match f.tile with
      | some t => intToFloat fmt md (signedOf (contW acct) x) (b.rowExp t.val j - 6)
      | none => convert fp32 fmt md x
    (List.range mv.toNat).forM fun j => do
      let rs := (containers acct (b.row s.me (64 * f.a.val + j))).map (elem j)
      let all := List.replicate (contN acct) true
      raise (flagsOf all rs)
      writeRow acct (64 * f.d.val + j) all (rs.map fun r => heldIn acct ty r.1) (b.rowBad (64 * f.a.val + j))
    noteVector

/-! ## `bacc` (R118, R182) -/

/-- R118, R182. The exponent stays a 32-bit register: where `Align` takes it past 2^31 − 1, which R118 does not settle, it wraps.
(DESIGN CHOICE, log entry 100.) -/
def baccForm (f : BaccIOp) : Exec Unit := do
  let a ← readSrc f.a
  let e ← readSrc f.b
  let n := 2 * f.n.val
  if e.toInt < -1024 ∨ 1023 < e.toInt then trapW .bound e
  else do
    let lo ← readG n
    let hi ← readG (n + 1)
    let x ← readG (n + 2)
    let (m, g, nx) := align ((hi ++ lo : DWord)).toInt x.toInt a.toInt e.toInt
    writePairN n (BitVec.ofInt 64 m)
    writeG (n + 2) (BitVec.ofInt 32 g)
    raise (if nx then flagNX else 0)

/-- Final(m, f, F): exponents past ±4000 give what ±4000 gives. -/
def finalSum (fmt : FFmt) (m : Rm) (v : Int) (f : Int) : FRes := intToFloat fmt m v (max (-4000) (min 4000 f))

def baccFloatForm (f : BaccFOp) : Exec Unit := do
  let n := 2 * f.n.val
  let md ← frm
  let lo ← readG n
  let hi ← readG (n + 1)
  let x ← readG (n + 2)
  let r := finalSum (if f.bf then bf16 else fp32) md ((hi ++ lo : DWord)).toInt x.toInt
  raise r.2
  writeDst f.d (BitVec.ofNat 32 r.1)

/-! ## Meanings -/

def execTld (f : TldOp) (s : State) : Result := run (tldForm f) s
def execTst (f : TstOp) (s : State) : Result := run (tstForm f) s
def execTexp (f : TldOp) (s : State) : Result := run (texpForm f) s
def execMwl (f : MwlOp) (s : State) : Result := run (mwlForm f) s
def execMma (f : MmaOp) (s : State) : Result := run (mmaForm f) s
def execMmt (f : MmtOp) (s : State) : Result := run (mmtForm f) s
def execMclr (f : MclrOp) (s : State) : Result := run (mclrForm f) s
def execMcvt (f : McvtOp) (s : State) : Result := run (mcvtForm f) s
def execBaccI32 (f : BaccIOp) (s : State) : Result := run (baccForm f) s
def execBaccFloat (f : BaccFOp) (s : State) : Result := run (baccFloatForm f) s
def execMsync (s : State) : Result := run msyncForm s

def execMstat (dst : Dst) (s : State) : Result :=
  run (do
    let s ← get
    writeDst dst (mstatWord s.baseCore.mxu (s.dev.cyclesOf (dieOf s.me)) (s.base.budgetOf s.me == 0))) s

def execTzero (t : Fin 8) (s : State) : Result :=
  run (do
    tileQuiet t.val
    modCore fun c => c.putTile t.val [] 0 fun _ => false) s

def execTmov (f : TmovOp) (s : State) : Result :=
  run (do
    tileQuiet f.t.val
    tileQuiet f.u.val
    let s ← get
    let b := s.baseCore
    modCore fun c => c.putTile f.t.val (b.tile f.u.val) (b.expVec f.u.val) fun i => b.tileRowBad f.u.val i) s

end Sys2Proof.Machine
end

