-- ==== Sys2Proof/Machine/Messages.lean ====
section
/-!
DEFINITION. Class 9 but for the engine cards: records, tokens and mailboxes, the drift queue and the rime crossbar (R240
to R243, R247, R250, R254, R260 to R263, R274, R275, R360), and `bsum` of class 7 (R181).
-/

namespace Sys2Proof.Machine

/-! ## Where a record may go (R240, R248, R250, R348, R360) -/

/-- NOPATH for a package that is this one, is not reachable, or cannot be reached now. (DEDUCED, log entry 40.) -/
def packageCheck (w2 : Word) : Exec Unit := do
  let s ← get
  let k := bits w2 31 24
  require (k = 0 || (k ≠ s.dev.pkgNum && Config.fabricReaches k && !s.dev.fabricDown)) (trapW .nopath w2)

/-- NOPATH for an id that names no core; for a core of another partition of the same package. -/
def coreCheck (id : Word) (tval : Word) : Exec Unit := require (isCore id.toNat) (trapW .nopath tval)
/-- The ids that a member moved from another package names are its home package's, which judges them (R310). (DESIGN CHOICE, log
entry 31.) -/
def partCheck (id : Nat) (tval : Word) : Exec Unit := do
  let s ← get
  require (s.core.home.isSome || s.dev.partOfCore id == s.part) (trapW .nopath tval)

/-- VNET in an activation of a reply-network record (R240). -/
def requestCheck : Exec Unit := do
  let s ← get
  match s.core.act with
  | some a => require (recNet a.r ≠ 1) (trap0 .vnet)
  | none => pure ()

/-! ## Send queues (R241) -/

def Core.netQueue (c : Core) (n : Nat) : List SendEntry := FMap.get c.sendq n []
def Core.setNetQueue (c : Core) (n : Nat) (l : List SendEntry) : Core := { c with sendq := FMap.put c.sendq n l [] }

/-- D of a `.b` form. -/
def writeBusy (f : Full) (v : Word) : Exec Unit :=
  match f with
  | .busy d => writeDst d v
  | _ => pure ()

/-- Messages that trap handling places are not the trapped activation's (R328). -/
def Core.byTrap (c : Core) : Bool := c.susp.isSome

/-- An entry goes into the queue of a network, held; a full queue acts by the form (R241). SENDFULL of a stalling form has the value of
a `.t` form (DESIGN CHOICE, log entry 115). -/
def enterQueue (full : Full) (net : Nat) (e : SendEntry) : Exec Unit := do
  let s ← get
  let l := s.core.netQueue net
  if l.length < 8 then do
    modCore fun c => c.setNetQueue net (l ++ [e])
    writeBusy full 0
  else match full with
    | .busy d => writeDst d 1
    | .trap => trapN .sendfull net
    | .stall => if l.all fun x => x.held && x.byTrap == s.core.byTrap then trapN .sendfull net else block

def newEntry (c : Core) (kind : MsgKind) (r : Line) (dsts : List Nat) (ack : Option Nat) : SendEntry :=
  ⟨kind, r, dsts, true, c.byTrap, ack, false, none⟩

/-- The sixteen registers of a record; BOUND for a count above 13 (R247). -/
def readRecord (regs : Nat) : Exec Line := do
  let v ← readGs (16 * regs) 16
  let r : Line := BitVec.ofNat 512 v
  require (recCount r ≤ 13) (trapW .bound (lineWord r 0))
  pure r

/-- w0 with its network and its source, and the words beyond the count zero. -/
def stamped (r : Line) (net src : Nat) : Line :=
  clipRecord (setLineWord r 0 (recWord0 (recHandler r) net (recCount r) (recReply r) src))

/-- DEDUCED, log entry 37. -/
def sendForm (f : SendOp) : Exec Unit := do
  noRegion 0
  let r ← readRecord f.regs.val
  let b ← readSrc f.b
  coreCheck b b
  if f.net.val = 0 then requestCheck else pure ()
  packageCheck (lineWord r 2)
  if recPackage r = 0 then partCheck b.toNat b else pure ()
  let s ← get
  enterQueue f.full f.net.val (newEntry s.core .record (stamped r f.net.val s.coreId) [b.toNat] none)

/-- The cores that a multicast names (R260). -/
def castSet (clusters cores : Word) (die : Nat) : List Nat :=
  ((List.range 32).filter clusters.getLsbD).flatMap fun k =>
    ((List.range 16).filter cores.getLsbD).map fun n => markhorId die k n

/-- DEDUCED, log entry 37. NOPATH for a package in w2[31:24] has w2 as its trap value, which R360 does not give. (DESIGN CHOICE, log
entry 128.) -/
def sendmForm (f : SendmOp) : Exec Unit := do
  noRegion 0
  let r ← readRecord f.regs.val
  let b ← readSrc f.b
  let c ← readSrc f.c
  let die := bits c 18 16
  let set_ := castSet b c die
  require (bits c 31 23 = 0 && !set_.isEmpty) (trapW .bound c)
  partCheck (markhorId die 0 0) c
  require (recPackage r = 0) (trapW .nopath (lineWord r 2))
  if f.net.val = 0 then requestCheck else pure ()
  let s ← get
  enterQueue f.full f.net.val (newEntry s.core .record (stamped r f.net.val s.coreId) set_
    (if c.getLsbD 19 then some (bits c 22 20) else none))

/-- The activation's record as the hardware keeps it (R251). -/
def Core.kept (c : Core) : Line :=
  match c.act with
  | some a => a.r
  | none => 0

/-- DEDUCED, log entry 37. -/
def replForm (f : ReplOp) : Exec Unit := do
  noRegion 0
  let r ← readRecord f.regs.val
  let s ← get
  let k := s.core.kept
  require (recReply k) (trap0 .nopath)
  let w2 := lineWord k 2
  let dst := BitVec.ofNat 32 (bits w2 15 0)
  let out := setLineWord (setLineWord r 0 (recWord0 (bits w2 23 16) 1 (recCount r) (recReply r) s.coreId)) 2
    (BitVec.ofNat 32 (bits w2 31 24 * 2 ^ 24))
  coreCheck dst dst
  packageCheck (lineWord out 2)
  if recPackage out = 0 then partCheck dst.toNat dst else pure ()
  enterQueue f.full 1 (newEntry s.core .record (clipRecord out) [dst.toNat] none)

/-- A decrement travels as the offset of its descriptor and the id of its source (R263). -/
def dcntForm (f : DcntOp) : Exec Unit := do
  noRegion 0
  let a ← readSrc f.a
  let b ← readSrc f.b
  require (isMarkhor a.toNat) (trapW .nopath a)
  partCheck a.toNat a
  requestCheck
  let s ← get
  enterQueue f.full 0 (newEntry s.core .decrement (lineOfWords [b, BitVec.ofNat 32 s.coreId]) [a.toNat] none)

/-! ## `bsum` (R181) -/

/-- s of a block sum: element (j, c) as INT32, or as INT16 sign-extended. -/
def blockSum (acct : Bool) (r : Row) (c : Nat) : Word :=
  BitVec.ofInt 32 (signedOf (contW acct) (((containers acct r)[c]?).getD 0))

/-- R181; with a tile, its shape is checked (R160). ILLOP for it comes first, then BOUND, POISON, VNET and NOPATH. (DESIGN CHOICE, log
entry 106.) -/
def bsumForm (f : BsumOp) : Exec Unit := do
  let m ← isS
  illopUnless m
  tileUse f.tile
  let acct ← acctOf
  let n := 2 * f.b.val
  let g ← readG n
  let h ← readG (n + 1)
  let j := bits g 5 0
  let row := 64 * f.a.val + j
  require (bits g 15 8 < contN acct) (trapW .bound g)
  rowsQuiet [row]
  tileQuietOpt f.tile
  rowsClean [row]
  requestCheck
  let dst := BitVec.ofNat 32 (bits h 15 0)
  coreCheck dst dst
  partCheck dst.toNat dst
  let s ← get
  let e : Int := match f.tile with
    | some t => s.core.rowExp t.val j - 6
    | none => -6
  let r := lineOfWords [recWord0 (bits h 23 16) 0 2 false s.coreId, g, 0,
    blockSum acct (s.baseCore.row s.me row) (bits g 15 8), BitVec.ofInt 32 e]
  enterQueue .stall 0 (newEntry s.core .record r [dst.toNat] none)

/-! ## The handler table (R254) -/

/-- An entry from a PC and an attribute word. (DEDUCED, log entry 34.) -/
def handlerEntry (p : DWord) (c : Word) : HEntry :=
  ⟨p.setWidth 52, BitVec.ofNat 2 (bits c 1 0), BitVec.ofNat 4 (bits c 7 4), BitVec.ofNat 13 (bits c 20 8), c.getLsbD 2⟩
def Core.setHandler (c : Core) (n : Nat) (e : HEntry) : Core := { c with handlers := FMap.set c.handlers n e }
/-- The attribute word and the PC that R253 allows; the entry keeps 52 bits of a PC (DEDUCED, log entry 34). -/
def attrOk (c : Word) : Bool := bits c 3 3 = 0 && bits c 31 21 = 0 && bits c 7 4 ≤ 13
def entryPcOk (p : DWord) : Bool := bits p 5 3 = 0 && bits p 2 0 ≤ 4

def hdefForm (f : HdefOp) : Exec Unit := do
  noRegion 0
  let a ← readSrc f.a
  let p ← readPair f.b
  let c ← readSrc f.c
  require (a.toNat < 256) (trapW .bound a)
  require (attrOk c) (trapW .bound c)
  require (entryPcOk p) (trapN .bound (bits p 31 0))
  let s ← get
  require (a.toNat ≠ 255 || s.baseCore.cr.priv) (trapW .priv a)
  modCore fun k => k.setHandler a.toNat (handlerEntry p c)

/-! ## The drift queue (R243) -/

def Core.queueStatus (c : Core) : Word :=
  BitVec.ofNat 32 (c.dq.waiting.length % 128 + c.dq.spill.toNat * 2 ^ 7 + (c.netQueue 0).length % 16 * 2 ^ 8 +
    (c.netQueue 1).length % 16 * 2 ^ 12 + (c.netQueue 2).length % 16 * 2 ^ 16 + c.dq.ringCount % 4096 * 2 ^ 20)

def limForm (a : Src) : Exec Unit := do
  noRegion 0
  let v ← readSrc a
  require (1 ≤ v.toNat && v.toNat ≤ 64) (trapW .bound v)
  modCore fun c => { c with dq := { c.dq with limit := v.toNat } }

/-- Spill mode on, into a region; a ring that still holds records stays where it is until it is empty, and then takes up the region as
it was when the spill was issued. (DESIGN CHOICE, log entry 126.) -/
def DriftQ.spillInto (q : DriftQ) (base len : Nat) : DriftQ :=
  if q.spill then q
  else if q.ringCount = 0 then { q with spill := true, ringBase := base, ringLen := len, ringHead := 0, nextRing := none }
  else { q with spill := true, nextRing := some (base, len) }

/-- DEDUCED, log entry 39. -/
def spillForm (a : Src) : Exec Unit := do
  noRegion 0
  let v ← readSrc a
  let s ← get
  match s.baseCore.area (v.toNat % 16) with
  | none => trapW .bound v
  | some x => do
    require (v.toNat < 16 && x.len % 64 = 0) (trapW .bound v)
    modCore fun c => { c with dq := c.dq.spillInto x.base x.len }

/-! ## Tokens and mailboxes (R261) -/

/-- A token added to the entry of its target, if there is one. -/
def addToken (core mbox : Nat) (byTrap : Bool) : List Token → Option (List Token)
  | [] => none
  | t :: r =>
    if t.core = core ∧ t.mbox = mbox ∧ t.byTrap = byTrap then some ({ t with n := t.n + 1 } :: r)
    else (addToken core mbox byTrap r).map (t :: ·)

/-- DEDUCED, log entry 38. -/
def mackForm (f : AB) : Exec Unit := do
  noRegion 0
  let a ← readSrc f.a
  let b ← readSrc f.b
  require (b.toNat < 8) (trap0 .bound)
  coreCheck a a
  partCheck a.toNat a
  let s ← get
  let c := s.core
  match addToken a.toNat b.toNat c.byTrap c.tokens with
  | some l => modCore fun c => { c with tokens := l }
  | none => do
    require (decide ((c.tokens.filter fun t => t.byTrap == c.byTrap).length < 8)) (trapN .sendfull 3)
    modCore fun c => { c with tokens := c.tokens ++ [⟨a.toNat, b.toNat, 1, c.byTrap⟩] }

def Core.mbox (c : Core) (n : Nat) : Word := FMap.get c.mail n 0
def Core.setMbox (c : Core) (n : Nat) (v : Word) : Core := { c with mail := FMap.put c.mail n v 0 }
/-- A mailbox incremented; it saturates. -/
def Core.addMbox (c : Core) (n k : Nat) : Core := c.setMbox n (BitVec.ofNat 32 (min ((c.mbox n).toNat + k) (2 ^ 32 - 1)))

/-- DEDUCED, log entry 38. -/
def mbxForm (f : MbxOp) : Exec Unit := do
  noRegion 0
  let n ← readSrc f.a
  let k ← readSrc f.b
  require (n.toNat < 8) (trap0 .bound)
  let s ← get
  let v := s.core.mbox n.toNat
  blockUnless (k.toNat ≤ v.toNat)
  modCore fun c => c.setMbox n.toNat (v - k)
  writeDst f.d v

/-! ## The rime crossbar (R273 to R275) -/

/-- Whether a configuration word is one that R273 allows. -/
def xcfgOk (term : Bool) (w : Word) : Bool :=
  if term then bits w 18 16 ≤ 4 && bits w 31 27 = 0
  else bits w 2 0 ≠ 5 && bits w 2 0 ≠ 6 && bits w 23 12 ≠ 0 && bits w 31 24 = 0

def Core.configure (c : Core) (term : Bool) (k : Nat) (clear : Bool) (w : Word) : Core :=
  if term then
    let x := c.term k
    { c with xterm := FMap.set c.xterm k (if clear then ⟨w, 0, 0, x.holding⟩ else { x with cfg := w }) }
  else
    let x := c.counter k
    { c with xcount := FMap.set c.xcount k (if clear then ⟨w, 0⟩ else { x with cfg := w }) }

def evxForm (f : AB) : Exec Unit := do
  noRegion 0
  let a ← readSrc f.a
  let w ← readSrc f.b
  require (a.toNat < 32) (trapW .bound a)
  require (xcfgOk (a.getLsbD 3) w) (trapW .bound w)
  modCore fun c => c.configure (a.getLsbD 3) (bits a 2 0) (a.getLsbD 4) w

def evwForm (f : DA) : Exec Unit := do
  noRegion 0
  let a ← readSrc f.a
  let s ← get
  let x := s.core.term a.toNat
  require (a.toNat < 8 && xAction x.cfg == 3) (trapW .bound a)
  blockUnless (x.wakes ≠ 0)
  modCore fun c => { c with xterm := FMap.set c.xterm a.toNat { x with wakes := x.wakes - 1 } }
  writeDst f.d (BitVec.ofNat 32 (x.wakes - 1))

/-! ## Meanings -/

def execSend (f : SendOp) (s : State) : Result := run (do precheck (.send f); sendForm f) s
def execSendm (f : SendmOp) (s : State) : Result := run (do precheck (.sendm f); sendmForm f) s
def execRepl (f : ReplOp) (s : State) : Result := run (replForm f) s
def execHdef (f : HdefOp) (s : State) : Result := run (hdefForm f) s

def execDqctlStat (d : Dst) (s : State) : Result :=
  run (do
    noRegion 0
    let s ← get
    writeDst d s.core.queueStatus) s

def execDqctlLim (a : Src) (s : State) : Result := run (limForm a) s
def execDqctlSpill (a : Src) (s : State) : Result := run (do precheck (.dqctlSpill a); spillForm a) s

def execDqctlUnspill (s : State) : Result :=
  run (do
    noRegion 0
    modCore fun c => { c with dq := { c.dq with spill := false } }) s

def execDcnt (f : DcntOp) (s : State) : Result := run (dcntForm f) s
def execEvx (f : AB) (s : State) : Result := run (do precheck (.evx f); evxForm f) s
def execEvw (f : DA) (s : State) : Result := run (do precheck (.evw f); evwForm f) s
def execMbx (f : MbxOp) (s : State) : Result := run (mbxForm f) s
def execMack (f : AB) (s : State) : Result := run (mackForm f) s
def execBsum (f : BsumOp) (s : State) : Result := run (do precheck (.bsum f); bsumForm f) s

end Sys2Proof.Machine
end

