-- ==== Sys2Proof/Machine/Network.lean ====
section
/-!
DEFINITION. The events of records and activations: dispatch (R251, R255, R307), arrival, taking back and ageing (R242,
R255), departure (R241, R249, R359), acknowledgements and tokens (R261), decrements (R263), claim queues (R311, R312),
stealing (R264) and the terms of the rime crossbar (R273).
-/

namespace Sys2Proof.Machine

/-! ## Dispatch (R251, R255, R307, R342) -/

/-- The activation that a rolled-back record starts again. -/
def Device.restart (d : Device) (id : Nat) (a : Activation) : Device :=
  let taken := d.modCore id fun c => { c with redeliver := c.redeliver.tail }
  match a.task with
  | some t => taken.startTask id t true
  | none => d.startFrom taken id a.r true a.claim

/-- The best waiting record, removed and started. -/
def Device.dispatchWaiting (d : Device) (id : Nat) : Option Device :=
  let c := d.core id
  match pickFrom (c.priority d.cycle) c.dq.waiting 0 with
  | some (k, _) =>
    (c.dq.waiting[k]?).map fun w =>
      d.startFrom (d.setCore id { c with dq := { c.dq with waiting := c.dq.waiting.eraseIdx k } }) id w.r false w.claim
  | none => none

/-- The newest record of the steal deque, removed and started, when no record waits. (DEDUCED, log entry 43.) -/
def Device.dispatchTask (d : Device) (id : Nat) : Option Device :=
  let c := d.core id
  match c.deque with
  | t :: r => if c.dq.ringCount = 0 then some ((d.setCore id { c with deque := r }).startTask id t false) else none
  | [] => none

/-- Privileged records first, then a rolled-back record, then the waiting records, then the deque. While trap handling runs, nothing
is dispatched, a privileged record neither (R251, R300; DEDUCED, log entry 116). -/
def Device.dispatch (d : Device) (id : Nat) : Device :=
  let c := d.core id
  if !c.free then d
  else match c.dq.priv with
    | r :: t => d.startFrom (d.setCore id { c with dq := { c.dq with priv := t } }) id r false 0
    | [] =>
      match c.redeliver with
      | a :: _ => d.restart id a
      | [] => ((d.dispatchWaiting id).orElse fun _ => d.dispatchTask id).getD d

def execActivationDispatch (core : Nat) (s : State) : Result := happen (fun d => d.dispatch core) s

/-! ## Departure (R241, R249, R294, R359) -/

/-- A fabric group that carries records for a package now. (DEDUCED, log entry 40.) -/
def Device.fabricGroup (d : Device) (pkg : Nat) : Option Nat :=
  ([0, 1, 2].map fun j => (pkg + j) % 3).find? fun k => (d.link (.group k)).st == .up

/-- What a message for another package does next (R294): it leaves with a number on a rail group, at first or, after a
loss, again on another; or its answer is back, by which the partition that it addresses has accepted it or not (R250). -/
inductive Crossing
  | waits | leaves (n group : Nat) | answered (accepted : Bool)
  deriving DecidableEq, Repr

/-- `fab` is the number and the group under which the message has left. (DESIGN CHOICE, log entry 29.) -/
def Device.crossing (d : Device) (pkg : Nat) (fab : Option (Nat × Nat)) : Crossing :=
  match fab, d.fabricGroup pkg with
  | none, some g => .leaves (FMap.get d.fabSent pkg 0) g
  | none, none => .waits
  | some (n, g), other =>
    if (d.link (.group g)).st = .up then .answered (Config.fabricAccepts d.tick)
    else match other with
      | some h => .leaves n h
      | none => .waits

/-- The number of a message that leaves is used. -/
def Device.numbered (d : Device) (pkg n : Nat) : Device :=
  { d with fabSent := FMap.set d.fabSent pkg (max (FMap.get d.fabSent pkg 0) (n + 1)) }

/-- The sender's entry loses a destination that has accepted; with none left it is freed, and a multicast's acknowledgements
are on their way back (R260, R261). -/
def Device.freeEntry (d : Device) (src net dst : Nat) : Device :=
  let c := d.core src
  match c.netQueue net with
  | e :: t =>
    let rest := e.dsts.erase dst
    if rest = [] then
      let d := d.setCore src (c.setNetQueue net t)
      match e.ack with
      | some m => { d with acks := d.acks ++ [⟨src, m⟩] }
      | none => d
    else d.setCore src (c.setNetQueue net ({ e with dsts := rest } :: t))
  | [] => d

/-- The head of a send queue changed in place. -/
def Device.modHead (d : Device) (id net : Nat) (f : SendEntry → SendEntry) : Device :=
  d.modCore id fun c => match c.netQueue net with
    | e :: t => c.setNetQueue net (f e :: t)
    | [] => c

/-- The sender's entry loses a destination that never takes its copy: no acknowledgement of the multicast comes back. -/
def Device.loseEntry (d : Device) (src net dst : Nat) : Device := (d.modHead src net fun e => { e with ack := none }).freeEntry src net dst

/-- The package that an entry of a core goes to: the one that a record names, or, for a member moved from another package,
its home (R247, R310); none for this package. -/
def Core.packageOf (c : Core) (e : SendEntry) : Option Nat :=
  if e.kind = .record ∧ recPackage e.r ≠ 0 then some (recPackage e.r) else c.home.map (·.1)

/-- The head of a send queue on its way to another package, for one destination after the other: counted as sent once it is
accepted there, and destroyed with a LOST notice to the sender's supervisor if it is not (R245, R250). -/
def Device.abroad (d : Device) (id net pkg : Nat) (e : SendEntry) : Device :=
  match d.crossing pkg e.fab, e.dsts with
  | .leaves n g, _ =>
    ((d.modHead id net fun e => { e with inFlight := true, fab := some (n, g) }).numbered pkg n).useLink (d.partOfCore id) (.group g)
  | .answered ok, dst :: _ =>
    let d := d.modHead id net fun e => { e with inFlight := false, fab := none }
    if ok then (d.countSent id).freeEntry id net dst else (d.loseEntry id net dst).lost id e.r
  | _, _ => d

/-- The head of a send queue leaves: for cores of this package as one message to each destination, for another package
over the fabric. -/
def Device.depart (d : Device) (id net : Nat) : Device :=
  let c := d.core id
  match c.netQueue net with
  | e :: t =>
    if e.held then d
    else match c.packageOf e with
      | some pkg => d.abroad id net pkg e
      | none =>
        if e.inFlight then d
        else
          let out := e.dsts.map fun dst => (⟨e.kind, e.r, dst, net, some id, d.partOfCore id, true, none, 0, 0, 0, 0, none⟩ : Flight)
          let d := e.dsts.foldl (fun d dst => d.useDies (d.partOfCore id) (dieOf id) (dieOf (d.placeOf dst))) d
          { d.setCore id (c.setNetQueue net ({ e with inFlight := true } :: t)) with flights := d.flights ++ out }
  | [] => d

def execSendQueueDepart (core net : Nat) (s : State) : Result := happen (fun d => d.depart core net) s

/-! ## Arrival -/

/-- Messages arrive in order by source, destination and network (R249), and only while the partition they stay within
is in place (R344). -/
def Device.deliverable (d : Device) (k : Nat) : Option Flight :=
  match d.flights[k]? with
  | some f =>
    if firstOf (d.flights.map fun f => (f.src, f.dst, f.net)) k && (f.abroad != 0 || d.partOfCore f.dst == f.part) then some f else none
  | none => none

/-- The package that a message goes on to over the fabric: that of a moved member's tokens, or the one to which its
destination has been moved, whose old die forwards it (R310). -/
def Device.onward (d : Device) (f : Flight) : Option Nat := if f.abroad ≠ 0 then some f.abroad else d.awayOf f.dst

/-! ## The launch interface as a sender (R319, R322 to R324) -/

def Launch.reset : Launch := ⟨0, 0, false, 0, false, false, 0, none, none, false⟩
def Device.launch (d : Device) (p : Nat) : Launch := FMap.get d.launches p Launch.reset
def Device.setLaunch (d : Device) (p : Nat) (l : Launch) : Device := { d with launches := FMap.put d.launches p l Launch.reset }
/-- The entry at the head has been applied. -/
def Launch.advance (l : Launch) : Launch := { l with head := (l.head + 1) % 4096 }

/-- A message has been accepted: it is counted as sent (R245), and its entry is freed; a launch record's entry has been
applied, and the sweeps toward quiescence begin after it. -/
def Device.accepted (d : Device) (k : Nat) (f : Flight) : Device :=
  let d := { d with flights := d.flights.eraseIdx k }
  let d := match f.launch with
    | some p => d.setLaunch p { (d.launch p).advance with sweep := none, last := none, quiet := false }
    | none => d
  match f.src with
  | some c =>
    let d := if f.counts then d.countSent c else d
    d.freeEntry c f.net f.dst
  | none => d

/-- A message is destroyed: no destination takes it, and it is counted neither as sent nor as received. A record of the
launch interface is taken from its entry again. -/
def Device.destroyFlight (d : Device) (k : Nat) (f : Flight) : Device :=
  let d := { d with flights := d.flights.eraseIdx k }
  let d := match f.src with
    | some c => if f.kind = MsgKind.token then d else d.loseEntry c f.net f.dst
    | none => d
  d.lost (f.src.getD f.dst) f.r

/-- A message forwarded to another package (R294, R310). -/
def Device.forward (d : Device) (k : Nat) (f : Flight) (pkg : Nat) : Device :=
  match d.crossing pkg f.fab with
  | .waits => d
  | .leaves n g =>
    ({ d with flights := d.flights.modify k fun f => { f with fab := some (n, g) } }.numbered pkg n).useLink f.part (.group g)
  | .answered ok =>
    if f.kind = MsgKind.token then { d with flights := d.flights.eraseIdx k }
    else if ok then d.accepted k f
    else d.destroyFlight k f

/-- A message arrives: one for another package goes on, one with a poisoned payload is destroyed (R338, R341), and any other
is taken by its destination. (DESIGN CHOICE, log entry 94.) -/
def Device.arrives (d : Device) (kind : MsgKind) (k : Nat) (take : Flight → Device) : Device :=
  match d.deliverable k with
  | some f =>
    if f.kind ≠ kind then d
    else match d.onward f with
      | some pkg => d.forward k f pkg
      | none => if f.poison ≠ 0 then d.destroyFlight k f else take f
  | none => d

/-- The claim handler of a pool of a die: the handler index when the entry is valid (R311, R356). -/
def Device.claimHandler (d : Device) (die pool : Nat) : Option Nat :=
  let w := FMap.get d.regs (0x2000001000 + 0x100000 * die + 4 * pool) 0
  if w.getLsbD 8 then some (bits w 7 0) else none

/-- The pool whose claim record a record is at its destination. -/
def Device.claimPool (d : Device) (id : Nat) (r : Line) : Option Nat :=
  let p := (d.core id).pool
  if recNet r = 0 ∧ p ≠ 0 ∧ d.claimHandler (dieOf id) p = some (recHandler r) then some p else none

/-- A record arrives at a drift queue. -/
def Device.recordArrives (d : Device) (k : Nat) : Device :=
  d.arrives .record k fun f =>
    let id := d.placeOf f.dst
    if d.claimPool id f.r = none then
      match d.offer id f.r with
      | some e => (if f.counts then e.countRecv id else e).accepted k f
      | none => d
    else d

def execRecordArrival (k : Nat) (s : State) : Result := happen (fun d => d.recordArrives k) s

def Device.takeBack (d : Device) (id : Nat) : Device :=
  let c := d.core id
  if c.dq.ringCount ≠ 0 ∧ c.dq.waiting.length < c.dq.limit then d.setCore id (c.takeBack d.cycle) else d

def execMemoryQueueTakeBack (core : Nat) (s : State) : Result := happen (fun d => d.takeBack core) s

/-- A waiting record that has waited its cycles takes priority 3. -/
def Device.age (d : Device) (id k : Nat) : Device :=
  let c := d.core id
  d.setCore id { c with dq := { c.dq with waiting := c.dq.waiting.modify k fun w =>
    if Config.agingCycles ≤ d.cycle - w.since then { w with aged := true } else w } }

def execRecordAging (core k : Nat) (s : State) : Result := happen (fun d => d.age core k) s

/-! ## Acknowledgements and tokens (R261) -/

/-- All acknowledgements of a multicast are back: the mailbox of its sender, and of its twin (R346), takes one. -/
def Device.ackComplete (d : Device) (k : Nat) : Device :=
  match d.acks[k]? with
  | some a =>
    { (d.receivers a.core).foldl (fun d id => d.modCore id fun c => c.addMbox a.mbox 1) d with acks := d.acks.eraseIdx k }
  | none => d

def execMulticastAckComplete (k : Nat) (s : State) : Result := happen (fun d => d.ackComplete k) s

def Device.tokenArrives (d : Device) (k : Nat) : Device :=
  d.arrives .token k fun f =>
    let d := { d with flights := d.flights.eraseIdx k }
    (d.receivers (d.placeOf f.dst)).foldl (fun d id => d.modCore id fun c => c.addMbox f.mbox f.n) d

def execMackTokenArrival (k : Nat) (s : State) : Result := happen (fun d => d.tokenArrives k) s

/-! ## Decrements (R263) -/

/-- A decrement of a codelet counter at its owner; none is a refusal. (DEDUCED, log entry 36.) -/
def Device.decrement (d : Device) (id src off : Nat) : Option Device :=
  let c := d.core id
  if c.stopped then none
  else
    let n := (c.portWord off).toNat
    if off % 16 ≠ 0 ∨ Config.spBytes < off + 16 ∨ n = 0 then
      d.arrive id (noticeRecord .codelet (c.homeId.getD id) [BitVec.ofNat 32 src, BitVec.ofNat 32 off]) 0
    else
      let r := c.readyRecord (c.homeId.getD id) off
      let d' := d.setCore id (c.setCounter id off (BitVec.ofNat 32 (n - 1)))
      if n = 1 then d'.arrive id r 0 else some d'

/-- A decrement offered to an owner and to its twin (R346). -/
def Device.decrementAt (d : Device) (id src off : Nat) : Option Device :=
  (d.receivers id).foldl (fun o c => o.bind fun d => d.decrement c src off) (some d)

def Device.dcntArrives (d : Device) (k : Nat) : Device :=
  d.arrives .decrement k fun f =>
    let id := d.placeOf f.dst
    match d.decrementAt id (lineWord f.r 1).toNat (lineWord f.r 0).toNat with
    | some e => (e.countRecv id).accepted k f
    | none => d

def execDcntArrival (k : Nat) (s : State) : Result := happen (fun d => d.dcntArrives k) s

/-! ## Claim queues (R311, R312) -/

def Device.claims (d : Device) (die : Nat) : List ClaimRec := FMap.get d.claimq die []

/-- A claim record enters the die's claim queue, or is refused while it holds 256. -/
def Device.claimArrives (d : Device) (k : Nat) : Device :=
  d.arrives .record k fun f =>
    let id := d.placeOf f.dst
    let die := dieOf id
    match d.claimPool id f.r with
    | some p =>
      if (d.claims die).length < 256 then
        let d := { d with claimq := FMap.set d.claimq die (d.claims die ++ [(⟨f.r, p⟩ : ClaimRec)]),
                          claimRecv := if f.counts then FMap.set d.claimRecv die (FMap.get d.claimRecv die 0 + 1) else d.claimRecv }
        (d.accepted k f).settlePools die
      else d
    | none => d

def execClaimRecordArrival (k : Nat) (s : State) : Result := happen (fun d => d.claimArrives k) s

/-- The cycle from which a claimant's idle time counts. (DEDUCED, log entry 77.) -/
def Core.idleFrom (c : Core) : Nat := max c.poolSince c.idleSince

/-- The claimant idle longest, of lowest id: ids are offered in ascending order. (DEDUCED, log entry 77.) -/
def longestIdle (d : Device) : List Nat → Option Nat
  | [] => none
  | id :: t =>
    match longestIdle d t with
    | some j => if (d.core id).idleFrom ≤ (d.core j).idleFrom then some id else some j
    | none => some id

/-- The idle claimants of a pool of a die; a secondary core of a twin pair is none of its own (R346). -/
def Device.idleClaimants (d : Device) (die pool : Nat) : List Nat :=
  (d.listedOf die).filter fun id =>
    (d.twins.all fun t => t.2 != id) && (d.core id).pool == pool && (d.core id).idle && !(d.core id).stopped && !(d.core id).holdsClaim

/-- A claim record enters the drift queue of the claimant, and of its secondary core in twin mode (R346). (DEDUCED, log entry 42.) -/
def Device.deliverClaim (d : Device) (die pool : Nat) : Device :=
  match (d.claims die).findIdx? fun r => r.pool == pool, longestIdle d (d.idleClaimants die pool) with
  | some k, some id =>
    match (d.claims die)[k]? with
    | some r =>
      let d := { d with claimq := FMap.put d.claimq die ((d.claims die).eraseIdx k) [] }
      let d := (d.receivers id).foldl (fun e j => e.modCore j fun c =>
        ({ c with dq := { c.dq with waiting := c.dq.waiting ++ [newWaiting r.r d.cycle pool] } }).pulse 4 (recHandler r.r)) d
      d.settlePools die
    | none => d
  | _, _ => d

def execClaimDelivery (die pool : Nat) (s : State) : Result := happen (fun d => if pool = 0 then d else d.deliverClaim die pool) s

/-! ## Stealing (R264, R307) -/

def lfsrNext (s : BitVec 16) : BitVec 16 := if s.getLsbD 0 then (s >>> 1) ^^^ 0xB400 else s >>> 1

/-- The markhor cores of a thief's steal scope but itself, ascending: of a member moved from another package, its team's;
of any other, none of another launch's (R310). (DESIGN CHOICE, log entry 31.) -/
def Device.stealCandidates (d : Device) (id : Nat) : List Nat :=
  let scope := match d.teamOf id with
    | some t => if (d.core id).home.isSome then 2 else bits t.2.w0 14 13
    | none => 0
  let all := match scope with
    | 1 => (List.range 512).map fun k => 4096 * dieOf id + 8 * k
    | 2 => d.teamMembers id
    | _ => (List.range 16).map (markhorId (dieOf id) (clusterOf id))
  all.filter fun j => j != id && (d.core j).home == (d.core id).home

/-- Whether a core may ask now: idle, waiting for nothing, and no claim record of its pool in the queue. A secondary core of a twin
pair takes what its primary has asked for (R346; DESIGN CHOICE, log entry 20). -/
def Device.maySteal (d : Device) (id : Nat) : Bool :=
  let c := d.core id
  isMarkhor id && c.idle && !c.stopped && c.steal == .ready && (d.twins.all fun t => t.2 != id) &&
  (c.pool == 0 || !(d.claims (dieOf id)).any fun r => r.pool == c.pool)

/-- The record that a victim gives up: its oldest, which both cores of a twin pair give up together; a secondary core is no victim
of its own (R346). (DESIGN CHOICE, log entry 20.) -/
def Device.spareTask (d : Device) (v : Nat) : Option Task :=
  if d.twins.any fun t => t.2 == v then none
  else match (d.core v).deque.getLast? with
    | some t => if (d.receivers v).all fun j => (d.core j).deque.getLast? == some t then some t else none
    | none => none

/-- A request: the LFSR advances, and the victim answers with its oldest record or with none. -/
def Device.stealAsk (d : Device) (id : Nat) : Device :=
  let l := d.stealCandidates id
  if d.maySteal id ∧ l ≠ [] then
    let s := lfsrNext (d.core id).lfsr
    let v := (l[s.toNat % l.length]?).getD id
    let answer := d.spareTask v
    let d := if answer.isSome then (d.receivers v).foldl (fun e j => e.modCore j fun c =>
      ({ c with deque := c.deque.dropLast } : Core).noteIdle d.cycle) d else d
    d.modCore id fun c => { c with lfsr := s, steal := .asked (answer.map fun t => (v, t)) }
  else d

def execStealRequest (core : Nat) (s : State) : Result := happen (fun d => d.stealAsk core) s

/-- The answer reaches the thief: a record enters its deque at the head, and that of its twin (R346), and counts as sent by the
victim and received by the thief (R245, R264); after none it waits. -/
def Device.stealAnswer (d : Device) (id : Nat) : Device :=
  let c := d.core id
  match c.steal with
  | .asked (some (v, t)) =>
    let e := (d.receivers id).foldl (fun e j => e.modCore j fun c => { c with deque := t :: c.deque }) d
    ((e.modCore id fun c => { c with steal := .ready }).countSent (d.placeOf v)).countRecv id
  | .asked none => d.setCore id { c with steal := .backoff d.cycle }
  | _ => d

def execStealAnswer (core : Nat) (s : State) : Result := happen (fun d => d.stealAnswer core) s

def Device.stealExpiry (d : Device) (id : Nat) : Device :=
  match (d.core id).steal with
  | .backoff t => if Config.stealBackoff ≤ d.cycle - t then d.modCore id fun c => { c with steal := .ready } else d
  | _ => d

def execStealBackoffExpiry (core : Nat) (s : State) : Result := happen (fun d => d.stealExpiry core) s

/-! ## Terms of the rime crossbar (R273) -/

/-- DEDUCED, log entry 41. -/
def Core.satisfied (c : Core) (k : Nat) : Bool :=
  let x := c.counter k
  xThreshold x.cfg != 0 && xThreshold x.cfg ≤ x.count

/-- Counters that a mask names. -/
def maskList (m : Nat) : List Nat := (List.range 8).filter fun k => m.testBit k

def Core.termTrue (c : Core) (t : Nat) : Bool :=
  let w := (c.term t).cfg
  (xAnd w != 0 && (maskList (xAnd w)).all c.satisfied) || (maskList (xOr w)).any c.satisfied

/-- T subtracted from every satisfied counter that a term names. -/
def Core.consume (c : Core) (t : Nat) : Core :=
  let w := (c.term t).cfg
  ((List.range 8).filter fun k => (xAnd w).testBit k || (xOr w).testBit k).foldl (fun c k =>
    if c.satisfied k then
      let x := c.counter k
      { c with xcount := FMap.set c.xcount k { x with count := x.count - xThreshold x.cfg } }
    else c) c

/-- DEDUCED, log entry 41. -/
def Core.setTerm (c : Core) (t : Nat) (x : XTerm) : Core := { c with xterm := FMap.set c.xterm t x }

/-- The record of action 4. -/
def termRecord (id t : Nat) (w : Word) : Line :=
  lineOfWords [recWord0 (xHandler w) 0 1 false id, BitVec.ofNat 32 (0x100 + t), 0, 1]

/-- The record of a firing arrives, or the term holds the firing. -/
def Device.termRecordArrives (d : Device) (id t : Nat) : Device :=
  let c := d.core id
  let x := c.term t
  match d.arrive id (termRecord (c.homeId.getD id) t x.cfg) 0 with
  | some e => e.modCore id fun c => c.setTerm t { c.term t with holding := false }
  | none => d.setCore id (c.setTerm t { x with holding := true })

/-- A true term fires once. DEDUCED, log entry 41. -/
def Device.fireTerm (d : Device) (id t : Nat) : Device :=
  let x := (d.core id).term t
  if x.holding then d
  else if (d.core id).termTrue t then
    let c := (d.core id).consume t
    match xAction x.cfg with
    | 1 => d.setCore id (c.setTerm t { x with credits := min (x.credits + 1) 255 })
    | 2 => d.setCore id (c.setTerm t { x with credits := x.credits + 1 })
    | 3 => d.setCore id (c.setTerm t { x with wakes := min (x.wakes + 1) 255 })
    | 4 => (d.setCore id c).termRecordArrives id t
    | _ => d.setCore id c
  else d

/-- A cycle's evaluation from the lowest true term on, in ascending number; or the record of a held firing is offered again. -/
def Device.fireTerms (d : Device) (id t : Nat) : Device :=
  let c := d.core id
  if (c.term t).holding then d.termRecordArrives id t
  else if (List.range t).all fun j => (c.term j).holding || !c.termTrue j then
    ((List.range 8).drop t).foldl (fun d j => d.fireTerm id j) d
  else d

def execTermFire (core t : Nat) (s : State) : Result := happen (fun d => if t < 8 then d.fireTerms core t else d) s

end Sys2Proof.Machine
end

