-- ==== Sys2Proof/Machine/Engines.lean ====
section
/-!
DEFINITION. Job cards (R265, R267, R269, R271), the footprint unit (R266, R295) and the engines: copies, gathers,
collectives, suspension, retry and completion (R268, R270 to R272, R296, R337).
-/

namespace Sys2Proof.Machine

/-! ## Pushing a card (R265) -/

/-- A card goes into the command FIFO; a full FIFO acts by the form. -/
def pushCard (full : Full) (c : Card) : Exec Unit := do
  let s ← get
  if s.core.fifo.length < 8 then do
    modCore fun k => { k with fifo := k.fifo ++ [c] }
    writeBusy full 0
  else match full with
    | .busy d => writeDst d 1
    | .trap => trapN .sendfull 4
    | .stall => block

/-! ## The checks of R267 -/

def spaceOf (code core : Nat) : Space := if code = 0 then .glob else if code = 1 then .sp core else .dram

/-- The core and the offset of a scratchpad address. -/
def spAddrCore (a : DWord) : Nat := bits a 47 32
def spAddrOff (a : DWord) : Nat := bits a 17 0
def addrForm (a : DWord) : Bool := bits a 31 18 = 0 && bits a 63 48 = 0

/-- A granule-aligned address. -/
def addrAlign (a : DWord) : Exec Unit := require (a.toNat % 16 = 0) (trapN .align (bits a 31 0))
/-- A scratchpad address has its form and its span lies in that core's scratchpad. -/
def addrBound (code : Nat) (a : DWord) (n : Nat) : Exec Unit :=
  require (code ≠ 1 || (addrForm a && spAddrOff a + n ≤ spSize (spAddrCore a))) (trapN .bound (bits a 31 0))
/-- Whether a DRAM span lies in rows of the die's channels: the rows of one kind of a die are contiguous. Of an empty span
its address counts. -/
def dramOnDie (die pa n : Nat) : Bool :=
  match rowAt pa, rowAt (pa + max n 1 - 1) with
  | some a, some b => a.fixed == b.fixed && bankDie a.bank == die && bankDie b.bank == die
  | _, _ => false
/-- The member, moved here from another package, whose home id an id of that package is (R310). -/
def Device.guest (d : Device) (home : Nat × Nat) (id : Nat) : Option Nat :=
  (d.cores.find? fun x => x.2.home == some home && x.2.homeId == some id).map (·.1)
/-- The core that an id in a card names: a member moved from another package knows its team by their home ids. (DESIGN CHOICE, log
entry 31.) -/
def State.named (s : State) (id : Nat) : Option Nat :=
  match s.core.home with
  | some h => s.dev.guest h id
  | none => if isCore id then some id else none

/-- A core of the issuing die; DRAM rows of its channels; on a member moved from another package, a scratchpad alone (R310). -/
def addrPath (code : Nat) (a : DWord) (n : Nat) : Exec Unit := do
  let s ← get
  let die := dieOf s.me
  let ok : Bool := if code = 1 then (s.named (spAddrCore a)).any fun j => dieOf j == die
    else s.core.home.isNone && (code != 2 || dramOnDie die a.toNat n)
  require ok (if code = 1 then trapN .nopath (spAddrCore a) else trap .nopath a)

/-- The counter of a card: a markhor core of the issuer's partition (R250); of a member moved from another package, its
home package's (R310). -/
def counterOf (present : Bool) (owner off : Word) : Exec (Option (Nat × Nat)) := do
  let s ← get
  if present then do
    require (isMarkhor owner.toNat && (s.core.home.isSome || s.dev.partOfCore owner.toNat == s.part)) (trapW .nopath owner)
    pure (some (owner.toNat, off.toNat))
  else pure none

/-- Flags of a copy or gather card: spaces, full bits only for a scratchpad destination, reserved bits zero. -/
def cardFlagsOk (f : Word) (lastDst : Nat) : Bool :=
  bits f 1 0 ≠ 3 && bits f 3 2 ≤ lastDst && (!f.getLsbD 4 || bits f 3 2 = 1) && bits f 7 6 = 0 && bits f 31 12 = 0

/-- An address in its space as a footprint and an engine see it. -/
def engineAddr (code : Nat) (a : DWord) : Nat := if code = 1 then spAddrOff a else a.toNat

/-- What of a stream is on its way now (R295). -/
def Device.before (d : Device) (id : Nat) (hind : Bool) : Before :=
  let nbs := ([Dir.n, Dir.e, Dir.s, Dir.w].filterMap (neighbour id)).foldl (fun m nb =>
    FMap.put m nb ((d.core nb).nbq.filter fun w => w.src == id && w.hind == hind).length 0) []
  ⟨((d.core id).outstanding hind).length, nbs⟩

/-- All of it has been performed. -/
def Device.passed (d : Device) (id : Nat) (hind : Bool) (b : Before) : Bool :=
  ((((d.core id).outstanding hind).take b.accs).all fun a => !a.kind.isStore) && b.nbs.isEmpty

def newCard (s : State) (tag : Byte) (work : Work) (f : Word) (counter : Option (Nat × Nat)) (reads writes : List Foot) : Card :=
  ⟨s.me, s.hind, tag, s.baseCore.cr.ptbr.toNat, work, f.getLsbD 4, BitVec.ofNat 4 (bits f 11 8), counter, reads, writes,
    s.dev.before s.me s.hind⟩

/-- The card of a `cpq`, with its checks (R267). -/
def cpqCard (f : CpqOp) : Exec Card := do
  noRegion 0
  let n := 8 * f.n.val
  let s ← get
  let t := s.baseStream
  let src := t.pair n
  let dst := t.pair (n + 2)
  let len := t.reg (n + 4)
  let fl := t.reg (n + 5)
  let sc := bits fl 1 0
  let dc := bits fl 3 2
  require (cardFlagsOk fl 2) (trapW .bound fl)
  require (len.toNat % 16 = 0 && 16 ≤ len.toNat && len.toNat ≤ 2 ^ 24) (trapW .bound len)
  addrAlign src
  addrAlign dst
  addrBound sc src len.toNat
  addrBound dc dst len.toNat
  addrPath sc src len.toNat
  addrPath dc dst len.toNat
  let counter ← counterOf (fl.getLsbD 5) (t.reg (n + 6)) (t.reg (n + 7))
  let ss := spaceOf sc ((s.named (spAddrCore src)).getD 0)
  let ds := spaceOf dc ((s.named (spAddrCore dst)).getD 0)
  pure (newCard s f.tag (.copy ss (engineAddr sc src) ds (engineAddr dc dst) len.toNat) fl counter
    [⟨ss, engineAddr sc src, len.toNat⟩] [⟨ds, engineAddr dc dst, len.toNat⟩])

/-! ## Descriptors (R269, R271) -/

/-- The 64 bytes of a descriptor, read at issue as plain loads. -/
def readDesc (f : CardOp) : Exec (Nat × Line) := do
  let a ← readSrc f.a
  let o := (a + f.off).toNat
  aligned o 64 (BitVec.ofNat 64 o)
  spBound o 64
  spClean o 64
  spDisc o 64
  let s ← get
  pure (o, BitVec.ofNat 512 (s.core.spNat o 64))

def descPair (d : Line) (k : Nat) : DWord := lineWord d (k + 1) ++ lineWord d k

/-- The card of a `gath`, with its checks (R269). -/
def gathCard (f : CardOp) : Exec Card := do
  noRegion 0
  let (o, d) ← readDesc f
  let w (k : Nat) : Nat := (lineWord d k).toNat
  let fl := lineWord d 8
  let sc := bits fl 1 0
  let dc := bits fl 3 2
  let table := descPair d 0
  let dst := descPair d 6
  let size := w 2 * w 3
  require (cardFlagsOk fl 1 && w 3 % 16 = 0 && 16 ≤ w 3 && w 3 ≤ 4096 && w 4 % 4 = 0 && 1 ≤ w 5 && w 5 ≤ 4096 &&
    w 12 = 0 && w 13 = 0 && w 14 = 0) (trapN .bound o)
  let s ← get
  let lastByte : Nat := if sc = 1 then spSize (spAddrCore table) else 2 ^ 64
  let tableLen := if size < 2 ^ 32 then size else lastByte - engineAddr sc table
  addrAlign table
  addrAlign dst
  addrBound sc table tableLen
  require (w 4 + 4 * w 5 ≤ spSize s.me) (trapN .bound (w 4))
  addrBound dc dst (w 5 * w 3)
  addrPath sc table (if size < 2 ^ 32 then size else 1)
  addrPath dc dst (w 5 * w 3)
  let counter ← counterOf (fl.getLsbD 5) (lineWord d 10) (lineWord d 11)
  let ss := spaceOf sc ((s.named (spAddrCore table)).getD 0)
  let ds := spaceOf dc ((s.named (spAddrCore dst)).getD 0)
  pure (newCard s f.tag
    (.gather ss (engineAddr sc table) (w 2) (w 3) (w 4) (w 5) ds (engineAddr dc dst) (lineWord d 9) o) fl counter
    [⟨.sp s.me, w 4, 4 * w 5⟩, ⟨ss, engineAddr sc table, tableLen⟩]
    [⟨ds, engineAddr dc dst, w 5 * w 3⟩, ⟨.sp s.me, o + 48, 16⟩])

/-- The card of a `coll`, with its checks (R271). -/
def collCard (f : CardOp) : Exec Card := do
  noRegion 0
  let (o, d) ← readDesc f
  let w (k : Nat) : Nat := (lineWord d k).toNat
  let h := lineWord d 0
  let fl := lineWord d 5
  let kind := bits h 3 0
  let op := bits h 7 4
  let m := bits h 15 8
  let rank := bits h 23 16
  let n := w 4
  require (kind ≤ 2 && op ≤ 3 && (op = 0 || kind = 1) && 2 ≤ m && m ≤ 32 && rank < m && bits h 31 24 = 0 &&
    w 2 % 16 = 0 && w 3 % 16 = 0 && 1 ≤ n && n ≤ 4096 && bits fl 3 0 = 0 && bits fl 7 6 = 0 && bits fl 31 12 = 0 &&
    ((List.range 7).all fun k => w (8 + k) = 0)) (trapN .bound o)
  let s ← get
  let outLen := if kind = 2 then 4 * n * m else 4 * n
  require (w 2 + 4 * n ≤ spSize s.me) (trapN .bound (w 2))
  require (w 3 + outLen ≤ spSize s.me) (trapN .bound (w 3))
  let counter ← counterOf (fl.getLsbD 5) (lineWord d 6) (lineWord d 7)
  pure (newCard s f.tag (.coll kind op m rank (lineWord d 1) (w 2) (w 3) n o) fl counter
    [⟨.sp s.me, w 2, 4 * n⟩] [⟨.sp s.me, w 3, outLen⟩, ⟨.sp s.me, o + 48, 16⟩])

/-- A card checked, then pushed. -/
def cardForm (full : Full) (m : Exec Card) : Exec Unit := do
  let c ← m
  pushCard full c

def execCpq (f : CpqOp) (s : State) : Result := run (do precheck (.cpq f); cardForm f.full (cpqCard f)) s
def execGath (f : CardOp) (s : State) : Result := run (do precheck (.gath f); cardForm f.full (gathCard f)) s
def execColl (f : CardOp) (s : State) : Result := run (do precheck (.coll f); cardForm f.full (collCard f)) s

/-! ## The footprint unit (R266, R273, R295) -/

def Device.modJob (d : Device) (k : Nat) (f : Job → Job) : Device := { d with jobs := d.jobs.modify k f }

def newJob (die : Nat) (c : Card) : Job := ⟨die, c, .unit, 0, none, none, none, [], false, false, false, false, 0⟩

/-- The head card enters the unit: what its stream issued before it is performed, the unit has room, and the gate allows it.
(DEDUCED, log entry 44.) -/
def Device.cardLeaves (d : Device) (id : Nat) : Device :=
  let c := d.core id
  match c.fifo with
  | card :: t =>
    if (d.jobs.filter fun j => j.die == dieOf id).length < 512 ∧ d.passed id card.hind card.before then
      match c.spend 2 with
      | some c => { d.setCore id { c with fifo := t } with jobs := d.jobs ++ [newJob (dieOf id) card] }
      | none => d
    else d
  | [] => d

def execCardLeavesFifo (core : Nat) (s : State) : Result := happen (fun d => d.cardLeaves core) s

/-- Two ranges share a byte once widened to whole lines, in one space. -/
def Foot.meets (a b : Foot) : Bool :=
  a.space == b.space && a.len != 0 && b.len != 0 &&
  decide (a.base / 64 ≤ (b.base + b.len - 1) / 64) && decide (b.base / 64 ≤ (a.base + a.len - 1) / 64)

/-- Overlap of two cards' ranges; global ranges meet only under one page table. -/
def footsMeet (a : Card) (x : List Foot) (b : Card) (y : List Foot) : Bool :=
  x.any fun p => y.any fun q => p.meets q && (p.space != .glob || a.ptbr == b.ptbr)

/-- RAW, WAW or WAR of a job against an earlier one. -/
def Job.behind (j e : Job) : Bool :=
  footsMeet j.card j.card.reads e.card e.card.writes || footsMeet j.card j.card.writes e.card e.card.writes ||
  footsMeet j.card j.card.writes e.card e.card.reads

/-- Which inbox a card goes to: the kind of its engine, and the cluster or the collective engine. (DEDUCED, log entry 45.) -/
def Card.engine (c : Card) : Nat × Nat :=
  match c.work with
  | .copy .. => (0, pkgCluster c.core)
  | .gather .. => (1, pkgCluster c.core)
  | .coll _ _ _ _ key .. => (2, 8 * dieOf c.core + key.toNat % 8)

def Card.key (c : Card) : Word :=
  match c.work with
  | .coll _ _ _ _ key .. => key
  | _ => 0

/-- The member count of a collective card. -/
def Card.members (c : Card) : Nat :=
  match c.work with
  | .coll _ _ m .. => m
  | _ => 0

/-- Jobs in an engine's inbox. -/
def Device.inbox (d : Device) (e : Nat × Nat) : List Job := d.jobs.filter fun j => j.stage == .inbox && j.card.engine == e

/-- Room for a card: four copy inboxes of 16, a gather inbox of 16; a collective engine takes a card of an open group
that is not complete, or opens one of four groups. (DEDUCED, log entry 45.) -/
def Device.inboxRoom (d : Device) (c : Card) : Bool :=
  let l := d.inbox c.engine
  if c.engine.1 = 0 then l.length < 64
  else if c.engine.1 = 1 then l.length < 16
  else
    let group := l.filter fun j => j.card.key == c.key
    match group with
    | j :: _ => decide (group.length < j.card.members)
    | [] => decide (((l.map fun j => j.card.key).eraseDups).length < 4)

/-- A job of the unit with no earlier unfinished job that it overlaps enters its inbox. -/
def Device.enterInbox (d : Device) (k : Nat) : Device :=
  match d.jobs[k]? with
  | some j =>
    if j.stage = .unit ∧ ((d.jobs.take k).all fun e => e.die != j.die || !j.behind e) ∧ d.inboxRoom j.card then
      d.modJob k fun j => { j with stage := .inbox }
    else d
  | none => d

def execJobEntersInbox (k : Nat) (s : State) : Result := happen (fun d => d.enterInbox k) s

/-! ## Granules (R268, R296, R337) -/

/-- What an engine's access to a granule gives: a wait and a fault keep the pages that it has translated. -/
inductive Gran (α : Type)
  | ok (v : α) | wait (d : Device) | fault (d : Device) (c : Cause) (addr : Nat)

/-- An access of an engine to a page that it has translated; the page of one that faults is translated anew when the job is
tried again (R337). -/
def Device.enginePage (d : Device) (k addr : Nat) (a : Acc) (e : TlbEntry) : Gran (Nat × Device) :=
  let pa := e.addr (va52 (BitVec.ofNat 64 addr))
  let fault (c : Cause) : Gran (Nat × Device) := .fault (d.modJob k fun j => { j with pages := j.pages.filter (· ≠ e) }) c addr
  if !e.allows a then fault .prot
  else match targetCause pa with
    | some c => fault c
    | none => .ok (pa, d)

/-- A global address for job `k`: its page is translated with the card's page table when the engine first reaches it, whatever
the size of its leaf (R268). (DEDUCED, log entry 48.) -/
def Device.engineTranslate (d : Device) (k addr : Nat) (a : Acc) : Gran (Nat × Device) :=
  let va := BitVec.ofNat 64 addr
  match d.jobs[k]? with
  | none => .wait d
  | some j =>
    if !canonical va then .fault d .page addr
    else match j.pages.find? fun e => e.covers (va52 va) with
      | some e => d.enginePage k addr a e
      | none =>
        match d.walkNow (dieOf j.card.core) j.card.ptbr (va52 va) with
        | none => .wait d
        | some (none, d) => .fault d .page addr
        | some (some e, d) => (d.modJob k fun j => { j with pages := j.pages ++ [e] }).enginePage k addr a e

/-- A granule read for job `k`: its bytes and its poison. A line's home on another die is reached once nothing is on its way
between the two (R293). -/
def Device.readGran (d : Device) (k : Nat) (c : Card) (sp : Space) (addr : Nat) : Gran ((Nat × Bool) × Device) :=
  match sp with
  | .glob =>
    match d.engineTranslate k addr .rd with
    | .ok (pa, d) =>
      if d.linkIdle (dieOf c.core) pa then
        .ok ((readLE d.mem pa 16, (d.homeBad pa 16).isSome), (d.countCross (dieOf c.core) pa).touchHome pa)
      else .wait d
    | .wait d => .wait d
    | .fault d x a => .fault d x a
  | .sp id => .ok ((readLE (d.core id).sp addr 16, ((d.core id).spBad addr 16).isSome), d)
  | .dram =>
    match rowAt addr with
    | some r =>
      if bankDie r.bank ≠ dieOf c.core then .fault d .nopath addr
      else if !d.bankFree r.bank then .wait d
      else if (d.homeBad addr 16).isSome then .fault d .poison addr
      else .ok ((readLE d.mem addr 16, false), d)
    | none => .fault d .nopath addr

/-- Bytes written at a scratchpad port by an engine, with the card's tag; a twin receives them too. -/
def Device.portWrite (d : Device) (id off : Nat) (bs : List Byte) (fill : Bool) (tag : BitVec 4) (bad : Bool) : Device :=
  (d.receivers id).foldl (fun d id => d.modCore id fun c => c.spStore id off bs fill (some tag) bad) d

/-- An engine's write at a line's home: the line's mode acts on the copies (R296), E of an egress slot stays. (DEDUCED, log entry 48.) -/
def Device.engineStore (d : Device) (pa : Nat) (bs : List Byte) (bad : Bool) : Device :=
  let d := if d.invalidates pa then d.invalidateOthers none (pa / 64) else d
  let kept := bs.mapIdx fun i b => if d.isEgressE (pa + i) then readByte d.mem (pa + i) else b
  ((d.touchHome pa).poke pa kept bad).bump pa

/-- A granule written for job `k`; one of a read-shared line is a PROT fault (R296). -/
def Device.writeGran (d : Device) (k : Nat) (c : Card) (sp : Space) (addr v : Nat) (bad : Bool) : Gran Device :=
  match sp with
  | .glob =>
    match d.engineTranslate k addr .wr with
    | .ok (pa, d) =>
      if d.modeAt pa = some 0 then .fault d .prot addr
      else if d.locked pa || !d.linkIdle (dieOf c.core) pa then .wait d
      else .ok ((d.countCross (dieOf c.core) pa).engineStore pa (leBytes 16 v) bad)
    | .wait d => .wait d
    | .fault d x a => .fault d x a
  | .sp id => .ok (d.portWrite id addr (leBytes 16 v) c.setFull c.layout bad)
  | .dram =>
    match rowAt addr with
    | some r => if d.bankFree r.bank then .ok (d.poke addr (leBytes 16 v) bad) else .wait d
    | none => .fault d .nopath addr

/-- A granule moved. -/
def Device.moveGran (d : Device) (k : Nat) (c : Card) (src : Space) (sa : Nat) (dst : Space) (da : Nat) : Gran Device :=
  match d.readGran k c src sa with
  | .ok ((v, bad), d) => d.writeGran k c dst da v bad
  | .wait d => .wait d
  | .fault d x a => .fault d x a

/-- The JOBFAULT notice of a job (R333). -/
def Job.faultNotice (j : Job) (c : Cause) (addr : Nat) : Line :=
  noticeRecord .jobfault j.card.core
    [BitVec.ofNat 32 (causeCode c), BitVec.ofNat 32 addr, BitVec.ofNat 32 (addr / 2 ^ 32), BitVec.ofNat 32 j.progress,
     BitVec.ofNat 32 (j.card.tag.toNat + j.card.core * 65536)]

/-- Job `k` suspends, and its JOBFAULT notice is sent (R333, R337). -/
def Device.suspendJob (d : Device) (k : Nat) (c : Cause) (addr : Nat) : Device :=
  match d.jobs[k]? with
  | some j =>
    let r := j.faultNotice c addr
    (d.modJob k fun j => { j with fault := some c, notice := some r, served := false }).notify (d.partOf j.die) ⟨false, r⟩
  | none => d

/-- One granule of a copy. -/
def Device.copyStep (d : Device) (k : Nat) (j : Job) : Device :=
  match j.card.work with
  | .copy src sa dst da len =>
    match d.moveGran k j.card src (sa + 16 * j.progress) dst (da + 16 * j.progress) with
    | .ok d => d.modJob k fun j =>
        { j with progress := j.progress + 1, stage := if len ≤ 16 * (j.progress + 1) then .done else .inbox }
    | .wait d => d
    | .fault d c a => d.suspendJob k c a
  | _ => d

/-- Whether an engine works on a job now. -/
def Job.runs (j : Job) : Bool := j.stage == .inbox && j.fault.isNone

def execCopyGranule (k : Nat) (s : State) : Result :=
  happen (fun d => match d.jobs[k]? with
    | some j => if j.runs then d.copyStep k j else d
    | none => d) s

/-! ## Gathers (R270) -/

/-- The rest of an element's granules, in ascending order; it stops at a fault, or where a bank must be waited for. -/
def Device.gatherGrans (k : Nat) (card : Card) (gran : Device → Nat → Gran Device) : Nat → Device → Device
  | 0, d => d.modJob k fun j => { j with index := none }
  | n + 1, d =>
    match d.jobs[k]? with
    | some j =>
      match gran d j.progress with
      | .ok d => Device.gatherGrans k card gran n (d.modJob k fun j => { j with progress := j.progress + 1 })
      | .wait d => d
      | .fault d c a => d.suspendJob k c a
    | none => d

/-- Four words of a fill value. -/
def fillGran (w : Word) : Nat := w.toNat * (1 + 2 ^ 32 + 2 ^ 64 + 2 ^ 96)

/-- One element of a gather: its index word is read once. (DEDUCED, log entry 47.) -/
def Device.gatherStep (d : Device) (k : Nat) (j : Job) : Device :=
  match j.card.work with
  | .gather src base entries size list count dst da fill _ =>
    let per := size / 16
    let i := j.progress / per
    let idx := j.index.getD ((d.core j.card.core).portWord (list + 4 * i))
    let listBad := ((d.core j.card.core).spBad (list + 4 * i) 4).isSome
    let inside := decide (idx.toNat < entries)
    let d := d.modJob k fun j => { j with index := some idx, outOfRange := j.outOfRange || !inside }
    let gran (d : Device) (p : Nat) : Gran Device :=
      if inside then
        match d.readGran k j.card src (base + idx.toNat * size + 16 * (p % per)) with
        | .ok ((v, bad), d) => d.writeGran k j.card dst (da + 16 * p) v (bad || listBad)
        | .wait d => .wait d
        | .fault d x a => .fault d x a
      else d.writeGran k j.card dst (da + 16 * p) (fillGran fill) listBad
    let d := Device.gatherGrans k j.card gran (per - j.progress % per) d
    d.modJob k fun j => if j.progress = count * per then { j with stage := .done } else j
  | _ => d

def execGatherElement (k : Nat) (s : State) : Result :=
  happen (fun d => match d.jobs[k]? with
    | some j => if j.runs then d.gatherStep k j else d
    | none => d) s

/-! ## Collectives (R271) -/

/-- A source's elements with their poison. -/
def Device.collSource (d : Device) (c : Card) : List (Word × Bool) :=
  match c.work with
  | .coll _ _ _ _ _ src _ n _ =>
    (List.range n).map fun i => ((d.core c.core).portWord (src + 4 * i), ((d.core c.core).spBad (src + 4 * i) 4).isSome)
  | _ => []

def Card.rank (c : Card) : Nat :=
  match c.work with
  | .coll _ _ _ rank .. => rank
  | _ => 0

/-- Whether two cards of a group agree in kind, operator, member count and element count. (DEDUCED, log entry 46.) -/
def Card.agrees (a b : Card) : Bool :=
  match a.work, b.work with
  | .coll k o m _ _ _ _ n _, .coll k' o' m' _ _ _ _ n' _ => k == k' && o == o' && m == m' && n == n'
  | _, _ => false

/-- The element operator, with its flags. -/
def collOp (op : Nat) (a b : Word) : Word × Flags :=
  match op with
  | 0 => (a + b, 0)
  | 1 => wordOf (deliver fp32 .rne (addVal .rne (f32 a) (f32 b)))
  | 2 => (minS a b, 0)
  | _ => (maxS a b, 0)

/-- Element by element: values, poison and flags so far. -/
def collFold (op : Nat) (a b : List (Word × Bool)) : List (Word × Bool) × Flags :=
  let l := (a.zip b).map fun p => (collOp op p.1.1 p.2.1, p.1.2 || p.2.2)
  (l.map fun x => (x.1.1, x.2), l.foldl (fun f x => f ||| x.1.2) 0)

def collReduce (op : Nat) : List (Word × Bool) → List (List (Word × Bool)) → List (Word × Bool) × Flags
  | a, [] => (a, 0)
  | a, b :: t =>
    let r := collFold op a b
    let u := collReduce op r.1 t
    (u.1, r.2 ||| u.2)

/-- Elements written into a scratchpad, a granule at a time. -/
def Device.collWrite (c : Card) (off : Nat) : Nat → List (Word × Bool) → Device → Device
  | 0, _, d => d
  | fuel + 1, l, d =>
    if l = [] then d
    else
      let g := l.take 4
      let d := d.portWrite c.core off (g.flatMap fun x => leBytes 4 x.1.toNat) c.setFull c.layout (g.any (·.2))
      Device.collWrite c (off + 16) fuel (l.drop 4) d

def Card.collDst (c : Card) : Nat :=
  match c.work with
  | .coll _ _ _ _ _ _ dst _ _ => dst
  | _ => 0

/-- The result of a group, by its cards in ascending rank. -/
def collResult (kind op : Nat) (srcs : List (List (Word × Bool))) : List (Word × Bool) × Flags :=
  match kind, srcs with
  | 0, a :: _ => (a, 0)
  | 1, a :: t => collReduce op a t
  | 2, l => (l.flatten, 0)
  | _, _ => ([], 0)

/-- The group of an engine that job `k` is the oldest card of, once it has as many cards as that card names. (DEDUCED, log entry 46.) -/
def Device.collGroup (d : Device) (k : Nat) : Option (List Nat) :=
  match d.jobs[k]? with
  | some j =>
    let mem := (List.range d.jobs.length).filter fun i => match d.jobs[i]? with
      | some x => x.stage == .inbox && x.card.engine == j.card.engine && x.card.key == j.card.key && x.card.engine.1 == 2
      | none => false
    if mem.head? = some k ∧ j.card.members ≤ mem.length then some (mem.take j.card.members) else none
  | none => none

/-- DEDUCED, log entry 46. -/
def Device.collExecute (d : Device) (k : Nat) : Device :=
  match d.collGroup k with
  | some mem =>
    let cards := mem.filterMap fun i => (d.jobs[i]?).map (·.card)
    match cards with
    | c :: _ =>
      let ranks := cards.map Card.rank
      if (cards.all c.agrees) && decide ranks.Nodup then
        let ordered := (List.range c.members).filterMap fun r => cards.find? fun x => x.rank == r
        let (kind, op) : Nat × Nat := match c.work with
          | .coll kind op .. => (kind, op)
          | _ => (3, 0)
        let (out, fl) := collResult kind op (ordered.map d.collSource)
        let d := ordered.foldl (fun d x => Device.collWrite x x.collDst out.length out d) d
        mem.foldl (fun d i => d.modJob i fun j => { j with stage := .done, flags := fl }) d
      else mem.foldl (fun d i => d.modJob i fun j => { j with stage := .done, groupError := true }) d
    | [] => d
  | none => d

def execCollectiveGroupExecute (k : Nat) (s : State) : Result := happen (fun d => d.collExecute k) s

/-! ## Retry and completion (R272, R337) -/

/-- A suspended job whose notice has been served tries its granule again. (DEDUCED, log entry 47.) -/
def Device.retryJob (d : Device) (k : Nat) : Device :=
  match d.jobs[k]? with
  | some j =>
    if j.fault.isSome ∧ j.served then
      let d := d.modJob k fun j => { j with fault := none, notice := none, served := false }
      match j.card.engine.1 with
      | 0 => d.copyStep k j
      | 1 => d.gatherStep k j
      | _ => d
    else d
  | none => d

def execJobRetry (k : Nat) (s : State) : Result := happen (fun d => d.retryJob k) s

/-- The descriptor of a gather or collective card. -/
def Card.desc (c : Card) : Option Nat :=
  match c.work with
  | .copy .. => none
  | .gather _ _ _ _ _ _ _ _ _ o => some o
  | .coll _ _ _ _ _ _ _ _ o => some o

/-- The status word of a completed card. (DEDUCED, log entry 49.) -/
def Job.status (j : Job) : Word :=
  BitVec.ofNat 32 (1 + 2 * j.outOfRange.toNat + 4 * j.groupError.toNat + 256 * j.flags.toNat)

/-- Step 1 of a completion: the status word, written once. (DEDUCED, log entry 49.) -/
def Device.reportJob (d : Device) (k : Nat) (j : Job) : Device :=
  match (if j.reported then none else j.card.desc) with
  | some o => (d.portWrite j.card.core (o + 60) (leBytes 4 j.status.toNat) false j.card.layout false).modJob k fun j => { j with reported := true }
  | none => d

/-- The core that a counter's owner is, as the issuing core names it: here, or in another package, of which the number is
answered (R309, R310). -/
def Device.ownerOf (d : Device) (issuer owner : Nat) : Nat ⊕ Nat :=
  match (d.core issuer).home with
  | some h =>
    match d.guest h owner with
    | some id => .inl id
    | none => .inr h.1
  | none =>
    match d.awayOf owner with
    | some pkg => .inr pkg
    | none => .inl (d.placeOf owner)

/-- Step 2: the counter's decrement; none while it is refused. In another package it is a message, which takes a number once
it is accepted. (DESIGN CHOICE, log entry 29.) -/
def Device.decrementFor (d : Device) (issuer : Nat) : Option (Nat × Nat) → Option Device
  | none => some d
  | some (owner, off) =>
    match d.ownerOf issuer owner with
    | .inl id => d.decrementAt id ((d.core issuer).homeId.getD issuer) off
    | .inr pkg =>
      if (d.fabricGroup pkg).isSome && Config.fabricAccepts d.tick then some (d.numbered pkg (FMap.get d.fabSent pkg 0)) else none

/-- The links that the decrement of a card's counter uses, accepted or not: to the owner's die, or a fabric group to its package
(R347). -/
def Device.counterUse (d : Device) (issuer : Nat) : Option (Nat × Nat) → Device
  | none => d
  | some (owner, _) =>
    match d.ownerOf issuer owner with
    | .inl id => d.useDies (d.partOfCore issuer) (dieOf issuer) (dieOf id)
    | .inr pkg =>
      match d.fabricGroup pkg with
      | some g => d.useLink (d.partOfCore issuer) (.group g)
      | none => d

/-- Completion: the status, the counter, the pulse, which both cores of a twin pair receive (R346), and the footprints released;
without the counter's acceptance the job stays. -/
def Device.completeJob (d : Device) (k : Nat) : Device :=
  match d.jobs[k]? with
  | some j =>
    if j.stage = .done then
      let id := j.card.core
      let d := (d.reportJob k j).counterUse id j.card.counter
      match d.decrementFor id j.card.counter with
      | some d => { (d.receivers id).foldl (fun d i => d.modCore i fun c => c.pulse 1 j.card.tag.toNat) d with jobs := d.jobs.eraseIdx k }
      | none => d
    else d
  | none => d

def execJobComplete (k : Nat) (s : State) : Result := happen (fun d => d.completeJob k) s

end Sys2Proof.Machine
end

