-- ==== Sys2Proof/Machine/MemEvents.lean ====
section
/-!
DEFINITION. The events of memory: a load returns, a store is performed (R280 to R282), a release query is answered (R84,
R286), a neighbour write arrives (R134), a walk reads a level (R211).
-/

namespace Sys2Proof.Machine

/-! ## Global accesses -/

/-- An outstanding access that no earlier one to its bank holds back (R281). -/
def Core.nextAccess (c : Core) (hind : Bool) (k : Nat) : Option Access :=
  let l := c.outstanding hind
  if firstOf (l.map fun a => homeSlice a.pa) k then l[k]? else none

/-- The stream that issued outstanding access `k` changes: the suspended one's come first. -/
def Core.modIssuer (c : Core) (hind : Bool) (k : Nat) (f : Stream → Stream) : Core :=
  match c.susp with
  | some p =>
    if k < (if hind then p.hind else p.fore).acc.length then
      { c with susp := some (if hind then { p with hind := f p.hind } else { p with fore := f p.fore }) }
    else c.modStream hind f
  | none => c.modStream hind f

/-- Access number `k` changed where it stands. -/
def Core.modAccess (c : Core) (hind : Bool) (k : Nat) (f : Access → Access) : Core :=
  match c.susp with
  | some p =>
    let n := (if hind then p.hind else p.fore).acc.length
    c.modIssuer hind k fun t => { t with acc := t.acc.modify (if k < n then k else k - n) f }
  | none => c.modStream hind fun t => { t with acc := t.acc.modify k f }

/-- Before an access that is performed at a home on another die: the cluster's dirty bytes of the line leave as a message of their
own, counted in the round, and the copy stays clean (R280). -/
def Device.backFirst (d : Device) (id pa : Nat) : Device :=
  match (if remote id pa then d.copy (pkgCluster id) (pa / 64) else none) with
  | some l =>
    if l.mask = 0 then d
    else ((d.putCopy (pkgCluster id) { l with mask := 0 }).sendPacket (dieOf id) (homeDie pa)
      (.writeBack (64 * l.ln) l.data l.mask l.poison (some (id, (d.core id).round)))).modCore id fun c =>
        { c with sentTo := bumpCount c.sentTo (homeSlice pa) c.round }
  | none => d

/-- An access to a home on another die leaves with the next number of its pair of dies (R293), behind the write-back of its line's
dirty bytes, so that it is performed after that (R280, R282): with a copy in the cluster only an access at the home crosses. -/
def Device.sendAccess (d : Device) (id : Nat) (hind : Bool) (k : Nat) (a : Access) : Device :=
  let d := d.backFirst id a.pa
  let n := d.sent (dieOf id) (homeDie a.pa)
  (d.sendPacket (dieOf id) (homeDie a.pa) (.access id hind)).modCore id fun c => c.modAccess hind k fun a => { a with seq := some n }

/-- What a load reads at its place. -/
def Device.readAccess (d : Device) (id : Nat) (a : Access) : Nat × Device :=
  if a.kind = .volLoad then d.loadHome id a.pa a.n else d.loadPlain id a.pa a.n

/-- Whether outstanding access `k` is of the suspended activation. -/
def Core.ofSuspended (c : Core) (hind : Bool) (k : Nat) : Bool :=
  match c.susp with
  | some p => k < (if hind then p.hind else p.fore).acc.length
  | none => false

/-- The loads behind access `k` of the stream that issued it, the youngest first. -/
def Core.loadsBehind (c : Core) (hind : Bool) (k : Nat) : List Nat :=
  let l := c.outstanding hind
  ((List.range l.length).filter fun j =>
    k < j && c.ofSuspended hind j == c.ofSuspended hind k && (match l[j]? with
      | some a => !a.kind.isStore
      | none => false)).reverse

/-- Load `k` has come back poisoned (R339): neither it nor a load behind it writes a register. Its stream takes POISON at its next
turn; a stream of a suspended activation is kept at the load's group, which issues again with those behind it (R329). (DEDUCED,
log entry 10.) -/
def Core.strikeLoad (c : Core) (hind : Bool) (k : Nat) (pc tval : DWord) : Core :=
  let f (t : Stream) : Stream := if c.ofSuspended hind k then t.reissueAt pc else { t with struck := some (pc, tval) }
  (((c.loadsBehind hind k).foldl (fun c j => c.dropAccess hind j) c).modIssuer hind k f).dropAccess hind k

/-- Load `k` comes back: its value is written to its registers, or it has been struck. (DEDUCED, log entry 10.) -/
def Device.deliverLoad (d : Device) (id : Nat) (hind : Bool) (k : Nat) (a : Access) (v : Nat) (poison : BitVec 4) : Device :=
  d.modCore id fun c =>
    match badOf poison a.pa a.n with
    | some b => c.strikeLoad hind k a.pc (vaOf ((BitVec.ofNat 52 a.va).signExtend 64) a.pa b)
    | none => (c.modIssuer hind k fun t => t.putLoad a.dst a.signed v).dropAccess hind k

/-- A load is performed and its registers are written; one whose line is homed on another die, and which no copy serves,
sends its message first. -/
def Device.loadReturns (d : Device) (id : Nat) (hind : Bool) (k : Nat) : Device :=
  match (d.core id).nextAccess hind k with
  | some a =>
    if a.kind.isStore || a.seq.isSome then d
    else if d.accessCrosses id a.kind a.pa then d.sendAccess id hind k a
    else
      let p := d.loadPoison id a.pa (a.kind == .volLoad)
      let (v, d) := d.readAccess id a
      d.deliverLoad id hind k a v p
  | none => d

def execGlobalLoadReturn (core : Nat) (hind : Bool) (k : Nat) (s : State) : Result :=
  happen (fun d => d.loadReturns core hind k) s

/-- Poison that a store's data took on its way (R338): at the copy that the store has been merged into, or at the home. -/
def Device.taintStore (d : Device) (id : Nat) (a : Access) (atCopy : Bool) : Device :=
  if a.poison = 0 then d
  else match (if atCopy then d.copy (pkgCluster id) (a.pa / 64) else none) with
    | some l => d.putCopy (pkgCluster id) { l with poison := l.poison ||| a.poison }
    | none => d.taint a.pa a.poison

/-- Store `k` is performed at its place and counted there (R84). A `.vol` store leaves the line without a scope record (R291). -/
def Device.performStore (d : Device) (id : Nat) (hind : Bool) (k : Nat) (a : Access) : Device :=
  let bs := leBytes a.n a.data.toNat
  let e := if a.kind = .volStore then (d.storeHome id a.pa bs).scopeClear (a.pa / 64) else d.storePlain id a.pa bs
  (e.taintStore id a (a.kind == .store && d.storesAtCopy id a.pa)).modCore id fun c =>
    { c.dropAccess hind k with counted := bumpCount c.counted a.slice a.round }

/-- A store is performed at its place; one to a locked line waits (R218); one whose place is on another die sends its
message first, and once that has arrived it is answered (R293). -/
def Device.storeArrives (d : Device) (id : Nat) (hind : Bool) (k : Nat) : Device :=
  match (d.core id).nextAccess hind k with
  | some a =>
    if !a.kind.isStore then d
    else if a.seq.isSome then
      if a.arrived && !d.locked a.pa then (d.performStore id hind k a).sendPacket (homeDie a.pa) (dieOf id) .ack else d
    else if d.accessCrosses id a.kind a.pa then d.sendAccess id hind k a
    else if d.locked a.pa then d
    else d.performStore id hind k a
  | none => d

def execAccessAtHome (core : Nat) (hind : Bool) (k : Nat) (s : State) : Result :=
  happen (fun d => d.storeArrives core hind k) s

/-! ## Release queries -/

/-- Every slice of a query's instance that counted the core's traffic of the round has all of it. (DEDUCED, log entry 73.) -/
def Device.countsMatch (d : Device) (id : Nat) (q : Query) : Bool :=
  let c := d.core id
  (c.sentTo.filter fun x => x.round == q.round && q.inst.hasSlice x.slice).all fun x =>
    countAt c.counted x.slice x.round == x.n

/-- The answer to the core's open query: it unblocks its stream, unless it is abandoned. -/
def Device.queryReply (d : Device) (id : Nat) : Device :=
  let c := d.core id
  match c.queries.find? fun q => !q.answered with
  | some q =>
    if d.countsMatch id q then
      let rest := c.queries.filter (·.answered)
      let old (l : List SliceCount) : List SliceCount := l.filter fun x => x.round != q.round || countAt c.counted x.slice x.round != countAt c.sentTo x.slice x.round
      d.setCore id { c with queries := if q.abandoned then rest else rest ++ [{ q with answered := true }],
                            sentTo := old c.sentTo, counted := old c.counted }
    else d
  | none => d

def execReleaseQueryReply (core : Nat) (s : State) : Result := happen (fun d => d.queryReply core) s

/-! ## Neighbour writes -/

/-- A write to a neighbour is done: a card behind it waits for one fewer (R295). -/
def Core.passNb (c : Core) (hind : Bool) (nb : Nat) : Core :=
  { c with fifo := c.fifo.map fun x =>
      if x.hind = hind then { x with before := { x.before with nbs := FMap.put x.before.nbs nb (FMap.get x.before.nbs nb 0 - 1) 0 } } else x }

/-- The oldest granule write on its way to a core's scratchpad port is performed with its full bit; its KiB's tag becomes 0. -/
def Device.nbArrives (d : Device) (id : Nat) : Device :=
  match (d.core id).nbq with
  | w :: t =>
    (d.modCore id fun c => { c.spStore id w.off (leBytes w.n w.data.toNat) w.fill (some 0) w.poison with nbq := t }).modCore w.src
      fun c => c.passNb w.hind id
  | [] => d

def execNeighbourWriteArrival (core : Nat) (s : State) : Result := happen (fun d => d.nbArrives core) s

/-! ## Walks -/

/-- A finished walk: the TLB of every core whose miss folded into it is filled, or the failure is noted there (DEDUCED,
log entry 15); not where `k.ptbr` has been written since (DESIGN CHOICE, log entry 113). -/
def Device.endWalk (d : Device) (k : Nat) (w : Walk) (e : Option TlbEntry) : Device :=
  let d := { d with walks := d.walks.eraseIdx k }
  w.reqs.foldl (fun d id => d.modCore id fun c =>
    if c.cr.ptbr.toNat ≠ w.ptbr then c
    else match e with
      | some e => c.tlbUse e
      | none => { c with walkFail := insertNat c.walkFail w.page }) d

/-- A level read at its home; it waits for messages between the walker's die and the home's (R293). (DEDUCED, log entry 15.) -/
def Device.walkStep (d : Device) (k : Nat) : Device :=
  match d.walks[k]? with
  | some w =>
    let va := 32768 * w.page
    let at_ := w.table + 8 * walkIndex w.level va
    if !d.linkIdle w.die at_ then d
    else
      let d := (d.countCross w.die at_).touchLevel w.level w.table va
      match d.walkLevel w.level w.table va with
      | .pointer t => { d with walks := d.walks.modify k fun w => { w with level := w.level + 1, table := t } }
      | .leaf e => d.endWalk k w (some e)
      | .fail => d.endWalk k w none
  | none => d

def execPageWalkLevel (k : Nat) (s : State) : Result := happen (fun d => d.walkStep k) s

end Sys2Proof.Machine
end

