-- ==== Sys2Proof/Machine/MxuEvents.lean ====
section
/-!
DEFINITION. The matrix unit at work (R105, R111, R114, R115, R159, R167, R172, R175 to R179), the row links, the governor,
and the completion of vector instructions (R129, R273).
-/

namespace Sys2Proof.Machine

/-! ## Sums (R105, R110, R111, R114, R115) -/

/-- A BF16 or FP16 input, with subnormals replaced by a zero of the same sign. -/
def flushed (f : FFmt) (x : Nat) : FVal :=
  if x / 2 ^ f.fbits % 2 ^ f.ebits = 0 then .fin (2 ^ (f.ebits + f.fbits) ≤ x) 0 0 else unpack f x

/-- A PS8 weight times 64. -/
def ps8Term (s : Bool) (c : Nat) (x : Int) : Int :=
  if c = 7 then 0 else if s then -(x * 2 ^ (6 - c)) else x * 2 ^ (6 - c)
def ps8Product (w : Nat) (x : Int) : Int :=
  ps8Term (w / 128 % 2 = 1) (w / 16 % 8) x + ps8Term (w / 8 % 2 = 1) (w % 8) x

/-- The exact sum of one group of four products, rounded once. -/
def groupSum (l : List (FVal × FVal)) : Nat :=
  match l with
  | [] => 0
  | p :: t =>
    let x := t.foldl (fun acc q => (addVal .rne acc (mulVal q.1 q.2).1).1) (mulVal p.1 p.2).1
    (deliver fp32 .rne (x, 0)).1

/-- An F-MXU element after `n` more groups, in ascending order. -/
def fSum : Nat → Nat → List (FVal × FVal) → Nat
  | 0, acc, _ => acc
  | n + 1, acc, l =>
    fSum n ((deliver fp32 .rne (addVal .rne (unpack fp32 acc) (unpack fp32 (groupSum (l.take 4))))).1) (l.drop 4)

/-- An S-MXU element: one exact sum added with saturation; and whether it saturated. -/
def sSum (w acc : Nat) (l : List (Nat × Int)) : Nat × Bool :=
  let v := signedOf w acc + (l.map fun p => ps8Product p.1 p.2).foldl (· + ·) 0
  (patternOf w (satInt w v), satInt w v != v)

/-! ## One row (R164, R176) -/

/-- The bits of a row's elements as it streams: from the tile, or as a link brought it. A row that a
command of another format or width streams is cut anew into elements of the receiver's width (R178). (DESIGN CHOICE, log entry 105.) -/
def rowElems (k b : Nat) (data : Nat) : List Nat := unpackN (8 * b) k data

def Core.tileRow (c : Core) (t : Nat) (h : TShape) (i : Nat) : Nat :=
  packN (8 * h.b) ((List.range h.cols).map fun j => tileElem (c.tile t) h i j)

/-- Weight (k, n) of the latch. -/
def Latch.at (l : Latch) (k n : Nat) : Nat := tileElem l.bytes (shapeOf l.shape) k n

/-- The row of an accumulator after a row of activations; and whether an element saturated. (DEDUCED, log entry 72.) -/
def mmaRow (isS : Bool) (cmd : MxCmd) (l : Latch) (old : Row) (xs : List Nat) : Row × Bool :=
  let lh := shapeOf l.shape
  let w := contW cmd.acct
  let cb := if isS then 128 * (cmd.x.toNat % 2) else 32 * (cmd.x.toNat % 4)
  let ks := (List.range lh.rows).zip xs
  let elem (n acc : Nat) : Nat × Bool :=
    if isS then sSum w acc (ks.map fun p => (l.at p.1 n, signedOf (8 * codeBytes cmd.fmt.toNat) p.2))
    else
      let f := fmtOf cmd.fmt.toNat
      let ps := ks.map fun p => (flushed f p.2, flushed f (l.at p.1 n))
      (fSum 16 acc (ps ++ List.replicate (64 - ps.length) (.fin false 0 0, .fin false 0 0)), false)
  let olds := containers cmd.acct old
  let news := olds.mapIdx fun j acc => if cb ≤ j ∧ j < cb + lh.cols then elem (j - cb) acc else (acc, false)
  (rowOf cmd.acct (news.map (·.1)), news.any (·.2))

/-! ## The links (R177) -/

def opposite (d : Nat) : Nat := (d + 2) % 4

def Core.linkBuf (c : Core) (dir : Nat) : List LinkRow := FMap.get c.mxu.links dir []
def Core.setLinkBuf (c : Core) (dir : Nat) (l : List LinkRow) : Core :=
  { c with mxu := { c.mxu with links := FMap.put c.mxu.links dir l [] } }

def dirNo (k : Nat) : Dir :=
  match k with
  | 0 => .n | 1 => .e | 2 => .s | _ => .w

/-- Whether the buffer that a command forwards to has a free entry, counting rows in flight. -/
def Device.linkRoom (d : Device) (id : Nat) (fwd : Option Nat) : Bool :=
  match fwd with
  | none => true
  | some r =>
    match neighbour id (dirNo r) with
    | none => false
    | some nb => ((d.core nb).linkBuf (opposite r)).length +
        (d.linkFlights.filter fun x => x.dst == nb && x.dir == opposite r).length < 8

/-! ## The queue (R159, R167, R172) -/

def Core.modCmd (c : Core) (k : Nat) (f : MxCmd → MxCmd) : Core :=
  let c := { c with mxu := { c.mxu with cmds := mapAt c.mxu.cmds k f } }
  match c.mxu.cmds[k]? with
  | some m => c.putImage m (if m.executing then 2 else 1)
  | none => c

/-- Every row has streamed. -/
def MxCmd.spent (m : MxCmd) : Bool := m.executing && (!m.streams || m.rows = m.m)

/-- The command that may start: the head, or one that follows a spent `mma` or `mmt` and is one itself. -/
def Mxu.starter (m : Mxu) : Option Nat :=
  match m.cmds.findIdx? fun c => !c.executing with
  | none => none
  | some 0 => some 0
  | some (k + 1) =>
    match m.cmds[k]?, m.cmds[k + 1]? with
    | some p, some c => if p.streams && c.streams && p.spent then some (k + 1) else none
    | _, _ => none

/-- The next command that may start does so; a queue stopped for a context restore first resumes from its image (R169). -/
def Core.startCmd (stopped : Core) : Core :=
  let c := stopped.resumeQueue
  match c.mxu.starter with
  | none => c
  | some k =>
    match c.spend 1 with
    | none => c
    | some c => c.modCmd k fun m => { m with executing := true }

/-- The governor window of a core's die now. -/
def Device.window (d : Device) (id : Nat) : Nat := windowOf (d.cyclesOf (dieOf id))

/-- A row of a command streams into its accumulator, and on to the link that it forwards to. (DEDUCED, log entry 72.) -/
def Device.streamRow (d : Device) (id k : Nat) (cmd : MxCmd) (row : LinkRow) : Device :=
  let c := d.core id
  let i := cmd.rows
  let h := shapeOf cmd.shape
  let n := 64 * (cmd.d.toNat % 2) + i
  let xs := rowElems h.cols h.b row.data.toNat
  let d := match c.mxu.latch with
    | none => d
    | some l =>
      let (v, sat) := mmaRow (isSCore id) cmd l (c.row id n) xs
      d.modCore id fun c =>
        let c := c.setRow n v (row.poison || l.poison || c.rowBad n)
        if sat then { c with cr := { c.cr with mxsat := true } } else c
  let d := d.modCore id fun c =>
    let c := match cmd.rx with
      | some r => (c.setLinkBuf r (c.linkBuf r).tail).setRowExp (cmd.a.toNat % 16) i row.exp
      | none => c
    let c := c.modCmd k fun m => { m with rows := m.rows + 1 }
    let c := c.settleStall (d.stalledOf id)
    { c with mxu := { c.mxu with winNo := d.window id, winRows := c.mxu.rowsIn (d.window id) + 1 } }
  match cmd.fwd with
  | some r =>
    match neighbour id (dirNo r) with
    | some nb => { d with linkFlights := d.linkFlights ++ [⟨nb, opposite r, row⟩] }
    | none => d
  | none => d

/-- The next row of a command: from the tile, or the oldest of its link buffer. -/
def Core.nextRow (c : Core) (cmd : MxCmd) : Option LinkRow :=
  match cmd.rx with
  | some r => (c.linkBuf r).head?
  | none =>
    let t := cmd.a.toNat % 16
    some ⟨cmd.fmt, BitVec.ofNat 4096 (c.tileRow t (shapeOf cmd.shape) cmd.rows),
      (c.expVec t).extractLsb' (8 * cmd.rows) 8, c.tileRowBad t cmd.rows⟩

/-- A row waits for the next window: it is counted from now on, unless it waits already. -/
def Device.rowWaits (d : Device) (id : Nat) : Device :=
  let now := d.cyclesOf (dieOf id)
  d.modCore id fun c =>
    match c.mxu.govFrom with
    | some f => if windowOf f = windowOf now then c
        else { c.settleStall (d.stalledOf id) with mxu := { c.mxu with govFrom := some now } }
    | none => { c with mxu := { c.mxu with govFrom := some now } }

/-- DEDUCED, log entry 71. -/
def Device.mxuRow (d : Device) (id : Nat) : Device :=
  let c := d.core id
  if c.mxu.halted then d
  else match c.mxu.cmds.findIdx? fun m => m.executing && m.streams && m.rows < m.m with
  | none => d
  | some k =>
    match c.mxu.cmds[k]? with
    | none => d
    | some cmd =>
      match c.nextRow cmd with
      | none => d
      | some row =>
        if d.budgetOf id ≤ c.mxu.rowsIn (d.window id) then d.rowWaits id
        else if d.linkRoom id cmd.fwd then d.streamRow id k cmd row
        else d

/-- The effect of a completion: the latch, or the cleared accumulator. -/
def Core.cmdEffect (c : Core) (m : MxCmd) : Core :=
  if m.minor = 2 then
    let t := m.a.toNat % 16
    { c with mxu := { c.mxu with latch := some ⟨m.fmt, m.shape, c.tile t,
        (List.range (shapeOf m.shape).rows).any fun i => c.tileRowBad t i⟩ } }
  else if m.minor = 5 then (List.range 64).foldl (fun c i => c.setRow (64 * (m.d.toNat % 2) + i) 0 false) c
  else c

/-- The head command completes: its entry is freed, its tag kept, and the crossbar receives the pulse. -/
def Core.completeCmd (c : Core) : Core :=
  match c.mxu.cmds with
  | [] => c
  | m :: t =>
    if m.spent && !c.mxu.halted then
      let c := (c.cmdEffect m).putImage m 0
      { c with mxu := { c.mxu with cmds := t, head := (c.mxu.head + 1) % 8, lastTag := m.tag } }.pulse 0 m.tag.toNat
    else c

/-! ## Meanings -/

def execMxuCommandStart (core : Nat) (s : State) : Result := happen (fun d => d.modCore core Core.startCmd) s
def execMxuRowStream (core : Nat) (s : State) : Result := happen (fun d => d.mxuRow core) s
def execMxuCommandComplete (core : Nat) (s : State) : Result := happen (fun d => d.modCore core Core.completeCmd) s

/-- A core in a window that is new to it: no row has been counted there, and what a row has waited is. A core without a
budget waits on. (DEDUCED, log entry 71.) -/
def Device.openWindow (d : Device) (id : Nat) : Device :=
  let c := d.core id
  if c.mxu.winNo = d.window id then d
  else
    let waits := if d.budgetOf id = 0 then c.mxu.govFrom.map fun _ => d.cyclesOf (dieOf id) else none
    d.setCore id { c.settleStall (d.stalledOf id) with mxu := { c.mxu with winNo := d.window id, winRows := 0, govFrom := waits } }

/-- A window of 128 cycles opens on a die, at each multiple of 128 of its count (R159). -/
def execGovernorWindow (die : Nat) (s : State) : Result :=
  happen (fun d => (d.listedOf die).foldl Device.openWindow d) s

/-- Rows of one link arrive in the order they were sent. -/
def execLinkRowArrival (k : Nat) (s : State) : Result :=
  happen (fun d =>
    match d.linkFlights[k]? with
    | none => d
    | some x =>
      if firstOf (d.linkFlights.map fun y => (y.dst, y.dir)) k then
        { d with linkFlights := dropAt d.linkFlights k }.modCore x.dst fun c => c.setLinkBuf x.dir (c.linkBuf x.dir ++ [x.row])
      else d) s

def execVectorInstructionComplete (core : Nat) (s : State) : Result :=
  happen (fun d => d.modCore core fun c =>
    if c.vecBusy = 0 then c else { c with vecBusy := c.vecBusy - 1 }.pulse 2 0) s

end Sys2Proof.Machine
end

