-- ==== Sys2Proof/Machine/Proposal.lean ====
section
/-!
DEFINITION. Class 8, proposal regions: `pbeg`, `pcom` with its lock pass, validation, draw and publication, `pabt`, `psta`,
`pcap` (R215 to R234), and the grant of a lock.
-/

namespace Sys2Proof.Machine

def closedRegion (last : Nat) : Region := ⟨.closed, [], [], none, none, last, none⟩

def setRegion (r : Region) : Exec Unit := modStream fun t => { t with region := r }

/-- The lines of RS ∪ WS in ascending physical address. -/
def Region.lines (r : Region) : List Nat := (r.rs.map (·.pa) ++ r.ws.map (·.pa)).foldl insertNat []

/-- The write set in ascending address. -/
def insertWs (x : WsLine) : List WsLine → List WsLine
  | [] => [x]
  | a :: t => if x.pa ≤ a.pa then x :: a :: t else a :: insertWs x t
def Region.writes (r : Region) : List WsLine := r.ws.foldr insertWs []

/-! ## Publication (R217, R234) -/

/-- One line written at its home, with its two messages counted where it is on another die: copies elsewhere are invalidated, the
version rises, the own copy is updated. -/
def Device.publish (d : Device) (id : Nat) (l : WsLine) : Device :=
  let ln := l.pa / 64
  let d := ((d.countCross (dieOf id) l.pa).beforeHome id l.pa).invalidateOthers (if remote id l.pa then some (pkgCluster id) else none) ln
  (d.mergeHome ln ⟨ln, false, l.data, l.mask, 0⟩).afterHome id l.pa

/-- What is left to publish. -/
def Region.rest (r : Region) (p : PostDraw) : List WsLine := if p.accept then r.writes.drop p.progress else []

/-- The region of a stream changed. -/
def Device.modRegion (d : Device) (id : Nat) (hind : Bool) (f : Region → Region) : Device :=
  d.modCore id fun c => c.modStream hind fun t => { t with region := f t.region }

/-- The draw is made: its state is saved, and the lock pass is over. -/
def Region.draws (r : Region) (p : PostDraw) : Region := { r with pass := none, post := some p }
/-- One more line is published, without a trap. -/
def Region.advance (r : Region) : Region :=
  if r.post.isSome then { r with st := .opened, post := r.post.map fun p => { p with progress := p.progress + 1 } } else r

/-- Whether D takes a value now: a queue register that the stream writes, with a place free; or no queue register (R17). -/
def State.takes (s : State) : Dst → Bool
  | .q n => s.hind != readerIsHind s.baseCore.cr.qdir n.val && (s.core.queue n.val).length < 4
  | _ => true

/-- A region closed, of which the `pcom` still owes D an outcome. -/
def Device.closesOwing (d : Device) (id : Nat) (hind : Bool) (last : Nat) (o : Owed) : Device :=
  (d.releaseLocks (d.lockName id hind)).modRegion id hind fun _ => { closedRegion last with owed := some o }

/-- The end of a `pcom`: locks released, region closed, outcome delivered (R217). Where D does not take the outcome now, or the other
half of a pair has to end with it, the region closes first and the outcome is owed: a wait, or a trap, at Write(D) leaves the locks
released, the region closed and the lines published, and the `pcom` writes D when its group issues again. What such a trap leaves is
the model's choice. (DESIGN CHOICE, log entry 125.) -/
def endPcom (dst : Dst) (outcome last : Nat) (flags : BitVec 5) : Exec Unit := do
  let s ← get
  let reg := s.stream.region
  if s.issue.paired || !s.takes dst then
    waitFor fun d => d.closesOwing s.me s.hind last
      ⟨BitVec.ofNat 32 outcome, flags, reg.post.all fun p => !p.resumed && reg.st != .postDraw, s.issue.pc⟩
  else do
    modDev fun d => d.releaseLocks (d.lockName s.me s.hind)
    setRegion (closedRegion last)
    raise flags
    writeDst dst (BitVec.ofNat 32 outcome)

/-- What is left of a `pcom` whose region has closed: D. -/
def payForm (f : DA) (o : Owed) : Exec Unit := do
  if o.reads then do
    let _ ← readSrc f.a
    pure ()
  else pure ()
  modStream fun t => { t with region := { t.region with owed := none } }
  raise o.flags
  writeDst f.d o.outcome

/-- The sign-extended virtual address of a line. -/
def lineVa (va : Nat) : DWord := (BitVec.ofNat 52 va).signExtend 64

/-- The publication (R217, R234): the lines one at a time in ascending address, each translated for the write permission and
written before the group issues again for the next; with none left, the `pcom` ends. A line that may not be written puts the
region into post-draw state, from which its trap is taken; the lines before it stay published. (DEDUCED, log entry 26.) -/
def publishForm (dst : Dst) (p : PostDraw) : Exec Unit := do
  let s ← get
  match (s.stream.region.rest p).head? with
  | none => endPcom dst (if p.accept then 0 else 1) (if p.accept then 1 else 2) p.flags
  | some l => do
    homeOnly (lineVa l.va)
    match ← lookup (lineVa l.va) .wr with
    | .error c =>
      if s.stream.region.st == .postDraw then trap c (lineVa l.va) else waitFor fun d => d.modRegion s.me s.hind Region.kept
    | .ok _ => do
      let t ← get
      blockUnless (t.dev.linkIdle (dieOf s.me) l.pa)
      waitFor fun d => ((d.modCore s.me fun c => { c with tlb := t.core.tlb }).publish s.me l).modRegion s.me s.hind Region.advance

/-- Whether a line of the read set has moved on from its recorded version. -/
def Device.stale (d : Device) (r : Region) : Bool := r.rs.any fun l => d.version l.pa != l.version

/-- The draw and the decision (R120, R229), after a valid lock pass. The publication begins when the group issues again. -/
def decide' (r : Word) : Exec Unit := do
  let s ← get
  let g := s.baseCore.gen s.hind
  let dv ← drawStream
  let (ok, fl) := accept dv r
  waitFor fun d => (d.modCore s.me fun c => c.setGen s.hind g.next).modRegion s.me s.hind fun x =>
    x.draws ⟨dv, g.idx, ok, fl, 0, s.issue.pc, false⟩

/-- The virtual address of a line of the read or the write set. -/
def Region.vaAt (r : Region) (pa : Nat) : Nat :=
  (((r.rs.map fun l => (l.pa, l.va)) ++ r.ws.map fun l => (l.pa, l.va)).find? fun x => x.1 == pa).elim 0 (·.2)

/-- The next step of a `pcom` that has not ended. A publication that is resumed after a trap does not read A (R217). -/
def commitForm (f : DA) : Exec Unit := do
  let s ← get
  let reg := s.stream.region
  match reg.st, reg.post with
  | .closed, _ => trapN .pregion 0
  | .postDraw, some p => publishForm f.d p
  | .postDraw, none => trapN .pregion 1
  | .failed, _ => do
    let _ ← readSrc f.a
    endPcom f.d 3 4 0
  | .opened, some p => do
    if p.resumed then pure ()
    else do
      let _ ← readSrc f.a
      pure ()
    publishForm f.d p
  | .opened, none => do
    let r ← readSrc f.a
    blockUnless (s.core.loadsDone s.hind)
    match reg.lines.head? with
    | some pa => homeOnly (lineVa (reg.vaAt pa))
    | none => pure ()
    let n := reg.lines.length
    match reg.pass with
    | none =>
      if n = 0 then decide' r
      else waitFor fun d => d.modCore s.me fun c => c.modStream s.hind fun t =>
        { t with region := { t.region with pass := some 0 } }
    | some k =>
      if k < n then block
      else if s.dev.stale reg then endPcom f.d 2 3 0
      else decide' r

/-- R217: each turn of the group makes one step of the sequence; where the region has closed without its outcome, D is written. On a
member moved from another package, a region that holds lines cannot lock them: NOPATH with the address of the first (R310). (DEDUCED,
log entry 26.) -/
def pcomForm (f : DA) : Exec Unit := do
  let s ← get
  match s.stream.region.owed with
  | some o => payForm f o
  | none => commitForm f

/-! ## The lock pass (R217, R230) -/

/-- The lock or hold on a line taken by a region; none while another region excludes it. -/
def LineLock.take (l : LineLock) (who : Nat × Bool) (write : Bool) : Option LineLock :=
  let writerFree := l.writer = none ∨ l.writer = some who
  if write then
    if writerFree ∧ l.readers.all (· == who) then some { l with writer := some who } else none
  else if writerFree then some { l with readers := l.readers ++ [who] } else none

/-- The next line of a lock pass is granted; none to a member moved from another package, whose lines are out of its reach (R310). -/
def Device.grantLock (d : Device) (id : Nat) (hind : Bool) : Device :=
  let c := d.core id
  let r := (c.stream hind).region
  match r.pass with
  | none => d
  | some k =>
    match r.lines[k]? with
    | none => d
    | some pa =>
      match (if d.linkIdle (dieOf id) pa && c.home.isNone then (d.lock (pa / 64)).take (d.lockName id hind) (r.ws.any fun l => l.pa == pa) else none) with
      | none => d
      | some l => ((d.countCross (dieOf id) pa).setLock (pa / 64) l).modCore id fun c => c.modStream hind fun t =>
          { t with region := { t.region with pass := some (k + 1) } }

/-! ## Status (R224, R225) -/

def Region.status (r : Region) : Word :=
  let post := r.st == .postDraw
  let (acc, prog) : Bool × Nat := match r.post with
    | some p => if post then (p.accept, p.progress) else (false, 0)
    | none => (false, 0)
  BitVec.ofNat 32 ((r.st != .closed).toNat + 2 * (r.st == .failed).toNat + 4 * post.toNat + 8 * acc.toNat +
    2 ^ 4 * r.rs.length + 2 ^ 13 * r.ws.length + 2 ^ 20 * prog + 2 ^ 27 * r.last)

def Region.space (r : Region) : Word :=
  match r.st with
  | .closed => 0x00400100
  | .opened => BitVec.ofNat 32 ((256 - r.rs.length) + 2 ^ 16 * (64 - r.ws.length))
  | _ => 0

/-! ## Meanings -/

/-- R215, R220, R232. -/
def execPbeg (s : State) : Result :=
  run (do
    let s ← get
    match s.stream.region.st with
    | .closed => do
      blockUnless (s.core.storesDone s.hind)
      setRegion { s.stream.region with st := .opened, rs := [], ws := [], pass := none, post := none, owed := none }
    | .postDraw => trapN .pregion 1
    | _ => trapN .pregion 0) s

def execPcom (f : DA) (s : State) : Result := run (pcomForm f) s

/-- R223. -/
def execPabt (s : State) : Result :=
  run (do
    let s ← get
    match s.stream.region.st with
    | .closed => pure ()
    | .postDraw => trapN .pregion 1
    | _ => setRegion (closedRegion 5)) s

def execPsta (dst : Dst) (s : State) : Result :=
  run (do
    let s ← get
    writeDst dst s.stream.region.status) s

def execPcap (dst : Dst) (s : State) : Result :=
  run (do
    let s ← get
    writeDst dst s.stream.region.space) s

def execProposalLockGrant (core : Nat) (hind : Bool) (s : State) : Result := happen (fun d => d.grantLock core hind) s

end Sys2Proof.Machine
end

