-- ==== Sys2Proof/Machine/Integer.lean ====
section
/-!
DEFINITION. Class 0: integer, address and move forms, and the control registers (R37, R38, R58 to R64, R187).
-/

namespace Sys2Proof.Machine

/-! ## Shapes (R59) -/

/-- A three-operand form: 32-bit, or `.d` on pairs. A is read before B: where both name one queue register, A takes the
older entry; so in every form that reads several sources (R17). (DESIGN CHOICE, log entry 81.) -/
def int3 (op : Word → Word → Word) (opD : DWord → DWord → DWord) : Int3 → Exec Unit
  | .w dst a b => do
    let x ← readSrc a
    let y ← readISrc b
    deliverW dst (op x y)
  | .d dst a b => do
    let x ← readPair a
    let y ← readPSrc b
    deliverD dst (opD x y)

def int3W (op : Word → Word → Word) (f : Int3W) : Exec Unit := do
  let x ← readSrc f.a
  let y ← readISrc f.b
  deliverW f.d (op x y)

def int2W (op : Word → Word) (f : Int2W) : Exec Unit := do
  let x ← readSrc f.a
  deliverW f.d (op x)

def flagWord (b : Bool) : Word := if b then 1 else 0

/-- A compare; its `.d` form reads pairs and writes one word. -/
def compare (op : Word → Word → Bool) (opD : DWord → DWord → Bool) : Cmp → Exec Unit
  | .w dst a b => do
    let x ← readSrc a
    let y ← readISrc b
    deliverW dst (flagWord (op x y))
  | .d dst a b => do
    let x ← readPair a
    let y ← readPSrc b
    deliverW dst (flagWord (opD x y))

/-! ## Operations (R59 to R61) -/

/-- A signed sum saturated to `w` bits. -/
def addSat {w : Nat} (a b : BitVec w) : BitVec w := BitVec.ofInt w (satInt w (a.toInt + b.toInt))
def subSat {w : Nat} (a b : BitVec w) : BitVec w := BitVec.ofInt w (satInt w (a.toInt - b.toInt))
def mulHighS (a b : Word) : Word := BitVec.ofInt 32 (a.toInt * b.toInt / 2 ^ 32)
def mulHighU (a b : Word) : Word := BitVec.ofNat 32 (a.toNat * b.toNat / 2 ^ 32)

/-- Division of R60: truncating, with its three special cases. -/
def divS (a b : Word) : Word := if b = 0 then 0xFFFFFFFF else BitVec.ofInt 32 (a.toInt.tdiv b.toInt)
def remS (a b : Word) : Word := if b = 0 then a else BitVec.ofInt 32 (a.toInt.tmod b.toInt)
def divU (a b : Word) : Word := if b = 0 then 0xFFFFFFFF else BitVec.ofNat 32 (a.toNat / b.toNat)
def remU (a b : Word) : Word := if b = 0 then a else BitVec.ofNat 32 (a.toNat % b.toNat)

def minSigned {w : Nat} (a b : BitVec w) : BitVec w := if a.slt b then a else b
def maxSigned {w : Nat} (a b : BitVec w) : BitVec w := if a.slt b then b else a
def minUnsigned {w : Nat} (a b : BitVec w) : BitVec w := if a.ult b then a else b
def maxUnsigned {w : Nat} (a b : BitVec w) : BitVec w := if a.ult b then b else a

/-- The shift amount: b[4:0], or bits [5:0] of b's low word in the `.d` form. -/
def shiftW (b : Word) : Nat := b.toNat % 32
def shiftD (b : DWord) : Nat := b.toNat % 64

def clz32 (a : Word) : Word := BitVec.ofNat 32 (32 - bitLen a.toNat)
/-- Zeros below the lowest one, of the `n` bits from bit `k`. -/
def trailing (a : Word) : Nat → Nat → Nat
  | 0, k => k
  | n + 1, k => if a.getLsbD k then k else trailing a n (k + 1)
def ctz32 (a : Word) : Word := BitVec.ofNat 32 (trailing a 32 0)
def popc32 (a : Word) : Word := BitVec.ofNat 32 ((List.range 32).filter a.getLsbD).length

/-- `bfx`: the field of n = len1 + 1 bits at p (R61). -/
def extractField (a : Word) (p len1 : Nat) : Word := BitVec.ofNat 32 (a.toNat / 2 ^ p % 2 ^ (len1 + 1))
/-- `bfi`: d with that field replaced by a's low bits. -/
def insertField (d a : Word) (p len1 : Nat) : Word := setBits d p (len1 + 1) a.toNat

/-! ## Control registers (R37, R38) -/

/-- The value of a control register, as the issuing stream reads it at issue. (DEDUCED, log entry 33.) -/
def State.readK (s : State) (k : Nat) : DWord :=
  let r := s.baseCore.cr
  let g := s.baseCore.gen s.hind
  match k with
  | 0 => r.frm.setWidth 64
  | 1 => r.fflags.setWidth 64
  | 2 => r.qdir.setWidth 64
  | 3 => BitVec.ofNat 64 r.acct.toNat
  | 4 => BitVec.ofNat 64 (min r.mxbud (s.base.governor (s.base.partOfCore s.me)))
  | 5 => (r.mxstl + BitVec.ofNat 32 (s.base.stalledOf s.me)).setWidth 64
  | 6 => BitVec.ofNat 64 r.mxsat.toNat
  | 7 => r.rzero.setWidth 64
  | 8 => BitVec.ofNat 64 r.rngmode.toNat
  | 9 => g.idx.setWidth 64
  | 10 => BitVec.ofNat 64 r.disc.toNat
  | 11 => BitVec.ofNat 64 r.redo.toNat
  | 12 => r.cause.setWidth 64
  | 13 => r.epc
  | 14 => r.tval
  | 15 => BitVec.ofNat 64 (s.baseCore.homeId.getD s.me)
  | 40 => r.ptbr.setWidth 64
  | 41 => BitVec.ofNat 64 (s.base.partOfCore s.me)
  | 42 => BitVec.ofNat 64 r.priv.toNat
  | k => if k < 24 then (FMap.get r.tshp (k - 16) 0).setWidth 64 else r.reg? (k - 24)

/-- Whether a region register takes a value (R187): with bit 41 clear it always does. -/
def Core.regionOk (c : Core) (n : Nat) (v : DWord) : Bool :=
  match areaOf v with
  | none => true
  | some a =>
    bits v 63 42 = 0 && a.base % 16 == 0 && a.len != 0 && a.len % 16 == 0 && a.base + a.len ≤ Config.imageBase &&
    !(a.persistent && a.discardable) &&
    (c.areas.all fun p => p.1 == n || (!p.2.touches a.base a.len && !(a.tape && p.2.tape)))

/-- The budget that a write stores: at most 128, and at most the partition's governor share (R37, R349). (DEDUCED, log entry 33.) -/
def budget (v : DWord) (share : Nat) : Nat := min (min v.toNat 128) share

/-- A control register written; none where the value is refused with ILLOP (R187). Bits above the register's width are
ignored. -/
def State.writeK (s : State) (k : Nat) (v : DWord) : Option State :=
  let cr (f : CRegs → CRegs) : Option State := some (s.modCore fun c => { c with cr := f c.cr })
  match k with
  | 0 => cr fun r => { r with frm := v.setWidth 2 }
  | 1 => some (s.writeFflags (v.setWidth 5))
  | 2 => cr fun r => { r with qdir := v.setWidth 8 }
  | 3 => cr fun r => { r with acct := v.getLsbD 0 }
  | 4 =>
    let b := budget v (s.dev.governor (s.dev.partOfCore s.me))
    let c := s.core.setStall (s.dev.cyclesOf (dieOf s.me)) b (s.core.cr.mxstl + BitVec.ofNat 32 (s.dev.stalledOf s.me))
    some (s.modCore fun _ => { c with cr := { c.cr with mxbud := b } })
  | 5 => some (s.modCore fun c => c.setStall (s.dev.cyclesOf (dieOf s.me)) (s.dev.budgetOf s.me) (v.setWidth 32))
  | 6 => cr fun r => { r with mxsat := v.getLsbD 0 }
  | 7 => cr fun r => { r with rzero := v.setWidth 32 }
  | 8 => cr fun r => { r with rngmode := v.getLsbD 0 }
  | 9 => some (s.modCore fun c => c.setGen s.hind { c.gen s.hind with idx := v.setWidth 32 })
  | 10 => cr fun r => { r with disc := v.getLsbD 0 }
  | 12 => cr fun r => { r with cause := v.setWidth 9 }
  | 13 => cr fun r => { r with epc := v }
  | 14 => cr fun r => { r with tval := v }
  | 40 => some (s.modCore fun c => Core.forgetPages { c with cr := { c.cr with ptbr := v.setWidth 52 } })
  | k =>
    if 16 ≤ k ∧ k < 24 then cr fun r => { r with tshp := FMap.put r.tshp (k - 16) (v.setWidth 32) 0 }
    else if 24 ≤ k ∧ k < 40 then
      if s.core.regionOk (k - 24) v then cr fun r => { r with reg := FMap.put r.reg (k - 24) v 0 } else none
    else some s

/-- Writes a control register, and its new value's low word to the lane's latch (R63). Of a `kmov k.fflags` beside a half that
raises flags, R63 does not say which value that is: the register's as the half leaves it in its turn, with the other half's flags
where that is lane 0, and without them where it is lane 1. (DESIGN CHOICE, log entry 99.) -/
def putK (k : Nat) (v : DWord) : Exec Unit := do
  let s ← get
  match s.writeK k v with
  | none => trapSlot .illop
  | some t =>
    set t
    writeLatch (({ t with pair := none }.readK k).extractLsb' 0 32)

def kmovForm : KmovOp → Exec Unit
  | .w k a => do
    let v ← readISrc a
    putK k.val (v.setWidth 64)
  | .d k (.reg n) => do
    let v ← readPair (.even n)
    putK k.val v
  | .d k (.imm v) => putK k.val (sextI v)

def kgetForm : KgetOp → Exec Unit
  | .w dst k => do
    let s ← get
    deliverW dst ((s.readK k.val).extractLsb' 0 32)
  | .d n k => do
    let s ← get
    deliverD (.even n) (s.readK k.val)

/-! ## Meanings -/

/-- R59: `nop` changes nothing. -/
def execNop (s : State) : Result := run (pure ()) s
def execAdd (f : Int3) (s : State) : Result := run (int3 (· + ·) (· + ·) f) s
def execSub (f : Int3) (s : State) : Result := run (int3 (· - ·) (· - ·) f) s
def execAdds (f : Int3) (s : State) : Result := run (int3 addSat addSat f) s
def execSubs (f : Int3) (s : State) : Result := run (int3 subSat subSat f) s
def execMul (f : Int3) (s : State) : Result := run (int3 (· * ·) (· * ·) f) s
def execMulh (f : Int3W) (s : State) : Result := run (int3W mulHighS f) s
def execMulhu (f : Int3W) (s : State) : Result := run (int3W mulHighU f) s
def execDiv (f : Int3W) (s : State) : Result := run (int3W divS f) s
def execDivu (f : Int3W) (s : State) : Result := run (int3W divU f) s
def execRem (f : Int3W) (s : State) : Result := run (int3W remS f) s
def execRemu (f : Int3W) (s : State) : Result := run (int3W remU f) s
def execMin (f : Int3) (s : State) : Result := run (int3 minSigned minSigned f) s
def execMax (f : Int3) (s : State) : Result := run (int3 maxSigned maxSigned f) s
def execMinu (f : Int3) (s : State) : Result := run (int3 minUnsigned minUnsigned f) s
def execMaxu (f : Int3) (s : State) : Result := run (int3 maxUnsigned maxUnsigned f) s
def execAnd (f : Int3) (s : State) : Result := run (int3 (· &&& ·) (· &&& ·) f) s
def execOr (f : Int3) (s : State) : Result := run (int3 (· ||| ·) (· ||| ·) f) s
def execXor (f : Int3) (s : State) : Result := run (int3 (· ^^^ ·) (· ^^^ ·) f) s
def execAndn (f : Int3) (s : State) : Result := run (int3 (fun a b => a &&& ~~~b) (fun a b => a &&& ~~~b) f) s
def execShl (f : Int3) (s : State) : Result := run (int3 (fun a b => a <<< shiftW b) (fun a b => a <<< shiftD b) f) s
def execShr (f : Int3) (s : State) : Result := run (int3 (fun a b => a >>> shiftW b) (fun a b => a >>> shiftD b) f) s
def execSra (f : Int3) (s : State) : Result :=
  run (int3 (fun a b => a.sshiftRight (shiftW b)) (fun a b => a.sshiftRight (shiftD b)) f) s
def execRol (f : Int3) (s : State) : Result :=
  run (int3 (fun a b => a.rotateLeft (shiftW b)) (fun a b => a.rotateLeft (shiftD b)) f) s
def execClz (f : Int2W) (s : State) : Result := run (int2W clz32 f) s
def execCtz (f : Int2W) (s : State) : Result := run (int2W ctz32 f) s
def execPopc (f : Int2W) (s : State) : Result := run (int2W popc32 f) s

/-- R61. The decoder refuses a field past bit 31. -/
def execBfx (f : BitField) (s : State) : Result :=
  run (do
    let a ← readSrc f.a
    deliverW f.d (extractField a f.pos.val f.len1.val)) s

/-- The old value of a destination that is also read (`bfi`, `fma`, `fms`). A queue register pops for the read, as any
source does. A window is no source: the decoder refuses it there (R32). -/
def readWDst (d : WDst) : Exec Word :=
  match d with
  | .reg (.g n) => readSrc (.g n)
  | .reg (.o n) => readSrc (.o n)
  | .reg (.q n) => readSrc (.q n)
  | .reg .gz => pure 0
  | .win _ _ _ => trapSlot .illop

def execBfi (f : BitField) (s : State) : Result :=
  run (do
    let d ← readWDst f.d
    let a ← readSrc f.a
    deliverW f.d (insertField d a f.pos.val f.len1.val)) s

def execSeq (f : Cmp) (s : State) : Result := run (compare (fun a b => a == b) (fun a b => a == b) f) s
def execSne (f : Cmp) (s : State) : Result := run (compare (fun a b => a != b) (fun a b => a != b) f) s
def execSlt (f : Cmp) (s : State) : Result := run (compare BitVec.slt BitVec.slt f) s
def execSge (f : Cmp) (s : State) : Result := run (compare (fun a b => !a.slt b) (fun a b => !a.slt b) f) s
def execSltu (f : Cmp) (s : State) : Result := run (compare BitVec.ult BitVec.ult f) s
def execSgeu (f : Cmp) (s : State) : Result := run (compare (fun a b => !a.ult b) (fun a b => !a.ult b) f) s

def execSel (f : SelOp) (s : State) : Result :=
  run (do
    let a ← readSrc f.a
    let b ← readSrc f.b
    let c ← readSrc f.c
    deliverW f.d (if c ≠ 0 then a else b)) s

/-- a + (b << s) + I, or Pair(A) + (Sext(b) << s) + SextI (R59). -/
def execLea (f : LeaOp) (s : State) : Result :=
  run (match f with
    | .w dst a b sh off => do
      let x ← readSrc a
      let y ← readSrc b
      deliverW dst (x + (y <<< sh.val) + off)
    | .d dst a b sh off => do
      let x ← readPair a
      let y ← readSrc b
      deliverD dst (x + (y.signExtend 64 <<< sh.val) + sextI off)) s

/-- R62: BOUND with a when a ≥ b unsigned; otherwise only the latch is written. -/
def execChkb (f : ChkOp) (s : State) : Result :=
  run (do
    let a ← readSrc f.a
    let b ← readISrc f.b
    if a.ult b then writeLatch a else trapW .bound a) s

def execMov (f : MovOp) (s : State) : Result :=
  run (match f with
    | .w dst a => do
      let x ← readISrc a
      deliverW dst x
    | .d dst a => do
      let x ← readPSrc a
      deliverD dst x) s

def execKmov (f : KmovOp) (s : State) : Result :=
  run (do
    precheck (.kmov f)
    kmovForm f) s

def execKget (f : KgetOp) (s : State) : Result :=
  run (do
    precheck (.kget f)
    kgetForm f) s

end Sys2Proof.Machine
end

