-- ==== Sys2Proof/Machine/Saved.lean ====
section
/-!
DEFINITION. A core's context as it is saved and comes back (R188, R345): by the pre-emption of its partition, and by the move
of its team (R308).
-/

namespace Sys2Proof.Machine

/-- A granule that lies in no region and below the queue image. -/
def Core.outside (c : Core) (g : Nat) : Bool := 16 * g < Config.imageBase && !(c.areas.any fun p => p.2.holds (16 * g))
def Core.discards (c : Core) (g : Nat) : Bool := c.areas.any fun p => p.2.discardable && p.2.holds (16 * g)

/-- The granules of a markhor core's discardable regions. -/
def Core.discardable (c : Core) : List Nat :=
  ((c.areas.filter fun p => p.2.discardable).map fun p => granules p.2.base p.2.len).flatten

/-- A core's scratchpad as it comes back (R188): discardable regions hold 0xFF, empty; bytes outside every region are zero,
empty. A moraine core's comes back as saved. A KiB's tag is lost where some of the KiB is discardable or all of it
outside; one partly outside and partly in kept regions keeps its tag, which R188 does not settle. (DESIGN CHOICE, log entry 107.) -/
def Core.reloaded (c : Core) (id : Nat) : Core :=
  if isMoraine id then c
  else
    let lost (g : Nat) : Bool := c.outside g || c.discards g
    let gone := c.discardable
    let sp := c.sp.filter fun p => !lost (p.1 / 16)
    let c' := { c with sp := gone.foldl (fun m g => writeBytes m (16 * g) (List.replicate 16 0xFF)) sp,
                       spFull := c.spFull.filter fun g => !lost g,
                       spPoison := c.spPoison.filter fun g => !lost g,
                       spTag := c.spTag.filter fun p =>
                         !((List.range 64).any fun g => c.discards (64 * p.1 + g)) && !((List.range 64).all fun g => c.outside (64 * p.1 + g)) }
    { c' with spGone := gone.foldl insertNat [] }

/-- A stream as it is saved: a lock pass is abandoned, and so is what an instruction was blocked in. -/
def Stream.parked (t : Stream) : Stream := { t with region := { t.region with pass := none }, syncAt := none, fetched := none }

/-- The time from which a thief waits, as an age; or an age as a time. -/
def Steal.aged (s : Steal) (now : Nat) : Steal :=
  match s with
  | .backoff t => .backoff (now - t)
  | x => x

/-- A core as it is saved: its waiting records and its wait for another steal carry their ages, and `stalled` cycles of waiting for the governor are counted. -/
def Core.parked (c : Core) (now stalled : Nat) : Core :=
  { (c.settleStall stalled).forgetPages with
    fore := { c.fore.parked with ranged := [] }, hind := { c.hind.parked with ranged := [] },
    queries := (c.queries.filter fun q => !q.answered).map fun q => { q with abandoned := true }, steal := c.steal.aged now,
    dq := { c.dq with waiting := c.dq.waiting.map fun w => { w with since := now - w.since } } }

/-- A core that comes back: ages become times again, and an occupied MXU queue goes on from its image (R169). -/
def Core.unparked (c : Core) (now : Nat) : Core :=
  { c with dq := { c.dq with waiting := c.dq.waiting.map fun w => { w with since := now - w.since } }, steal := c.steal.aged now,
           mxu := { c.mxu with halted := !c.mxu.cmds.isEmpty } }

/-- A DISC notice for a core that has come back with discardable regions (R345). -/
def Device.noticeDisc (d : Device) (p id : Nat) (c : Core) : Device :=
  let regs := c.areas.filter fun a => a.2.discardable
  if regs.isEmpty || isMoraine id then d
  else d.notice p .disc id [BitVec.ofNat 32 id, BitVec.ofNat 32 ((regs.map fun a => 2 ^ a.1).sum)]

/-- A core's context for another id: generators and rows that read by default are listed under what they read. -/
def Core.relocate (c : Core) (old : Nat) : Core :=
  { c.forgetPages with lanes := (List.range 128).map fun i => (i, c.lane old i),
                       rows := (List.range 128).map fun n => (n, c.row old n) }

/-! ## Cards of a moved member -/

def Space.renamed (f : Nat → Nat) : Space → Space
  | .sp c => .sp (f c)
  | x => x

/-- A card's core, and the scratchpads that it names, under other ids. -/
def Card.renamed (f : Nat → Nat) (c : Card) : Card :=
  let feet (l : List Foot) : List Foot := l.map fun x => { x with space := x.space.renamed f }
  { c with core := f c.core, reads := feet c.reads, writes := feet c.writes,
           work := match c.work with
             | .copy s sa t da n => .copy (s.renamed f) sa (t.renamed f) da n
             | .gather s b e z l n t da w o => .gather (s.renamed f) b e z l n (t.renamed f) da w o
             | w => w }

/-- A card that touches scratchpads of some cores alone. -/
def Card.within (c : Card) (ids : List Nat) : Bool :=
  (c.reads ++ c.writes).all fun x => match x.space with
    | .sp id => ids.contains id
    | _ => false

/-- The id that a list of pairs gives another one. -/
def renameIn (l : List (Nat × Nat)) (id : Nat) : Nat := ((l.find? fun x => x.1 == id).map (·.2)).getD id

end Sys2Proof.Machine
end

