-- ==== Sys2Proof/Machine/Teams.lean ====
section
/-!
DEFINITION. Bind records: writing, binding, rejecting and unbinding (R302 to R305, R314), twin pairs (R346), and the move of
a team to another die of its partition (R308, R309) or of another package (R310).
-/

namespace Sys2Proof.Machine

def BindRec.reset : BindRec := ⟨0, 0, 0, 0, false, false⟩
def Device.slot (d : Device) (die team : Nat) : BindRec := FMap.get d.slots (256 * die + team) BindRec.reset
def Device.setSlot (d : Device) (die team : Nat) (b : BindRec) : Device :=
  { d with slots := FMap.put d.slots (256 * die + team) b BindRec.reset }

/-- A change that management or application software makes: it runs once the module has booted (R361). (DEDUCED, log entry 56.) -/
def whenUp (f : Device → Device) (d : Device) : Device := if d.boot = .running then f d else d

/-! ## Who writes a device register (R356)

An access of another width than a word's is ignored, and so is a management core's write to the registers of another die,
or of a partition that does not contain its die. -/

def RegAccess.byApp (ac : RegAccess) : Bool := ac.bytes == 4 && ac.agent == .application
def RegAccess.byDie (ac : RegAccess) (die : Nat) : Bool := ac.bytes == 4 && ac.agent == .management die
/-- The application cores, or a management core of the partition. -/
def Device.byPart (d : Device) (ac : RegAccess) (p : Nat) : Bool :=
  ac.bytes == 4 && match ac.agent with
    | .application => true
    | .management die => die < 8 && d.partOf die == p

/-! ## Rejection (R303) -/

def BindRec.two (b : BindRec) : Bool := b.w1.getLsbD 5
def BindRec.handler (b : BindRec) : Nat := bits b.w0 7 0
def BindRec.pool (b : BindRec) : Nat := bits b.w0 16 15

def badFields (b : BindRec) (part : Nat) : Bool :=
  bits b.w0 31 19 != 0 || bits b.w1 31 7 != 0 || bits b.w0 14 13 == 3 || bits b.w0 12 10 != part

/-- The mask and the clusters do not fit the mesh. -/
def badShape (b : BindRec) : Bool :=
  let a := bits b.w1 4 0
  b.w2 == 0 || (bits b.w2 31 16 != 0 && !b.two) || (b.two && (if b.w1.getLsbD 6 then a / 8 == 3 else a % 8 == 7))

/-- A masked core is a member of another valid team of the die. -/
def Device.taken (d : Device) (die team : Nat) (ids : List Nat) : Bool :=
  d.slots.any fun p => p.2.valid && p.1 / 256 == die && p.1 % 256 != team && (p.2.members die).any ids.contains

/-- The lowest rejection code of a binding; 0 for none. -/
def Device.bindCode (d : Device) (die team : Nat) (b : BindRec) : Nat :=
  let ids := b.members die
  if badFields b (d.partOf die) then 1
  else if badShape b then 2
  else if d.taken die team ids then 3
  else if ids.any fun id => !((d.core id).handler b.handler).valid then 4
  else if b.pool ≠ 0 ∧ b.two then 5
  else 0

/-! ## Binding (R304) -/

/-- The priority field goes into the entry handler's table entry on every member. -/
def Device.setPriority (d : Device) (die : Nat) (b : BindRec) : Device :=
  (b.members die).foldl (fun d id => d.modCore id fun c =>
    { c with handlers := FMap.set c.handlers b.handler { c.handler b.handler with prio := BitVec.ofNat 2 (bits b.w0 9 8) } }) d

/-- The start record of a member of a rank. (DEDUCED, log entry 35.) -/
def startRecordOf (b : BindRec) (id team rank count : Nat) : Line :=
  lineOfWords [recWord0 b.handler 0 3 false id, BitVec.ofNat 32 team, 0, BitVec.ofNat 32 rank, BitVec.ofNat 32 count,
    BitVec.ofNat 32 team]

/-- Records of the memory queue that are due taken back: they go before an arrival (R242). -/
def Core.takeDue (now : Nat) : Nat → Core → Core
  | 0, c => c
  | n + 1, c => if c.dq.ringCount ≠ 0 ∧ c.dq.waiting.length < c.dq.limit then Core.takeDue now n (c.takeBack now) else c

/-- A start record arrives, after the records of the memory queue that are due; it is never refused (R304): where R242 has no
place for it, it waits beyond the limit. -/
def Device.arriveStart (d : Device) (id : Nat) (r : Line) : Device :=
  let d := d.modCore id fun c => c.takeDue d.cycle c.dq.ringCount
  match d.arrive id r 0 with
  | some d => d
  | none => d.modCore id fun c =>
    ({ c with dq := { c.dq with waiting := c.dq.waiting ++ [newWaiting r d.cycle 0] } }).pulse 4 (recHandler r)

/-- The start records placed, in ascending rank. -/
def Device.placeStarts (d : Device) (die team : Nat) (b : BindRec) : Device :=
  let ids := b.members die
  (ids.zipIdx).foldl (fun d p => d.arriveStart p.1 (startRecordOf b ((d.core p.1).homeId.getD p.1) team p.2 ids.length)) d

/-- A write to the words of a bind record; `key` is the team number that its start records carry. -/
def Device.writeSlotAs (d : Device) (die team key : Nat) (w0 w1 w2 : Word) : Device :=
  let old := d.slot die team
  let b : BindRec := ⟨w0, w1, w2, 0, w0.getLsbD 17, false⟩
  if old.valid then
    if w0.getLsbD 17 then
      let same := w1 == old.w1 && w2 == old.w2 && setBits (setBits w0 15 2 0) 8 2 0 == setBits (setBits old.w0 15 2 0) 8 2 0
      let code := if same then (if b.pool ≠ 0 ∧ b.two then 5 else 0) else 1
      if code = 0 then ((d.setSlot die team { old with w0 := w0, status := 0 }).setPriority die b).settlePools die
      else d.setSlot die team { old with status := BitVec.ofNat 32 code }
    else d.setSlot die team { old with status := 0, clearing := true }
  else if w0.getLsbD 17 then
    let code := d.bindCode die team b
    if code = 0 then ((((d.occupy (b.members die)).setSlot die team b).setPriority die b).placeStarts die key b).settlePools die
    else d.setSlot die team { old with status := BitVec.ofNat 32 code }
  else d.setSlot die team b

def Device.writeSlot (d : Device) (die team : Nat) (w0 w1 w2 : Word) : Device := d.writeSlotAs die team team w0 w1 w2

/-! ## Twin pairs (R346) -/

/-- A member's start record waits in its drift queue or memory queue. -/
def Core.hasStart (c : Core) (handler : Nat) : Bool :=
  let start (r : Line) : Bool := recHandler r == handler && recNet r == 0 && recKey r == lineWord r 5
  (c.dq.waiting.any fun w => start w.r) ||
  (List.range c.dq.ringCount).any fun k => start (BitVec.ofNat 512 (readLE c.sp (c.dq.place k) 64))

/-- Two clusters of one type that are neither one cluster nor mesh neighbours. -/
def apartClusters (a b : Nat) : Bool :=
  let dx := max (a % 8) (b % 8) - min (a % 8) (b % 8)
  let dy := max (a / 8) (b / 8) - min (a / 8) (b / 8)
  a % 2 == b % 2 && decide (1 < dx + dy)

/-- Whether a record's members can be the secondaries of a bound team: as many members, rank by rank in fit clusters, no
pair of them in another pair, and every primary still before its first activation. -/
def Device.pairable (d : Device) (die primary : Nat) (b : BindRec) : Bool :=
  let p := d.slot die primary
  let l := p.members die
  let m := b.members die
  p.valid && !p.clearing && l.length == m.length &&
  ((l.zip m).all fun x => apartClusters (clusterOf x.1) (clusterOf x.2)) &&
  (l.all fun id => (d.core id).act.isNone && (d.core id).susp.isNone && (d.core id).hasStart p.handler) &&
  d.twins.all fun t => !(l ++ m).contains t.1 && !(l ++ m).contains t.2

/-- Every secondary reads its primary's id. -/
def Device.pairUp (d : Device) (l : List (Nat × Nat)) : Device :=
  { l.foldl (fun d x => d.modCore x.2 fun c => { c with homeId := some x.1 }) d with twins := d.twins ++ l }

/-- The second binding of a team in twin mode: its members are paired by rank with the primary's, and its start records are
the primary's. A binding that does not fit, or is rejected, makes no pair. (DESIGN CHOICE, log entry 20.) -/
def Device.writeTwin (d : Device) (die team primary : Nat) (w0 w1 w2 : Word) : Device :=
  let b : BindRec := ⟨w0, w1, w2, 0, w0.getLsbD 17, false⟩
  if b.valid && !(d.slot die team).valid && d.pairable die primary b then
    if d.bindCode die team b = 0 then
      (d.pairUp (((d.slot die primary).members die).zip (b.members die))).writeSlotAs die team primary w0 w1 w2
    else d.writeSlot die team w0 w1 w2
  else d

/-- Only the die's management core writes bind records (R302). -/
def execBindRecordWrite (ac : RegAccess) (die team : Nat) (w : BindWords) (twin : Option Nat) (s : State) : Result :=
  happen (whenUp fun d =>
    if die < 8 ∧ team < 256 ∧ RegAccess.byDie ac die then
      match twin with
      | none => d.writeSlot die team w.w0 w.w1 w.w2
      | some primary => d.writeTwin die team primary w.w0 w.w1 w.w2
    else d) s

/-- Members that are in no team any more: no twin pair holds them, and none is another package's, to whose sweeps the counts of
those that were belong (R310). -/
def Device.release (d : Device) (ids : List Nat) : Device :=
  let broken := d.twins.filter fun t => ids.contains t.1 || ids.contains t.2
  let free (c : Core) : Core := if c.home.isSome then { c with sent := 0, recv := 0 } else c
  let d := (ids ++ broken.map (·.2)).foldl (fun d id => d.modCore id fun c => { free c with homeId := none, home := none }) d
  { d with twins := d.twins.filter fun t => !(ids.contains t.1 || ids.contains t.2) }

/-- A cleared record unbinds its team once every member is idle (R305). -/
def Device.unbind (d : Device) (die team : Nat) : Device :=
  let b := d.slot die team
  if b.valid ∧ b.clearing ∧ ((b.members die).all fun id => (d.core id).idle) then
    ((d.setSlot die team { b with valid := false, clearing := false, w0 := b.w0 &&& ~~~0x20000 }).release (b.members die)).settlePools die
  else d

def execTeamUnbind (die team : Nat) (s : State) : Result := happen (fun d => d.unbind die team) s

/-! ## Moving a team (R308 to R310) -/

/-- Every access and neighbour write that a core has issued is performed (R308, step 1); no twin pair holds it, whose cores stay
on one die (R346). Records that no destination has accepted, cards and jobs of a core go with it (R345). -/
def Device.still (d : Device) (id : Nat) : Bool :=
  let c := d.core id
  !c.stopped && (c.outstanding false).isEmpty && (c.outstanding true).isEmpty && c.nbq.isEmpty && c.portq.isEmpty &&
  !d.nbPending id && d.twins.all fun p => p.1 != id && p.2 != id

/-- Nothing runs on a core, and all it has issued is performed. -/
def Device.resting (d : Device) (id : Nat) : Bool :=
  let c := d.core id
  c.act.isNone && c.susp.isNone && c.mxu.cmds.isEmpty && d.still id

/-- A member qualifies for a move: no activation runs, and its start record is still waiting. (DESIGN CHOICE, log entry 57.) -/
def Device.movable (d : Device) (handler id : Nat) : Bool := d.resting id && (d.core id).hasStart handler

/-- A core that is free for a member: idle, in no team, with no message, card or job of its own left. -/
def Device.vacant (d : Device) (id : Nat) : Bool :=
  let c := d.core id
  c.idle && (d.teamOf id).isNone && d.resting id && c.sendq.isEmpty && c.tokens.isEmpty && c.fifo.isEmpty &&
  d.jobs.all (fun j => j.card.core != id) && d.acks.all (fun a => a.core != id) &&
  match c.steal with
  | .asked _ => false
  | _ => true

/-- The slots of a cluster type that a die advertises as free: its 256 cores of the type but those listed or bound that
are not free. (DESIGN CHOICE, log entry 57.) -/
def Device.freeSlots (d : Device) (isS : Bool) (die : Nat) : Nat :=
  let bound := (d.slots.filter fun p => p.2.valid && p.1 / 256 == die).flatMap fun p => p.2.members die
  256 - ((((d.listedOf die).filter isMarkhor) ++ bound).eraseDups.filter fun id => isSCore id == isS && !d.vacant id).length

/-- Of places given by free slots, die and package: the one with the most free slots; ties go to the lowest die number, and
then to the lowest package number (R308). -/
def bestPlace : List (Nat × Nat × Nat) → Option (Nat × Nat × Nat)
  | [] => none
  | x :: t =>
    match bestPlace t with
    | none => some x
    | some y =>
      if y.1 < x.1 ∨ (x.1 = y.1 ∧ (x.2.1 < y.2.1 ∨ (x.2.1 = y.2.1 ∧ x.2.2 ≤ y.2.2))) then some x else some y

/-- The record at cluster `a` of another die. -/
def BindRec.at (b : BindRec) (a : Nat) : BindRec := { b with w1 := setBits b.w1 0 5 a, status := 0, clearing := false }
/-- Its cluster type. -/
def BindRec.isS (b : BindRec) : Bool := bits b.w1 4 0 % 2 == 1
/-- The team may be moved to another package. -/
def BindRec.portable (b : BindRec) : Bool := b.w0.getLsbD 18

/-- The die of its partition that a team moves to. -/
def Device.target (d : Device) (b : BindRec) (die : Nat) : Option Nat :=
  ((bestPlace (((d.diesOf (d.partOf die)).filter (· != die)).map fun k => (d.freeSlots b.isS k, k, 0))).filter fun x => x.1 ≠ 0).map (·.2.1)

/-- The lowest cluster of a die where the same shape fits on vacant cores of the same cluster type. (DESIGN CHOICE, log entry 57.) -/
def Device.landing (d : Device) (b : BindRec) (toDie : Nat) : Option Nat :=
  (List.range 32).find? fun a =>
    a % 2 == bits b.w1 4 0 % 2 && !badShape (b.at a) && ((b.at a).members toDie).all d.vacant

/-- The name of a lock's owner after a member's move, with its partition's number; names are those of `Device.lockName`. -/
def renameOwner (p old q new : Nat) (w : Nat × Bool) : Nat × Bool :=
  if w.1 % 65536 = old ∧ w.1 / 131072 = p then (131072 * q + w.1 % 131072 - old + new, w.2) else w

/-- The locks of a member's post-draw state, kept at the lines' homes under its new name (R235). One that is in another package
keeps them under its home id and a partition number of its own, 8 above its partition's. -/
def Device.renameLocks (d : Device) (p old q new : Nat) : Device :=
  { d with locks := d.locks.map fun x => (x.1, ⟨x.2.writer.map (renameOwner p old q new), x.2.readers.map (renameOwner p old q new)⟩) }

/-- Messages for an old id of a partition go to a new one from now on, with those for ids that led to the old one (R309). -/
def Device.redirect (d : Device) (p old new : Nat) : Device :=
  { d with moved := FMap.set (d.moved.map fun x => (x.1, if x.1 / 65536 = p ∧ x.2 = old then new else x.2)) (movedKey p old) new }

/-- A member's context put in place at another core of the partition; what it has on its way is its own there. -/
def Device.moveMember (d : Device) (old new : Nat) : Device :=
  let c := (d.core old).relocate old
  let p := d.partOfCore old
  let d := { d with flights := d.flights.map fun (f : Flight) => if f.src = some old ∧ f.part = p then { f with src := some new } else f,
                    acks := d.acks.map fun (a : AckGroup) => if a.core = old then { a with core := new } else a }
  (((d.setCore new c).setCore old (Core.reset old)).redirect p old new).renameLocks p old p new

/-- The cards and jobs of moved members act at their new cores, their jobs in the unit of their new die. -/
def Device.moveCards (d : Device) (l : List (Nat × Nat)) (toDie : Nat) : Device :=
  let f := renameIn l
  let d := l.foldl (fun d p => d.modCore p.2 fun c => { c with fifo := c.fifo.map (Card.renamed f) }) d
  { d with jobs := d.jobs.map fun j => if l.any fun p => p.1 == j.card.core then { j with die := toDie, card := j.card.renamed f } else j }

/-- A team that a move may take: its members qualify, none is a claimant (R308). -/
def Device.mayLeave (d : Device) (ok : Nat → Bool) (die team : Nat) : Bool :=
  let b := d.slot die team
  b.valid && !b.clearing && b.pool == 0 && (b.members die).all fun id => ok id && (d.core id).pool == 0

/-- The steps of a move, where the members may be moved: bind at the target, move every context, clear the old record; the
members' new ids are answered. (DESIGN CHOICE, log entry 57.) -/
def Device.migrateWhen (d : Device) (ok : Nat → Bool) (die team toDie toTeam : Nat) : List Nat × Device :=
  let b := d.slot die team
  let ids := b.members die
  if d.mayLeave ok die team ∧ (ids.all fun id => (d.core id).home.isNone) ∧ d.target b die = some toDie ∧ (d.slot toDie toTeam).valid = false then
    match d.landing b toDie with
    | some a =>
      let news := (b.at a).members toDie
      let d := (d.occupy news).useDies (d.partOf die) die toDie
      let d := ((ids.zip news).foldl (fun d p => d.moveMember p.1 p.2) d).moveCards (ids.zip news) toDie
      (news, (d.setSlot toDie toTeam (b.at a)).setSlot die team BindRec.reset)
    | none => ([], d)
  else ([], d)

/-- A member's context comes back at its new core, as R345 restores it. -/
def Device.comeBack (d : Device) (id : Nat) : Device :=
  let c := d.core id
  (d.setCore id (c.reloaded id)).noticeDisc (d.partOfCore id) id c

/-- A team whose members run nothing. -/
def Device.migrate (d : Device) (die team toDie toTeam : Nat) : Device :=
  let (news, d) := d.migrateWhen (d.movable (d.slot die team).handler) die team toDie toTeam
  news.foldl Device.comeBack d

/-- The device with a saved context in place: the members of its teams are suspended by the pre-emption. -/
def Device.withSaved (d : Device) (p : Nat) (x : Context) : Device :=
  { d with cores := x.cores, slots := x.slots, jobs := x.jobs, twins := x.twins, dieParts := x.dies.foldl (fun m k => FMap.put m k p 0) d.dieParts }

/-- A team whose members are suspended by the pre-emption of their partition: the move is made in the saved context. -/
def Device.migrateSaved (d : Device) (p : Nat) (x : Context) (die team toDie toTeam : Nat) : Device :=
  let v := d.withSaved p x
  let w := (v.migrateWhen v.still die team toDie toTeam).2
  { d with shadow := FMap.set d.shadow p { x with cores := w.cores, slots := w.slots, jobs := w.jobs }, moved := w.moved,
           locks := w.locks, flights := w.flights, acks := w.acks, passedOn := w.passedOn, linkUse := w.linkUse }

/-- The saved context that holds a team and its die. -/
def Device.savedTeam (d : Device) (die team : Nat) : Option (Nat × Context) :=
  d.shadow.find? fun x => x.2.dies.contains die && (FMap.get x.2.slots (256 * die + team) BindRec.reset).valid

/-! ## To another package and back (R310) -/

/-- The launch that a core belongs to: its home package, or this one, and its partition there. -/
def Device.launchOf (d : Device) (id : Nat) : Nat × Nat := (d.core id).home.getD (d.pkgNum, d.partOfCore id)

/-- The die of another package that a team of a launch moves to, among the slots lent to that launch. -/
def Device.lender (d : Device) (b : BindRec) (launch : Nat × Nat) : Option DieAt :=
  let l := d.offers.filter fun o => (o.home, o.part) == launch && o.isS == b.isS && o.pkg != d.pkgNum && o.free != 0
  (bestPlace (l.map fun o => (o.free, o.die, o.pkg))).map fun x => ⟨x.2.2, x.2.1⟩

/-- The answer that a thief waits for reaches it; `now` is the time from which it waits after none. -/
def Device.takeAnswer (d : Device) (id now : Nat) : Device :=
  match (d.core id).steal with
  | .asked (some _) => d.stealAnswer id
  | .asked none => d.modCore id fun c => { c with steal := .backoff now }
  | _ => d

/-- What a core has sent within the package and nothing has accepted is in its queues again; it leaves them from its new place. -/
def Device.withdraw (d : Device) (id : Nat) : Device :=
  let mine (f : Flight) : Bool := f.src == some id && f.part == d.partOfCore id && f.kind != .token
  { d.modCore id (fun c => { c with sendq := c.sendq.map fun p => (p.1, p.2.map fun e => { e with inFlight := false }) }) with
    flights := d.flights.filter fun f => !mine f }

/-- Nothing of the members waits for an answer of another package or of a multicast, and their cards and jobs touch their own
scratchpads alone, which are all of memory that they reach there (R310). -/
def Device.packable (d : Device) (ids : List Nat) : Bool :=
  (ids.all fun id => (d.core id).sendq.all (fun p => p.2.all fun e => e.fab.isNone) && (d.core id).fifo.all fun c => c.within ids) &&
  (d.flights.all fun f => f.fab.isNone || (f.src.all fun id => !ids.contains id)) && (d.acks.all fun a => !ids.contains a.core) &&
  d.jobs.all fun j => !ids.contains j.card.core || j.card.within ids

/-- A portable team leaves for another package: its contexts and jobs are packed under its members' home ids, and records for its
members go after it; of a member whose home is here, the locks of its post-draw state stay (R235). -/
def Device.departWhen (d : Device) (ok : Nat → Bool) (now : Nat) (pack : Nat → Core → Core) (die team : Nat) (dst : DieAt)
    (toTeam : Nat) : Device :=
  let b := d.slot die team
  let ids := b.members die
  match ids with
  | [] => d
  | first :: _ =>
    let launch := d.launchOf first
    if d.mayLeave ok die team ∧ d.packable ids ∧ b.portable ∧ d.lender b launch = some dst then
      let p := d.partOf die
      let d := ids.foldl (fun d id => (d.takeAnswer id now).withdraw id) d
      let homes := ids.map fun id => (id, (d.core id).homeId.getD id)
      let card := Card.renamed (renameIn homes)
      let members := homes.map fun x =>
        (x.2, pack x.1 { (d.core x.1).relocate x.1 with fifo := (d.core x.1).fifo.map card })
      let mine (j : Job) : Bool := ids.contains j.card.core
      let jobs := (d.jobs.filter mine).map fun j => { j with card := card j.card }
      let d := if launch.1 = d.pkgNum then
          homes.foldl (fun d x => { d.renameLocks p x.1 (p + 8) x.2 with away := FMap.set d.away (movedKey p x.1) dst.pkg }) d
        else { d with passedOn := ids.foldl (fun m id => FMap.set m (movedKey p id) dst.pkg) d.passedOn }
      let d := ids.foldl (fun d id => d.setCore id (Core.reset id)) d
      let t : MovedTeam := ⟨launch.1, launch.2, ⟨d.pkgNum, die⟩, team, dst, toTeam, b, members, jobs⟩
      { d.setSlot die team BindRec.reset with jobs := d.jobs.filter fun j => !mine j, travel := d.travel ++ [t] }
    else d

def Device.departTeam (d : Device) (die team : Nat) (dst : DieAt) (toTeam : Nat) : Device :=
  d.departWhen (d.movable (d.slot die team).handler) d.cycle (fun id c => c.parked d.cycle (d.stalledOf id)) die team dst toTeam

def Device.departSaved (d : Device) (p : Nat) (x : Context) (die team : Nat) (dst : DieAt) (toTeam : Nat) : Device :=
  let v := d.withSaved p x
  let w := v.departWhen v.still 0 (fun _ c => c) die team dst toTeam
  { d with shadow := FMap.set d.shadow p { x with cores := w.cores, slots := w.slots, jobs := w.jobs }, away := w.away, passedOn := w.passedOn,
           travel := w.travel, flights := w.flights, locks := w.locks }

/-- A member's context as it comes into force in this package: with its home and the page table that the operating system
supplies; back in its home package it has a new id, and messages for the old one follow it. -/
def Device.settle (d : Device) (t : MovedTeam) (l : Lent) (m : Nat × Core) (id : Nat) : Device :=
  let c := (m.2.reloaded id).unparked d.cycle
  let c := { c with cr := { c.cr with ptbr := l.ptbr } }
  let p := d.partOfCore id
  let d := if t.home = d.pkgNum then
      let d := { (d.redirect p m.1 id).renameLocks (p + 8) m.1 p id with
                   away := FMap.erase d.away (movedKey p m.1), reports := FMap.erase d.reports (movedKey p m.1) }
      d.setCore id { c with home := none, homeId := none }
    else d.setCore id { c with home := some (t.home, t.part), homeId := some m.1 }
  d.noticeDisc p id m.2

/-- The team on its way from a place in another package to one in this one. -/
def Device.coming (d : Device) (src : DieAt) (team : Nat) (dst : DieAt) (toTeam : Nat) : Option (MovedTeam × Nat) :=
  d.travel.zipIdx.find? fun x => x.1.src == src && x.1.team == team && x.1.dst == dst && x.1.toTeam == toTeam

/-- A team that has come from another package is bound where slots are lent to its launch, in the partition that holds them. -/
def Device.land (d : Device) (t : MovedTeam) (k : Nat) : Device :=
  let die := t.dst.die
  match d.lent.find? (fun l => l.pkg == t.home && l.part == t.part && l.die == die && l.isS == t.bind.isS), d.landing t.bind die with
  | some l, some a =>
    if (d.slot die t.toTeam).valid = false ∧ (t.home ≠ d.pkgNum ∨ d.partOf die = t.part) then
      let b := { t.bind.at a with w0 := setBits t.bind.w0 10 3 (d.partOf die) }
      let d := (t.members.zip (b.members die)).foldl (fun d x => d.settle t l x.1 x.2) (d.occupy (b.members die))
      let d : Device := { d with jobs := d.jobs ++ t.jobs }
      let d := d.moveCards ((t.members.map fun (m : Nat × Core) => m.1).zip (b.members die)) die
      { d.setSlot die t.toTeam b with travel := d.travel.eraseIdx k }
    else d
  | _, _ => d

/-- A step of a team's move (R308, steps 1 to 5; R310): within the package, away from it, or into place here of one on its
way. A team that leaves is the one in place, or else the one of that number in a saved context. (DESIGN CHOICE, log entries 31 and 57.) -/
def Device.moveTeam (d : Device) (src : DieAt) (team : Nat) (dst : DieAt) (toTeam : Nat) : Device :=
  let die := src.die
  if die < 8 ∧ dst.die < 8 ∧ team < 256 ∧ toTeam < 256 then
    if src.pkg = d.pkgNum then
      match (d.slot die team).valid, d.savedTeam die team with
      | true, _ => if dst.pkg = d.pkgNum then d.migrate die team dst.die toTeam else d.departTeam die team dst toTeam
      | false, some (p, x) =>
        if dst.pkg = d.pkgNum then d.migrateSaved p x die team dst.die toTeam else d.departSaved p x die team dst toTeam
      | false, none => d
    else if dst.pkg = d.pkgNum then
      match d.coming src team dst toTeam with
      | some (t, k) => d.land t k
      | none => d
    else d
  else d

def execTeamMigration (src : DieAt) (team : Nat) (dst : DieAt) (toTeam : Nat) (s : State) : Result :=
  happen (whenUp fun d => d.moveTeam src team dst toTeam) s

/-- A context from another package: its scratchpad in canonical form. -/
def Core.canonical (c : Core) : Core := { c with sp := c.sp.foldl (fun m p => writeByte m p.1 p.2) [] }

/-- News of other packages (R310). -/
def Device.hear (d : Device) : FabricNews → Device
  | .offer o => { d with offers := (d.offers.filter fun x => !(x.pkg == o.pkg && x.die == o.die && x.home == o.home && x.part == o.part && x.isS == o.isS)) ++ [o] }
  | .lend l => { d with lent := (d.lent.filter fun x => !(x.pkg == l.pkg && x.part == l.part && x.die == l.die && x.isS == l.isS)) ++ [l] }
  | .team t =>
    if t.dst.pkg = d.pkgNum then { d with travel := d.travel ++ [{ t with members := t.members.map fun m => (m.1, m.2.canonical) }] } else d
  | .report part id r => if (FMap.find d.away (movedKey part id)).isSome then { d with reports := FMap.set d.reports (movedKey part id) r } else d

end Sys2Proof.Machine
end

