-- ==== Sys2Proof/Machine/Launch.lean ====
section
/-!
DEFINITION. Quiescence sweeps (R320, R321) and the launch interface of a partition (R319, R322 to R324).
-/

namespace Sys2Proof.Machine

/-! ## Sweeps (R320, R321) -/

/-- Idle for a sweep. -/
def Device.sweepIdle (d : Device) (id : Nat) : Bool :=
  let c := d.core id
  c.idle && c.fifo.isEmpty && d.jobs.all (fun j => j.card.core != id) && c.sendq.all (fun p => p.2.isEmpty) && c.tokens.isEmpty

/-- The listed cores of a partition's launch; an unlisted core is idle with both counts 0. Members moved from another package
are their home partition's (R310). -/
def Device.coresIn (d : Device) (p : Nat) : List Nat :=
  (d.cores.map (·.1)).filter fun id => isCore id && d.partOfCore id == p && (d.core id).home.isNone

/-- What has been reported of the members that the partition has in other packages; none without a report (R310). -/
def Device.absent (d : Device) (p : Nat) : List (Option Report) :=
  (d.away.filter fun x => x.1 / 65536 == p).map fun x => FMap.find d.reports x.1

/-- One sweep: whether every core and claim queue is idle, and the two sums. (DEDUCED, log entry 52.) -/
def Device.sweepNow (d : Device) (p : Nat) : Bool × Nat × Nat :=
  let ids := d.coresIn p
  let dies := d.diesOf p
  let gone := (d.absent p).filterMap id
  (ids.all d.sweepIdle && dies.all (fun k => (d.claims k).isEmpty) && (d.absent p).all fun r => match r with
      | some r => r.idle
      | none => false,
   (ids.map fun id => (d.core id).sent.toNat).sum + (dies.map fun k => (FMap.get d.claimSent k 0).toNat).sum + (gone.map fun r => r.sent.toNat).sum,
   (ids.map fun id => (d.core id).recv.toNat).sum + (dies.map fun k => (FMap.get d.claimRecv k 0).toNat).sum + (gone.map fun r => r.recv.toNat).sum)

/-- A sweep; the reports that it has read are spent, and the next needs its own (R310). DEDUCED, log entry 52. -/
def Device.startSweep (d : Device) (p : Nat) : Device :=
  let l := d.launch p
  if l.launchOpen ∧ l.sweep.isNone ∧ (d.diesOf p).isEmpty = false then
    let (idle, sent, recv) := d.sweepNow p
    { d.setLaunch p { l with sweep := some (d.cycle, idle, sent, recv) } with
      reports := d.reports.filter fun x => x.1 / 65536 != p }
  else d

def execQuiescenceSweep (part : Nat) (s : State) : Result := happen (fun d => d.startSweep part) s

/-- The sums reach the root: two successive idle sweeps with equal sums make the partition quiescent. (DEDUCED, log entry 52.) -/
def Launch.sweepEnds (l : Launch) : Launch :=
  match l.sweep with
  | some (_, idle, sent, recv) =>
    if idle ∧ sent = recv then { l with sweep := none, last := some (sent, recv), quiet := l.last == some (sent, recv) }
    else { l with sweep := none, last := none, quiet := false }
  | none => l

def execSweepResult (part : Nat) (s : State) : Result := happen (fun d => d.setLaunch part (d.launch part).sweepEnds) s

/-! ## Entries (R322, R323) -/

/-- The ring's base, while it is valid. -/
def Device.ringBase (d : Device) (p : Nat) : Option Nat :=
  let lo := FMap.get d.regs (0x2001800000 + 32 * p) 0
  let hi := FMap.get d.regs (0x2001800004 + 32 * p) 0
  if lo.getLsbD 0 then some (bits hi 19 0 * 2 ^ 32 + bits lo 31 7 * 128) else none

/-- An entry as its place in application-die memory holds it. -/
structure Entry where
  e0 : Word
  e1 : Word
  e2 : DWord
  e3 : Word
  /-- whether bytes 20 to 63 are zero -/
  clear : Bool
  data : Line
  deriving DecidableEq, Repr

def Device.entryAt (d : Device) (a : Nat) : Entry :=
  ⟨readWord d.mem a, readWord d.mem (a + 4), BitVec.ofNat 64 (readLE d.mem (a + 8) 8), readWord d.mem (a + 16),
   (readBytes d.mem (a + 20) 44).all (· == 0), readLine d.mem (a + 64)⟩

def Entry.kind (e : Entry) : Nat := bits e.e0 3 0
def Entry.target (e : Entry) : Nat := bits e.e0 31 16

/-- The entry that the interface takes next: the ring is valid and not empty, the interface is not stopped, no record of
it is on its way, and the partition is in place. -/
def Device.nextEntry (d : Device) (p : Nat) : Option Entry :=
  let l := d.launch p
  match d.ringBase p with
  | some b =>
    if l.head ≠ l.tail ∧ l.stopped = false ∧ (d.flights.all fun f => f.launch != some p) ∧ (d.diesOf p).isEmpty = false then
      some (d.entryAt (b + 128 * l.head))
    else none
  | none => none

def Device.launchIrq (d : Device) (i : AppIrq) : Device := { d with appIrqs := d.appIrqs ++ [i] }

/-- The interface stops at an entry with an error code (R324). -/
def Device.stopLaunch (d : Device) (p code : Nat) : Device :=
  (d.setLaunch p { d.launch p with stopped := true, err := code }).launchIrq (.launchStop p)

/-- The next entry handled by its kind: error codes first, in ascending order. (DESIGN CHOICE, log entry 51.) -/
def Device.takeEntry (d : Device) (p : Nat) (mine : Nat → Bool) (errors : Entry → List (Nat × Bool)) (apply : Device → Entry → Device) :
    Device :=
  match d.nextEntry p with
  | some e =>
    if mine e.kind then
      match (errors e).find? (·.2) with
      | some (code, _) => d.stopLaunch p code
      | none => apply d e
    else d
  | none => d

def Device.doneEntry (d : Device) (p : Nat) : Device := d.setLaunch p (d.launch p).advance

/-- A nonzero field that the kind does not use. -/
def Entry.stray (e : Entry) (target e1 e2 e3 data : Bool) : Bool :=
  bits e.e0 15 4 != 0 || (!target && e.target != 0) || (!e1 && e.e1 != 0) || (!e2 && e.e2 != 0) || (!e3 && e.e3 != 0) ||
  !e.clear || (!data && e.data != 0)

/-- A target that names no core of the partition. -/
def Device.badTarget (d : Device) (p : Nat) (e : Entry) : Bool := !isCore e.target || d.partOfCore e.target != p

/-- A load entry waits for a core that runs nothing and has no waiting record, nor one to start again (R342). -/
def Core.loadable (c : Core) : Bool :=
  c.act.isNone && c.susp.isNone && c.dq.waiting.isEmpty && c.dq.priv.isEmpty && c.dq.ringCount == 0 && c.redeliver.isEmpty

/-- Kind 0. -/
def execLaunchEntrySkip (part : Nat) (s : State) : Result :=
  happen (fun d => d.takeEntry part (· == 0) (fun e => [(1, e.stray false false false false false)]) fun d _ => d.doneEntry part) s

/-- A launch opens: the counts of the partition are zeroed (R320). (DEDUCED, log entry 52.) -/
def Device.openLaunch (d : Device) (p : Nat) : Device :=
  if (d.launch p).launchOpen then d
  else
    let d := (d.coresIn p).foldl (fun d id => d.modCore id fun c => { c with sent := 0, recv := 0 }) d
    let d := { d with claimSent := d.claimSent.filter fun x => d.partOf x.1 != p, claimRecv := d.claimRecv.filter fun x => d.partOf x.1 != p }
    d.setLaunch p { d.launch p with launchOpen := true }

/-- A record that the interface will not inject. -/
def badRecord (r : Line) : Bool := decide (13 < recCount r) || recNet r % 2 == 1 || recPackage r != 0

/-- Kind 1, and the kinds 7 to 15, which stop. (DESIGN CHOICE, log entry 51.) -/
def execLaunchEntryRecord (part : Nat) (s : State) : Result :=
  happen (fun d => d.takeEntry part (fun k => k == 1 || 6 < k)
    (fun e => [(1, e.kind != 1 || e.stray true false false false true), (2, d.badTarget part e), (7, badRecord e.data)])
    fun d e =>
      let d := d.openLaunch part
      let d := d.setLaunch part { d.launch part with batchOpen := true, sweep := none, last := none, quiet := false }
      { d with flights := d.flights ++ [⟨.record, e.data, e.target, recNet e.data, none, part, false, some part, 0, 0, 0, 0, none⟩] }) s

/-- Kind 2. -/
def execLaunchEntryHandler (part : Nat) (s : State) : Result :=
  happen (fun d => d.takeEntry part (· == 2)
    (fun e => [(1, e.stray true true true true false), (2, d.badTarget part e),
      (3, bits e.e1 31 8 != 0 || !attrOk e.e3 || !entryPcOk e.e2)])
    fun d e =>
      if (d.core e.target).loadable then
        (d.modCore e.target fun c => c.setHandler (bits e.e1 7 0) (handlerEntry e.e2 e.e3)).doneEntry part
      else d) s

/-- A control register of a core written as a privileged `kmov.d` would; none where it is refused. -/
def Device.writeReg (d : Device) (id : Nat) (hind : Bool) (k : Nat) (v : DWord) : Option Device :=
  if 43 ≤ k ∨ k = 11 ∨ k = 15 ∨ k = 41 ∨ k = 42 ∨ (isMoraine id ∧ moraineK k = false) then none
  else
    let s : State := { State.reset with dev := d, issue := { State.reset.issue with core := id, hind := hind } }
    (s.writeK k v).map State.dev

/-- Kind 3. -/
def execLaunchEntryControl (part : Nat) (s : State) : Result :=
  happen (fun d => d.takeEntry part (· == 3)
    (fun e => [(1, e.stray true true true false false || bits e.e1 31 8 != 0 || (e.e1.getLsbD 7 && bits e.e1 6 0 != 9)),
      (2, d.badTarget part e), (4, (d.writeReg e.target (e.e1.getLsbD 7) (bits e.e1 6 0) e.e2).isNone)])
    fun d e =>
      if (d.core e.target).loadable then
        ((d.writeReg e.target (e.e1.getLsbD 7) (bits e.e1 6 0) e.e2).getD d).doneEntry part
      else d) s

/-- 64 bytes of a scratchpad, each granule with its full bit and without poison, and the tag when it is set. Of the queue image
too: R323 excludes no offset. (DEDUCED, log entry 28.) -/
def Core.loadSp (c : Core) (id off : Nat) (v : Line) (e3 : Word) : Core :=
  let c : Core := if inImage id off then
      { c with sp := writeBytes c.sp off (leBytes 64 v.toNat), spPoison := poisonAfter c.spPoison off 64 false } else c
  (List.range 4).foldl (fun c g =>
    let c := c.spStore id (off + 16 * g) (leBytes 16 (bits v (128 * g + 127) (128 * g)))
      false (if e3.getLsbD 12 then some (BitVec.ofNat 4 (bits e3 11 8)) else none) false
    c.setFull (off + 16 * g) 16 (e3.getLsbD g)) c

/-- Kind 4. -/
def execLaunchEntryScratchpad (part : Nat) (s : State) : Result :=
  happen (fun d => d.takeEntry part (· == 4)
    (fun e => [(1, e.stray true true false true true || bits e.e1 31 18 != 0 || bits e.e3 7 4 != 0 || bits e.e3 31 13 != 0),
      (2, d.badTarget part e), (5, bits e.e1 5 0 != 0 || decide (spSize e.target < bits e.e1 17 0 + 64))])
    fun d e =>
      if (d.core e.target).loadable then
        (d.modCore e.target fun c => c.loadSp e.target (bits e.e1 17 0) e.data e.e3).doneEntry part
      else d) s

/-- Whether a DRAM span lies in a row of the partition's channels. -/
def Device.rowsIn (d : Device) (p pa n : Nat) : Bool :=
  match rowAt pa, rowAt (pa + n - 1) with
  | some a, some b => d.partOf (bankDie a.bank) == p && d.partOf (bankDie b.bank) == p
  | _, _ => false

/-- Kind 5: the bank writes the bytes once the operations before them are performed. -/
def execLaunchEntryDram (part : Nat) (s : State) : Result :=
  happen (fun d => d.takeEntry part (· == 5)
    (fun e => [(1, e.stray false true true false true),
      (6, e.e1.toNat % 4 != 0 || decide (e.e1.toNat < 4) || decide (64 < e.e1.toNat) || e.e2.toNat % 4 != 0 ||
        !d.rowsIn part e.e2.toNat e.e1.toNat)])
    fun d e =>
      let idle (pa : Nat) : Bool := match rowAt pa with
        | some r => d.bankFree r.bank
        | none => true
      if idle e.e2.toNat && idle (e.e2.toNat + e.e1.toNat - 1) then
        (d.poke e.e2.toNat (leBytes e.e1.toNat e.data.toNat) false).doneEntry part
      else d) s

/-- The end of a batch is reached: it is counted, the interrupt is raised, and the last batch ends the launch, with
which forwarding to moved cores ends (R309, R310). -/
def Device.endBatch (d : Device) (p : Nat) (final : Bool) : Device :=
  let l := d.launch p
  let d := d.setLaunch p { l.advance with batchOpen := false, batches := (l.batches + 1) % 65536,
                                          launchOpen := l.launchOpen && !final, sweep := none, last := none, quiet := false }
  let d := if final then
      { d with moved := d.moved.filter fun x => x.1 / 65536 != p, away := d.away.filter fun x => x.1 / 65536 != p,
               reports := d.reports.filter fun x => x.1 / 65536 != p } else d
  d.launchIrq (.batchEnd p)

/-- Kind 6. -/
def execLaunchEntryBatchEnd (part : Nat) (s : State) : Result :=
  happen (fun d => d.takeEntry part (· == 6)
    (fun e => [(1, e.stray false true false false false || bits e.e1 31 1 != 0)])
    fun d e => if (d.launch part).batchOpen && !(d.launch part).quiet then d else d.endBatch part (e.e1.getLsbD 0)) s

/-! ## Writes of the application cores (R322) -/

def execLchStatRetry (part : Nat) (s : State) : Result :=
  happen (whenUp fun d => if (d.launch part).stopped then d.setLaunch part { d.launch part with stopped := false, err := 0 } else d) s

def execLchStatSkip (part : Nat) (s : State) : Result :=
  happen (whenUp fun d =>
    if (d.launch part).stopped then d.setLaunch part { (d.launch part).advance with stopped := false, err := 0 } else d) s

def execLchTailWrite (part : Nat) (v : Word) (s : State) : Result :=
  happen (whenUp fun d => d.setLaunch part { d.launch part with tail := bits v 11 0 }) s

/-- What `lch.stat` reads. -/
def Device.lchStat (d : Device) (p : Nat) : Word :=
  let l := d.launch p
  BitVec.ofNat 32 ((decide (l.head ≠ l.tail) || l.batchOpen).toNat + l.stopped.toNat * 2 + l.batchOpen.toNat * 4 +
    l.launchOpen.toNat * 16 + l.err * 256 + l.batches * 65536)

end Sys2Proof.Machine
end

