-- ==== Sys2Proof/Machine/Registers.lean ====
section
/-!
DEFINITION. Device registers (R302, R313, R349, R355, R356), the address space of a management core (R357), notices held
and injected (R332, R335, R350), the egress hold queue (R315, R316, R355), device DMA (R354) and package numbers (R360).
-/

namespace Sys2Proof.Machine

/-! ## Partition registers (R332, R349, R358) -/

/-- A write to `part.sup`: the drop count is cleared; a valid supervisor must be a markhor core of the partition. (DEDUCED, log entry 53.) -/
def Device.writeSup (d : Device) (p : Nat) (v : Word) : Device :=
  let x := d.part p
  let id := bits v 15 0
  let ok : Bool := !v.getLsbD 16 || (isMarkhor id && d.partOfCore id == p)
  d.setPart p { x with sup := if ok then BitVec.ofNat 32 (bits v 17 0) else x.sup, dropped := 0 }

def execPartSupWrite (reg : PartAccess) (v : Word) (s : State) : Result :=
  happen (whenUp fun d => if reg.part < 8 ∧ d.byPart reg.ac reg.part then d.writeSup reg.part v else d) s

/-- The value that a write to `part.qos` stores. -/
def qosStored (v : Word) : Word :=
  let dram := if bits v 6 0 = 0 then 1 else min (bits v 6 0) 64
  BitVec.ofNat 32 (dram + bits v 14 8 * 2 ^ 8 + min (bits v 23 16) 128 * 2 ^ 16)

/-- The network shares of all partitions, with one replaced. -/
def Device.networkShares (d : Device) (p : Nat) (v : Word) : Nat :=
  ((List.range 8).map fun k => bits (if k = p then v else (d.part k).qos) 14 8).sum

/-- New shares of a partition in force. The cycles that rows of its cores have waited are counted under the old budgets; a row
that still finds no room in its window waits on (R159, R358). -/
def Device.setShares (d : Device) (p : Nat) (qos : Word) : Device :=
  let new := d.setPart p { d.part p with qos := qos }
  let due := (d.cores.map (·.1)).filter fun id => d.partOfCore id == p && (d.core id).mxu.govFrom.isSome
  due.foldl (fun e id => e.modCore id fun c =>
    c.setStall (d.cyclesOf (dieOf id)) (new.budgetOf id) (c.cr.mxstl + BitVec.ofNat 32 (d.stalledOf id))) new

def Device.writeQos (d : Device) (p : Nat) (v : Word) : Device :=
  if d.networkShares p v ≤ 64 then d.setShares p (qosStored v) else d

def execPartQosWrite (reg : PartAccess) (v : Word) (s : State) : Result :=
  happen (whenUp fun d => if reg.part < 8 ∧ d.byPart reg.ac reg.part then d.writeQos reg.part v else d) s

/-- Whether a die is free: no core of it runs an activation, and no bind record of it is valid. -/
def Device.dieFree (d : Device) (die : Nat) : Bool :=
  (d.listedOf die).all (fun id => (d.core id).act.isNone && (d.core id).susp.isNone) &&
  d.slots.all fun p => p.1 / 256 != die || !p.2.valid

def execDiePartWrite (ac : RegAccess) (die : Nat) (v : Word) (s : State) : Result :=
  happen (whenUp fun d =>
    if RegAccess.byApp ac ∧ die < 8 ∧ d.dieFree die then { d with dieParts := FMap.put d.dieParts die (bits v 2 0) 0 } else d) s

/-! ## Notices (R332, R335, R350) -/

/-- The oldest held notice is delivered once a supervisor can take it. -/
def Device.deliverHeld (d : Device) (p : Nat) : Device :=
  let x := d.part p
  match x.held, d.supervisor p with
  | n :: t, some id =>
    match d.give (d.lowestDie p) id n with
    | some e => e.setPart p { x with held := t }
    | none => d
  | _, _ => d

def execHeldNoticeDelivery (part : Nat) (s : State) : Result := happen (fun d => d.deliverHeld part) s

def ninjAddr (p i : Nat) : Nat := 0x2001000800 + 32 * p + 4 * i

/-- A write to word 7 of `part.ninj`: words 1 to 6 become the payload of a PAGEMAP or IRQ notice from w4 on, of which the words
beyond the kind's count are zero (R333). (DEDUCED, log entry 54.) -/
def Device.inject (d : Device) (p : Nat) : Device :=
  let w (i : Nat) : Word := FMap.get d.regs (ninjAddr p i) 0
  let payload (c : Cause) : List Word := ((List.range 6).map fun i => w (i + 1)).take (noticeCount c - 1)
  if bits (w 0) 7 0 = causeCode .pagemap then d.noticeOwn p .pagemap (payload .pagemap)
  else if bits (w 0) 7 0 = causeCode .irq then d.noticeOwn p .irq (payload .irq)
  else d

/-- Application cores write `part.ninj` (R335). -/
def execPartNinjSend (reg : PartAccess) (s : State) : Result :=
  happen (whenUp fun d => if reg.part < 8 ∧ RegAccess.byApp reg.ac then d.inject reg.part else d) s

def execDeviceInterrupt (part : Nat) (vector : Word) (s : State) : Result :=
  happen (fun d => if part < 8 then d.noticeOwn part .irq [vector] else d) s

/-! ## Registers with no behaviour of their own (R356) -/

/-- The bits of a register that an access stores; none where the write is ignored. -/
def regMask (d : Device) (ac : RegAccess) (addr : Nat) : Option Nat :=
  let o := addr - 0x2000000000
  let low : Nat := 0xFFFFFFFF
  if addr < 0x2000000000 ∨ addr % 4 ≠ 0 then none
  else if o < 0x800000 ∧ 0x1004 ≤ o % 0x100000 ∧ o % 0x100000 ≤ 0x100C then
    (if RegAccess.byApp ac || RegAccess.byDie ac (o / 0x100000) then some 0x1FF else none)
  else if 0x1000000 ≤ o ∧ o < 0x1000080 ∧ o % 16 = 8 then (if d.byPart ac ((o - 0x1000000) / 16) then some (low - 62) else none)
  else if 0x1000000 ≤ o ∧ o < 0x1000080 ∧ o % 16 = 12 then (if d.byPart ac ((o - 0x1000000) / 16) then some 0xFFFFF else none)
  else if !RegAccess.byApp ac then none
  else if 0x1000800 ≤ o ∧ o < 0x1000900 ∧ o % 32 ≠ 28 then some low
  else if 0x1800000 ≤ o ∧ o < 0x1800100 ∧ o % 32 = 0 then some (low - 126)
  else if 0x1800000 ≤ o ∧ o < 0x1800100 ∧ o % 32 = 4 then some 0xFFFFF
  else if o = 0x2000000 then some (low - 0x1FFFFE)
  else if o = 0x2000004 ∨ o = 0x2000014 then some 0xFFFFF
  else if o = 0x2000010 then some (low - 63)
  else if o = 0x200001C then some 0xFFF
  else none

def Device.writeRegister (d : Device) (ac : RegAccess) (addr : Nat) (v : Word) : Device :=
  match regMask d ac addr with
  | some m => { d with regs := FMap.put d.regs addr (v &&& BitVec.ofNat 32 m) 0 }
  | none => d

def execDeviceRegisterWrite (ac : RegAccess) (addr : Nat) (v : Word) (s : State) : Result :=
  happen (whenUp fun d => d.writeRegister ac addr v) s

/-- `herd.occ` of a pool (R313). -/
def Device.herdOcc (d : Device) (die pool : Nat) : Word :=
  let ids := (d.listedOf die).filter fun id => (d.core id).pool == pool
  BitVec.ofNat 32 (ids.length + (ids.filter fun id => (d.core id).holdsClaim).length * 2 ^ 10 +
    ((d.claims die).filter fun r => r.pool == pool).length * 2 ^ 20)

/-- What a read of a device register gives; an unassigned offset reads zero (R356). (DEDUCED, log entry 78.) -/
def Device.readRegister (d : Device) (addr : Nat) : Word :=
  let o := addr - 0x2000000000
  let die := o / 0x100000
  let r := o % 0x100000
  if addr < 0x2000000000 ∨ addr % 4 ≠ 0 then 0
  else if o < 0x800000 then
    if r < 0x1000 then
      let b := d.slot die (r / 16)
      (match r % 16 with
        | 0 => b.w0
        | 4 => b.w1
        | 8 => b.w2
        | _ => b.status)
    else if 0x2000 ≤ r ∧ r < 0x2018 then
      (if r % 8 = 0 then d.herdOcc die ((r - 0x2000) / 8 + 1) else FMap.get d.drains (4 * die + ((r - 0x2000) / 8 + 1)) 0)
    else if r = 0x3000 then BitVec.ofNat 32 (d.partOf die)
    else FMap.get d.regs addr 0
  else if 0x1000000 ≤ o ∧ o < 0x1000080 ∧ o % 16 = 0 then
    let x := d.part ((o - 0x1000000) / 16)
    BitVec.ofNat 32 (bits x.sup 17 0 + x.dropped * 2 ^ 24)
  else if 0x1000000 ≤ o ∧ o < 0x1000080 ∧ o % 16 = 4 then (d.part ((o - 0x1000000) / 16)).qos
  else if 0x1800000 ≤ o ∧ o < 0x1800100 ∧ 8 ≤ o % 32 then
    let p := (o - 0x1800000) / 32
    (match o % 32 with
      | 8 => BitVec.ofNat 32 (d.launch p).tail
      | 12 => BitVec.ofNat 32 (d.launch p).head
      | 16 => d.lchStat p
      | _ => 0)
  else if o = 0x2000008 then BitVec.ofNat 32 d.pkgNum
  else if o = 0x2000018 then BitVec.ofNat 32 d.ert
  else FMap.get d.regs addr 0

/-! ## The address space of a management core (R357) -/

/-- What an address of a management core's own space is: its private memory, a device register that it may write or not,
another address of the window, or none. (DESIGN CHOICE, log entry 79.) -/
inductive MgmtPlace
  | memory | register (addr : Nat) (writes : Bool) | window | nothing
  deriving DecidableEq, Repr

def mgmtPlace (die addr bytes : Nat) : MgmtPlace :=
  if addr + bytes ≤ 0x400000 then .memory
  else if 0xF0000000 ≤ addr ∧ addr < 0xF0100000 then .register (0x2000000000 + 0x100000 * die + (addr - 0xF0000000)) true
  else if 0xF0100000 ≤ addr ∧ addr < 0xF0100100 then .register (0x2001000000 + (addr - 0xF0100000)) true
  else if 0xF0110000 ≤ addr ∧ addr < 0xF0110100 then .register (0x2002000000 + (addr - 0xF0110000)) false
  else if 0xF0000000 ≤ addr ∧ addr < 0xF0110100 then .window
  else .nothing

/-- A management core's write to a register that it reaches. -/
def Device.mgmtRegister (d : Device) (ac : RegAccess) (addr : Nat) (v : Word) : Device :=
  let o := addr - 0x2000000000
  if addr % 4 ≠ 0 then d
  else if o < 0x800000 ∧ o % 0x100000 < 0x1000 then
    let die := o / 0x100000
    let team := o % 0x100000 / 16
    let b := d.slot die team
    if !RegAccess.byDie ac die then d
    else match o % 16 with
      | 0 => d.writeSlot die team v b.w1 b.w2
      | 4 => d.writeSlot die team b.w0 v b.w2
      | 8 => d.writeSlot die team b.w0 b.w1 v
      | _ => d
  else if 0x1000000 ≤ o ∧ o < 0x1000080 ∧ o % 16 < 8 then
    let p := (o - 0x1000000) / 16
    if d.byPart ac p then (if o % 16 = 0 then d.writeSup p v else d.writeQos p v) else d
  else d.writeRegister ac addr v

/-- An access of a management core: a read leaves its value in the reply. -/
def Device.manage (d : Device) (die addr bytes : Nat) (op : MgmtOp) : Device :=
  let reply (v : Nat) : Device := { d with mgmtReply := FMap.set d.mgmtReply die v }
  let mem := FMap.get d.mgmtMem die []
  match mgmtPlace die addr bytes, op with
  | .memory, .read => reply (readLE mem addr bytes)
  | .memory, .write v => { d with mgmtMem := FMap.put d.mgmtMem die (writeBytes mem addr (leBytes bytes v)) [] }
  | .register a _, .read => reply (if bytes = 4 then (d.readRegister a).toNat else 0)
  | .register a true, .write v => d.mgmtRegister ⟨.management die, bytes⟩ a (BitVec.ofNat 32 v)
  | .register _ false, .write _ => d
  | .window, .read => reply 0
  | .window, .write _ => d
  | .nothing, _ => { d with mgmtFaults := FMap.set d.mgmtFaults die (FMap.get d.mgmtFaults die [] ++ [addr]) }

def inApp (pa n : Nat) : Bool := Config.appBase ≤ pa && pa + n ≤ Config.appEnd

/-! ## Egress (R315, R316, R355) -/

/-- A word of a sequence slot. -/
def slotWord (d : Device) (base slot off : Nat) : Nat := (readWord d.mem (base + 2048 * slot + off)).toNat

/-- An open slot that is not held sends token E while E < min(W, L) and the outbound ring has room. (DEDUCED, log entry 55.) -/
def Device.egress (d : Device) (slot : Nat) : Device :=
  match d.egressBase with
  | some b =>
    let ctl := BitVec.ofNat 32 (slotWord d b slot 12)
    let e := slotWord d b slot 8
    let erb := bits (FMap.get d.regs 0x2002000014 0) 19 0 * 2 ^ 32 + (FMap.get d.regs 0x2002000010 0).toNat
    let erh := (FMap.get d.regs 0x200200001C 0).toNat
    if slot < 1024 ∧ ctl.getLsbD 0 ∧ ctl.getLsbD 1 = false ∧ e < min (slotWord d b slot 0) (slotWord d b slot 4) ∧
        (d.ert + 1) % 4096 ≠ erh ∧ inApp erb 65536 then
      let token := slotWord d b slot (0x40 + 4 * (e % 256))
      let d := d.poke (erb + 16 * d.ert) (leBytes 4 slot ++ leBytes 4 e ++ leBytes 4 token ++ leBytes 4 0) false
      let d := d.poke (b + 2048 * slot + 8) (leBytes 4 (e + 1)) false
      { d with ert := (d.ert + 1) % 4096 }
    else d
  | none => d

def execEgressSend (slot : Nat) (s : State) : Result := happen (fun d => d.egress slot) s

/-- A write of a slot's control word; closing a slot discards its unsent tokens. (DEDUCED, log entry 55.) -/
def Device.slotControl (d : Device) (slot : Nat) (v : Word) : Device :=
  match d.egressBase with
  | some b =>
    if slot < 1024 then
      let was := (BitVec.ofNat 32 (slotWord d b slot 12)).getLsbD 0
      let d := if was && !v.getLsbD 0 then d.poke (b + 2048 * slot + 8) (leBytes 4 (slotWord d b slot 0)) false else d
      d.poke (b + 2048 * slot + 12) (leBytes 4 (bits v 1 0)) false
    else d
  | none => d

def execEgressSlotControlWrite (slot : Nat) (v : Word) (s : State) : Result :=
  happen (whenUp fun d => d.slotControl slot v) s

/-! ## DMA and package numbers (R354, R360) -/

/-- A DMA access (R354). A write to a line of a proposal object is no store of a core: it waits for no lock and raises no version.
(DESIGN CHOICE, log entry 124.) -/
def Device.dma (d : Device) : DmaOp → Device
  | .read pa n => { d with dmaReply := if inApp pa n then some (readBytes d.mem pa n) else none }
  | .write pa bs => if inApp pa bs.length then { d.poke pa bs false with dmaReply := some [] } else { d with dmaReply := none }

def execDeviceDma (op : DmaOp) (s : State) : Result := happen (fun d => d.dma op) s

/-- The number is assigned before the first launch. (DEDUCED, log entry 56.) -/
def execPackageNumberAssignment (n : Nat) (s : State) : Result :=
  happen (whenUp fun d =>
    if 1 ≤ n ∧ n ≤ 255 ∧ (d.launches.all fun p => !p.2.launchOpen && p.2.batches == 0) then { d with pkgNum := n } else d) s

end Sys2Proof.Machine
end

