-- ==== Sys2Proof/Machine/Context.lean ====
section
/-!
DEFINITION. Rollback and uncorrectable errors (R236, R334, R341, R342), the pre-emption of a partition with its saved
context (R188, R235, R344, R345), and the reset of a partition (R350).
-/

namespace Sys2Proof.Machine

/-! ## Rollback (R236, R342) -/

/-- A lock pass of the stream is abandoned: the locks and holds that it has taken are released. -/
def Device.abandonPass (d : Device) (id : Nat) (hind : Bool) : Device :=
  if ((d.core id).stream hind).region.pass.isSome then
    (d.releaseLocks (d.lockName id hind)).modRegion id hind fun r => { r with pass := none }
  else d

/-- The activation of a core ends at once: streams, held messages, journal and MXU queue; stores that have left stay. Rows that its
link buffers hold are discarded, as R178 has it at `done`. (DESIGN CHOICE, log entry 120.) -/
def Core.strike (c : Core) (stalled : Nat) : Core :=
  let stores (hind : Bool) : List Access := (c.outstanding hind).filter fun a => a.kind.isStore
  let left (x : Card) : Nat := (((c.outstanding x.hind).take x.before.accs).filter fun a => a.kind.isStore).length
  let c : Core := { c.emptyQueue stalled with fifo := c.fifo.map fun x => { x with before := { x.before with accs := left x } } }
  { c with fore := { Stream.reset with acc := stores false }, hind := { Stream.reset with acc := stores true },
           sendq := (c.sendq.map fun p => (p.1, p.2.filter fun e => !e.held)).filter fun p => !p.2.isEmpty,
           tokens := [], journal := [], mxu := { c.mxu with links := [] }, act := none,
           queries := (c.queries.filter fun q => !q.answered).map fun q => { q with abandoned := true }, walkFail := [] }

/-- The activation ends: the record of a redelivered one is destroyed with an UNCORR notice, and any other is dispatched again,
before the records that wait for that already. -/
def Device.undo (d : Device) (id : Nat) (a : Activation) (e : Dying) : Device :=
  let redo := (d.core id).cr.redo
  let d := (d.abandonPass id false).abandonPass id true
  let d := d.modCore id fun c => { c.strike (d.stalledOf id) with dying := none }
  if redo then
    ((d.modCore id fun c => c.noteIdle d.cycle).settlePools (dieOf id)).notice (d.partOfCore id) .uncorr id
      [BitVec.ofNat 32 id, BitVec.ofNat 32 (e.code + 256), BitVec.ofNat 32 e.pa]
  else d.modCore id fun c => { c with redeliver := a :: c.redeliver }

/-- A stream of the core has drawn and not ended its `pcom`; a secondary's publication is its primary's (R237). -/
def Device.mustPublish (d : Device) (id : Nat) : Bool :=
  !(d.twins.any fun t => t.2 == id) && ((d.core id).fore.region.post.isSome || (d.core id).hind.region.post.isSome)

/-- What an error leads to once no publication is left: the core stops, its lock passes abandoned (R330), or the activation is rolled
back (R342). -/
def Device.falls (d : Device) (id : Nat) (a : Activation) (e : Dying) : Device :=
  match e.halts with
  | some c => (((d.abandonPass id false).abandonPass id true).modCore id fun x => { x with dying := none }).halt id c
  | none => d.undo id a e

/-- An error in a core's activation: a publication is completed from its saved state first (R236). -/
def Device.fails (d : Device) (id : Nat) (e : Dying) : Device :=
  match (d.core id).act with
  | none => d
  | some a =>
    if d.mustPublish id then d.modCore id fun c => { c with dying := c.dying.or (some e) }
    else d.falls id a e

/-- A core in an activation started for trap handling. -/
def Core.handling (c : Core) : Bool := c.act.any (·.handling)

/-- A rollback with the unit's code and the struck line's address; a trap-handling activation stops the core (R330). -/
def Device.rollback (d : Device) (id code pa : Nat) (cause : Cause) : Device :=
  d.fails id ⟨code, pa, if (d.core id).handling then some cause else none⟩

/-- What a stream of a core does at its turn once an error waits for its publication: the next line is written, needing no
register of the core, as R217 writes it; after the last one the locks are released, and once no publication is left, the
activation is rolled back, or the core stops (R236, R330). -/
def Device.completes (d : Device) (id : Nat) (hind : Bool) (e : Dying) : Device :=
  let r := ((d.core id).stream hind).region
  match r.post with
  | none => d
  | some p =>
    match (r.rest p).head? with
    | some l => if d.linkIdle (dieOf id) l.pa then (d.publish id l).modRegion id hind Region.advance else d
    | none =>
      let d := (d.releaseLocks (d.lockName id hind)).modRegion id hind fun r => closedRegion r.last
      match (d.core id).act with
      | some a => if d.mustPublish id then d else d.falls id a e
      | none => d

/-! ## Reset of a partition (R221, R350) -/

def keepKeys {α : Type} (m : FMap α) (f : Nat → Bool) : FMap α := m.filter fun p => f p.1

def dropDies (dies : List Nat) (die : Nat) : Bool := !dies.contains die

/-- Locks of a partition's regions released: owners are named with their partition, those of members moved to another package
with a number 8 above it. -/
def Device.releasePart (d : Device) (p : Nat) : Device :=
  let mine (w : Nat × Bool) : Bool := w.1 / 131072 % 8 == p
  { d with locks := (d.locks.map fun x => (x.1, (⟨match x.2.writer with
      | some w => if mine w then none else some w
      | none => none, x.2.readers.filter fun w => !mine w⟩ : LineLock))).filter fun x => x.2 != LineLock.free }

/-- A die of the partition is reset: cores, caches, tables, banks' queues and engines; vaults and DRAM rows stay. (DEDUCED, log entry 59.) -/
def Device.resetDies (d : Device) (p : Nat) (dies : List Nat) : Device :=
  let out := dropDies dies
  { d with cores := keepKeys d.cores fun id => out (dieOf id),
           caches := keepKeys d.caches fun k => out (k / 2048 / 32),
           scopes := keepKeys d.scopes fun ln => !(isVault (64 * ln) && dies.contains (vaultCluster (64 * ln) / 32)),
           versions := keepKeys d.versions fun ln => !(isVault (64 * ln) && dies.contains (vaultCluster (64 * ln) / 32)),
           objs := d.objs.filter fun o => o.part != p,
           banks := keepKeys d.banks fun i => out (bankDie i),
           bankq := keepKeys d.bankq fun i => out (bankDie i),
           linesWait := keepKeys d.linesWait fun k => out (k / 64),
           slots := keepKeys d.slots fun k => out (k / 256),
           claimq := keepKeys d.claimq out,
           claimSent := keepKeys d.claimSent out,
           claimRecv := keepKeys d.claimRecv out,
           drains := keepKeys d.drains fun k => out (k / 4),
           poolActive := d.poolActive.filter fun k => out (k / 4),
           regs := keepKeys d.regs fun a => !(0x2000000000 ≤ a && a < 0x2000800000 && dies.contains ((a - 0x2000000000) / 0x100000)),
           walks := d.walks.filter fun w => out w.die,
           jobs := d.jobs.filter fun j => out j.die,
           flights := d.flights.filter fun f => f.part != p,
           linkFlights := d.linkFlights.filter fun f => out (dieOf f.dst),
           acks := d.acks.filter fun a => out (dieOf a.core),
           dieEpoch := dies.foldl (fun m k => FMap.set m k d.cycle) d.dieEpoch,
           moved := keepKeys d.moved fun k => k / 65536 != p,
           away := keepKeys d.away fun k => k / 65536 != p,
           passedOn := keepKeys d.passedOn fun k => k / 65536 != p,
           linkUse := d.linkUse.filter fun k => k % 8 != p,
           reports := keepKeys d.reports fun k => k / 65536 != p,
           shadow := FMap.erase d.shadow p,
           twins := d.twins.filter fun t => out (dieOf t.1) }

/-- The reset, with a DIERESET notice for each die. (DEDUCED, log entry 59.) -/
def Device.resetPart (d : Device) (p : Nat) : Device :=
  let dies := d.diesOf p
  dies.foldl (fun d k => d.noticeOwn p .diereset [BitVec.ofNat 32 k]) ((d.releasePart p).resetDies p dies)

def execPartitionReset (part : Nat) (s : State) : Result := happen (whenUp fun d => if part < 8 then d.resetPart part else d) s

/-! ## Uncorrectable errors (R334, R336, R338, R341) -/

/-- The records of the memory queue, oldest first. -/
def Core.ringRecords (c : Core) : List Line :=
  (List.range c.dq.ringCount).map fun k => BitVec.ofNat 512 (readLE c.sp (c.dq.place k) 64)

/-- Record `k` of the memory queue destroyed: those behind it close up. -/
def Core.dropSpilled (c : Core) (id k : Nat) : Core :=
  let l := c.ringRecords.eraseIdx k
  let last := c.dq.place (c.dq.ringCount - 1)
  let c := (l.zipIdx).foldl (fun c p => c.spStore id (c.dq.place p.2) (leBytes 64 p.1.toNat) true (some 0) false) c
  { c.setFull last 64 false with dq := { c.dq with ringCount := c.dq.ringCount - 1 } }

/-- A send-queue entry destroyed, with what is on its way of it. -/
def Device.dropEntry (d : Device) (id net k : Nat) : Device :=
  let c := d.core id
  match (c.netQueue net)[k]? with
  | some e =>
    let d := d.setCore id (c.setNetQueue net ((c.netQueue net).eraseIdx k))
    let d := if e.inFlight then
        { d with flights := d.flights.filter fun f => !(f.src == some id && f.net == net && f.kind != .token) } else d
    d.lost id e.r
  | none => d

/-- Poison of one granule of a line's four. -/
def granBit (g : Nat) : BitVec 4 := if g < 4 then 1 <<< g else 0

/-- Element `k` of a list at a key changed. -/
def modAt {α : Type} (m : FMap (List α)) (key k : Nat) (f : α → α) : FMap (List α) := m.map fun p => if p.1 = key then (p.1, p.2.modify k f) else p

/-- Data on its way between two dies is struck: a write-back's, a load's in its answer, or that of a store's message, which is
the store's own. -/
def Device.strikePacket (d : Device) (src dst k : Nat) (bit : BitVec 4) : Device :=
  match (d.packets src dst)[k]? with
  | some p =>
    match p.body with
    | .writeBack pa data mask poison counted =>
      d.setPackets src dst ((d.packets src dst).set k { p with body := .writeBack pa data mask (poison ||| bit) counted })
    | .reply core hind number value poison =>
      d.setPackets src dst ((d.packets src dst).set k { p with body := .reply core hind number value (poison ||| bit) })
    | .access core hind =>
      match ((d.core core).outstanding hind).findIdx? fun a => a.seq == some p.seqNo && homeDie a.pa == dst && a.kind.isStore with
      | some j => d.modCore core fun c => c.modAccess hind j fun a => { a with poison := a.poison ||| bit }
      | none => d
    | _ => d
  | none => d

/-- A JOBFAULT notice of a card or job that is destroyed (R341). -/
def Device.destroyJob (d : Device) (die : Nat) (c : Card) (progress : Nat) : Device :=
  d.notice (d.partOf die) .jobfault c.core
    [BitVec.ofNat 32 (causeCode .uncorr), 0, 0, BitVec.ofNat 32 progress, BitVec.ofNat 32 (c.tag.toNat + c.core * 65536)]

/-- DEDUCED, log entry 63; DESIGN CHOICE, log entry 94. -/
def Device.uncorrectable (d : Device) : ErrTarget → Device
  | .spGranule id g =>
    if 16 * g < spSize id then d.modCore id fun c => { c with spPoison := insertNat c.spPoison g } else d
  | .memGranule pa =>
    if isVault pa || isApp pa || isDramPa pa then { d with memPoison := insertNat d.memPoison (pa / 16) } else d
  | .vecRow id n => if n < 128 then d.modCore id fun c => { c with rowPoison := insertNat c.rowPoison n } else d
  | .tileRow id t n =>
    if t < 8 ∧ n < 256 then d.modCore id fun c => { c with tilePoison := insertNat c.tilePoison (256 * t + n) } else d
  | .weightLatch id =>
    d.modCore id fun c => { c with mxu := { c.mxu with latch := c.mxu.latch.map fun l => { l with poison := true } } }
  | .activation id code => if 2 ≤ code.toNat ∧ code.toNat ≤ 7 then d.rollback id code.toNat 0 .uncorr else d
  | .fetchLine id va =>
    let pa := match d.entryFor id va with
      | some e => e.addr va
      | none => 0
    let d := d.modCore id fun c => { c with fore := { c.fore with fetched := none }, hind := { c.hind with fetched := none } }
    let d := if remote id pa then d.dropCopy (pkgCluster id) (pa / 64) else d
    d.rollback id 1 pa .fetch
  | .waitingRecord id k =>
    let c := d.core id
    match c.dq.waiting[k]? with
    | some w =>
      let d := d.setCore id ({ c with dq := { c.dq with waiting := c.dq.waiting.eraseIdx k } }.noteIdle d.cycle)
      (d.settlePools (dieOf id)).lost id w.r
    | none => d
  | .privRecord id k =>
    let c := d.core id
    match c.dq.priv[k]? with
    | some r =>
      (d.setCore id ({ c with dq := { c.dq with priv := c.dq.priv.eraseIdx k } }.noteIdle d.cycle)).lost id r
    | none => d
  | .redelivery id k =>
    let c := d.core id
    match c.redeliver[k]? with
    | some a =>
      let d := d.setCore id ({ c with redeliver := c.redeliver.eraseIdx k }.noteIdle d.cycle)
      (d.settlePools (dieOf id)).lost id a.r
    | none => d
  | .task id k =>
    let c := d.core id
    match c.deque[k]? with
    | some _ => (d.setCore id ({ c with deque := c.deque.eraseIdx k }.noteIdle d.cycle)).lost id 0
    | none => d
  | .spilledRecord id k =>
    match (d.core id).ringRecords[k]? with
    | some r =>
      ((d.modCore id fun c => (c.dropSpilled id k).noteIdle d.cycle).settlePools (dieOf id)).lost id r
    | none => d
  | .sendRecord id net k => d.dropEntry id net k
  | .token id k =>
    match (d.core id).tokens[k]? with
    | some _ => (d.modCore id fun c => { c with tokens := c.tokens.eraseIdx k }).lost id 0
    | none => d
  | .job k =>
    match d.jobs[k]? with
    | some j =>
      { d with jobs := d.jobs.eraseIdx k }.destroyJob j.die j.card j.progress
    | none => d
  | .fifoCard id k =>
    match (d.core id).fifo[k]? with
    | some c => (d.modCore id fun x => { x with fifo := x.fifo.eraseIdx k }).destroyJob (dieOf id) c 0
    | none => d
  | .copyGranule cluster ln g =>
    match d.copy cluster ln with
    | some l => d.putCopy cluster { l with poison := l.poison ||| granBit g }
    | none => d
  | .journalGranule id g =>
    d.modCore id fun c => { c with journal := c.journal.map fun p => if p.1 = g then (p.1, { p.2 with bad := true }) else p }
  | .flightGranule k g => { d with flights := d.flights.modify k fun f => { f with poison := f.poison ||| granBit g } }
  | .packetGranule src dst k g => d.strikePacket src dst k (granBit g)
  | .storeGranule id hind k g => d.modCore id fun c => c.modAccess hind k fun a => { a with poison := a.poison ||| granBit g }
  | .nbWrite id k => d.modCore id fun c => { c with nbq := c.nbq.modify k fun w => { w with poison := true } }
  | .pushGranule id k => d.modCore id fun c => { c with portq := c.portq.modify k fun w => { w with poison := true } }
  | .linkRow k => { d with linkFlights := d.linkFlights.modify k fun f => { f with row := { f.row with poison := true } } }
  | .linkBuffer id dir k =>
    d.modCore id fun c => { c with mxu := { c.mxu with links := modAt c.mxu.links dir k fun r => { r with poison := true } } }
  | .bankWrite bank k g => { d with bankq := modAt d.bankq bank k fun w => { w with poison := w.poison ||| granBit g } }
  | .waitingLine channel k g =>
    { d with linesWait := modAt d.linesWait channel k fun w => { w with op := { w.op with poison := w.op.poison ||| granBit g } } }
  | .dieTable die code =>
    if die < 8 ∧ 0x10 ≤ code.toNat ∧ code.toNat ≤ 0x15 then
      let p := d.partOf die
      (d.holdNotice p ⟨true, noticeRecord .uncorr 0 [0, code.setWidth 32, 0]⟩).resetPart p
    else d

def execUncorrectableError (t : ErrTarget) (s : State) : Result := happen (fun d => d.uncorrectable t) s

/-! ## Pre-emption (R188, R235, R344, R345) -/

/-- What the first three steps wait for: accesses and neighbour writes performed, publications without a trap complete (R235),
no `mwl` or `mclr` executing, nothing on its way that the context does not hold, and the way open for the caches' dirty lines.
(DEDUCED, log entry 58.) -/
def Device.drained (d : Device) (dies : List Nat) : Bool :=
  (d.cores.all fun p => !dies.contains (dieOf p.1) ||
    ((p.2.outstanding false).isEmpty && (p.2.outstanding true).isEmpty && p.2.nbq.isEmpty && p.2.portq.isEmpty && p.2.vecBusy == 0 &&
      !p.2.publishing false && !p.2.publishing true &&
      p.2.mxu.cmds.all fun m => !m.executing || m.streams)) &&
  (d.linkFlights.all fun f => !dies.contains (dieOf f.dst)) && (d.acks.all fun a => !dies.contains (dieOf a.core)) &&
  (d.bankq.all fun p => !dies.contains (bankDie p.1) || p.2.isEmpty) && (d.linesWait.all fun p => !dies.contains (p.1 / 64)) &&
  dies.all d.dieIdle && d.caches.all fun p => !dies.contains (p.1 / 2048 / 32) || d.backsReady (p.1 / 2048) (p.2.map (·.ln))

/-- The locks of lock passes under way, released; those of post-draw state stay (R235). -/
def Device.abandonPasses (d : Device) (ids : List Nat) : Device :=
  ids.foldl (fun d id => [false, true].foldl (fun d h =>
    if ((d.core id).stream h).region.pass.isSome then d.releaseLocks (d.lockName id h) else d) d) d

/-- Every dirty line of a die's caches written back, and every line invalidated. -/
def Device.flushDies (d : Device) (dies : List Nat) : Device :=
  let mine := (d.caches.filter fun p => dies.contains (p.1 / 2048 / 32)).flatMap fun p => p.2.map fun l => (p.1 / 2048, l)
  let d := mine.foldl (fun d x => if x.2.homed then d else d.sendBack x.1 x.2) d
  { d with caches := keepKeys d.caches fun k => !dies.contains (k / 2048 / 32) }

def poolReg (dies : List Nat) (a : Nat) : Bool := 0x2000000000 ≤ a && a < 0x2000800000 && dies.contains ((a - 0x2000000000) / 0x100000)

/-- The pinned promotions of the dies' banks. -/
def Device.pins (d : Device) (dies : List Nat) : List (Nat × Nat × Promo) :=
  (d.banks.filter fun p => dies.contains (bankDie p.1)).flatMap fun p =>
    (p.2.slots.filter fun x => x.2.pinned).map fun x => (p.1, x.1, x.2)

/-- The context of a partition (R345). (DEDUCED, log entry 58.) -/
def Device.context (d : Device) (p : Nat) (dies : List Nat) : Context :=
  { dies := dies,
    cores := (d.cores.filter fun x => dies.contains (dieOf x.1)).map fun x => (x.1, x.2.parked d.cycle (d.stalledOf x.1)),
    slots := keepKeys d.slots fun k => dies.contains (k / 256),
    pools := keepKeys d.regs (poolReg dies),
    claimq := keepKeys d.claimq dies.contains, claimSent := keepKeys d.claimSent dies.contains, claimRecv := keepKeys d.claimRecv dies.contains,
    drains := keepKeys d.drains fun k => dies.contains (k / 4), poolActive := d.poolActive.filter fun k => dies.contains (k / 4),
    objs := d.objs.filter fun o => o.part == p, jobs := d.jobs.filter fun j => dies.contains j.die,
    twins := d.twins.filter fun t => dies.contains (dieOf t.1), promos := d.pins dies }

/-- What the context holds leaves the dies; pins are released. -/
def Device.leave (d : Device) (p : Nat) (dies : List Nat) : Device :=
  { d with cores := keepKeys d.cores fun id => !dies.contains (dieOf id), slots := keepKeys d.slots fun k => !dies.contains (k / 256),
           regs := keepKeys d.regs fun a => !poolReg dies a, claimq := keepKeys d.claimq fun k => !dies.contains k,
           claimSent := keepKeys d.claimSent fun k => !dies.contains k,
           claimRecv := keepKeys d.claimRecv fun k => !dies.contains k, drains := keepKeys d.drains fun k => !dies.contains (k / 4),
           poolActive := d.poolActive.filter fun k => !dies.contains (k / 4), objs := d.objs.filter fun o => o.part != p,
           jobs := d.jobs.filter fun j => !dies.contains j.die, walks := d.walks.filter fun w => !dies.contains w.die,
           twins := d.twins.filter fun t => !dies.contains (dieOf t.1),
           banks := d.banks.map fun x => if dies.contains (bankDie x.1) then
             (x.1, { x.2 with slots := x.2.slots.map fun y => (y.1, { y.2 with pinned := false }) }) else x }

/-- A row pinned again: in its slot if it kept one, else by a new promotion; it has its saved age. -/
def Device.repin (d : Device) (x : Nat × Nat × Promo) : Device :=
  let (_, k, b) := (d.bank x.1).promote x.2.2.row x.2.2.part
  d.setBank x.1 { b with slots := FMap.set b.slots k x.2.2 }

/-- Two sorted maps with disjoint keys as one. -/
def joinMaps {α : Type} (a b : FMap α) : FMap α := b.foldl (fun m p => FMap.set m p.1 p.2) a

/-- A context comes back on its dies, with a DISC notice for each core that has discardable regions. -/
def Device.restore (d : Device) (p : Nat) (x : Context) : Device :=
  let d := { d with cores := joinMaps d.cores (x.cores.map fun c => (c.1, (c.2.reloaded c.1).unparked d.cycle)),
                    slots := joinMaps d.slots x.slots, regs := joinMaps d.regs x.pools, claimq := joinMaps d.claimq x.claimq,
                    claimSent := joinMaps d.claimSent x.claimSent, claimRecv := joinMaps d.claimRecv x.claimRecv, twins := d.twins ++ x.twins, drains := joinMaps d.drains x.drains,
                    poolActive := x.poolActive.foldl insertNat d.poolActive, objs := d.objs ++ x.objs, jobs := d.jobs ++ x.jobs,
                    shadow := FMap.erase d.shadow p }
  let d := x.promos.foldl Device.repin d
  x.cores.foldl (fun (d : Device) (c : Nat × Core) => d.noticeDisc p c.1 c.2) d

/-- The swap of a partition in place for another: once everything issued has completed, the context is saved and the
incoming one restored on the same dies; a partition without a saved context comes in as after a reset. (DEDUCED, log entry 58.) -/
def Device.preempt (d : Device) (p q : Nat) : Device :=
  let dies := d.diesOf p
  let fits : Bool := match FMap.find d.shadow q with
    | some x => x.dies == dies
    | none => true
  if p ≠ q ∧ p < 8 ∧ q < 8 ∧ dies ≠ [] ∧ d.diesOf q = [] ∧ d.drained dies ∧ fits then
    let ids := (d.cores.map (·.1)).filter fun id => dies.contains (dieOf id)
    let d := (d.abandonPasses ids).flushDies dies
    let ctx := d.context p dies
    let d := d.leave p dies
    let d := { d with shadow := FMap.set d.shadow p ctx, dieParts := dies.foldl (fun m k => FMap.put m k q 0) d.dieParts }
    match FMap.find d.shadow q with
    | some x => d.restore q x
    | none => d
  else d

/-- The management core swaps partitions (R344), once the module has booted (R361). -/
def execPartitionPreempt (part incoming : Nat) (s : State) : Result := happen (whenUp fun d => d.preempt part incoming) s

end Sys2Proof.Machine
end

