-- ==== Sys2Proof/Machine/FloatOps.lean ====
section
/-!
DEFINITION. Class 4: scalar FP32 (R65 to R68).
-/

namespace Sys2Proof.Machine

/-! ## Shapes -/

/-- A rounding form of two sources. -/
def float3 (op : Rm → FVal → FVal → FExact) (f : F3R) : Exec Unit := do
  let m ← modeOf f.rm
  let a ← readSrc f.a
  let b ← readISrc f.b
  deliverF f.d (wordOf (deliver fp32 m (op m (f32 a) (f32 b))))

/-- `fma` and `fms`: the destination is also read, and there is one rounding. -/
def floatAcc (op : Rm → FVal → FVal → FVal → FExact) (f : F3R) : Exec Unit := do
  let m ← modeOf f.rm
  let d ← readWDst f.d
  let a ← readSrc f.a
  let b ← readISrc f.b
  deliverF f.d (wordOf (deliver fp32 m (op m (f32 d) (f32 a) (f32 b))))

/-- A form of two sources that does not round. -/
def floatPlain (op : Nat → Nat → Word × Flags) (f : Int3W) : Exec Unit := do
  let a ← readSrc f.a
  let b ← readISrc f.b
  deliverF f.d (op a.toNat b.toNat)

def minMaxWord (isMax : Bool) (a b : Nat) : Word × Flags := wordOf (minMaxBits fp32 isMax a b)
def cmpWord (op : FFmt → Nat → Nat → Bool × Flags) (a b : Nat) : Word × Flags := (flagWord (op fp32 a b).1, (op fp32 a b).2)

/-- FP32 to a 32-bit integer (R68). -/
def floatToInt (lo hi : Int) (f : F2R) : Exec Unit := do
  let m ← modeOf f.rm
  let a ← readSrc f.a
  let r := toInt m lo hi (f32 a)
  deliverF f.d (BitVec.ofInt 32 r.1, r.2)

/-- A 32-bit integer to FP32 (R68). -/
def intToF32 (val : Word → Int) (f : F2R) : Exec Unit := do
  let m ← modeOf f.rm
  let a ← readSrc f.a
  deliverF f.d (wordOf (intToFloat fp32 m (val a) 0))

/-! ## Meanings -/

def execFadd (f : F3R) (s : State) : Result := run (float3 addVal f) s
def execFsub (f : F3R) (s : State) : Result := run (float3 (fun m a b => addVal m a (negVal b)) f) s
def execFmul (f : F3R) (s : State) : Result := run (float3 (fun _ a b => mulVal a b) f) s
def execFma (f : F3R) (s : State) : Result := run (floatAcc fmaVal f) s
def execFms (f : F3R) (s : State) : Result := run (floatAcc (fun m d a b => fmaVal m d (negVal a) b) f) s
def execFdiv (f : F3R) (s : State) : Result := run (float3 (fun _ a b => divVal a b) f) s

def execFsqrt (f : F2R) (s : State) : Result :=
  run (do
    let m ← modeOf f.rm
    let a ← readSrc f.a
    deliverF f.d (wordOf (deliver fp32 m (sqrtVal (f32 a))))) s

def execFmin (f : Int3W) (s : State) : Result := run (floatPlain (minMaxWord false) f) s
def execFmax (f : Int3W) (s : State) : Result := run (floatPlain (minMaxWord true) f) s
def execFabs (f : Int2W) (s : State) : Result := run (int2W (fun a => BitVec.ofNat 32 (absBits fp32 a.toNat)) f) s
def execFneg (f : Int2W) (s : State) : Result := run (int2W (fun a => BitVec.ofNat 32 (negBits fp32 a.toNat)) f) s
def execFeq (f : Int3W) (s : State) : Result := run (floatPlain (cmpWord feqBits) f) s
def execFlt (f : Int3W) (s : State) : Result := run (floatPlain (cmpWord fltBits) f) s
def execFle (f : Int3W) (s : State) : Result := run (floatPlain (cmpWord fleBits) f) s
def execFcvtI32F32 (f : F2R) (s : State) : Result := run (floatToInt (-(2 : Int) ^ 31) ((2 : Int) ^ 31 - 1) f) s
def execFcvtU32F32 (f : F2R) (s : State) : Result := run (floatToInt 0 ((2 : Int) ^ 32 - 1) f) s
def execFcvtF32I32 (f : F2R) (s : State) : Result := run (intToF32 (fun a => a.toInt) f) s
def execFcvtF32U32 (f : F2R) (s : State) : Result := run (intToF32 (fun a => a.toNat) f) s
def execFclass (f : Int2W) (s : State) : Result := run (int2W (fun a => BitVec.ofNat 32 (fclassBits a.toNat)) f) s

end Sys2Proof.Machine
end

