-- ==== Sys2Proof/Machine/Links.lean ====
section
/-!
DEFINITION. Die links and the fabric: packets and records in sequence (R293, R294, R250), rails, retraining and
boundaries that go down (R347, R348).
-/

namespace Sys2Proof.Machine

/-! ## Messages between dies (R293) -/

/-- The outstanding access of a core's stream that a numbered message carries or answers, to a home on a die. -/
def Core.carried (c : Core) (hind : Bool) (number die : Nat) : Option (Nat × Access) :=
  (((c.outstanding hind).zipIdx).find? fun x => x.1.seq == some number && homeDie x.1.pa == die).map fun x => (x.2, x.1)

/-- A write-back that has been merged is counted at its home for the core that has sent it in its round (R84, R280); not for a core
that has been reset since. -/
def Device.countBack (d : Device) (pa : Nat) : Option (Nat × Nat) → Device
  | none => d
  | some (id, round) => d.modCore id fun c =>
    if countAt c.counted (homeSlice pa) round < countAt c.sentTo (homeSlice pa) round then
      { c with counted := bumpCount c.counted (homeSlice pa) round }
    else c

/-- A message applied at its destination: a write-back is merged into its home; an access is performed there and answered, but
a store to a locked line waits for the lock (R218); a reply gives a load its value and its poison. What an access no longer waits for has no
effect. (DESIGN CHOICE, log entry 61.) -/
def Device.applyPacket (d : Device) (src dst : Nat) (p : Packet) : Device :=
  match p.body with
  | .writeBack pa data mask poison counted =>
    ((d.mergeHome (pa / 64) ⟨pa / 64, false, data, mask, poison⟩).touchHome pa).countBack pa counted
  | .access core hind =>
    match (d.core core).carried hind p.seqNo dst with
    | some (k, a) =>
      if a.kind.isStore then
        if d.locked a.pa then d.modCore core fun c => c.modAccess hind k fun a => { a with arrived := true }
        else (d.performStore core hind k a).sendPacket dst src .ack
      else
        let bad := d.loadPoison core a.pa (a.kind == .volLoad)
        let (v, d) := d.readAccess core a
        d.sendPacket dst src (.reply core hind p.seqNo v bad)
    | none => d
  | .reply core hind number value poison =>
    match (d.core core).carried hind number src with
    | some (k, a) => if a.kind.isStore then d else d.deliverLoad core hind k a value poison
    | none => d
  | .ack => d

/-- The messages of a pair of dies that have arrived, applied in the order of their numbers while the expected one is among
them. -/
def Device.drainPackets (src dst : Nat) : Nat → Device → Device
  | 0, d => d
  | fuel + 1, d =>
    let n := d.expected src dst
    match (d.packets src dst).find? fun p => p.seqNo == n && p.arrived with
    | some p =>
      let d := { d.setPackets src dst ((d.packets src dst).filter fun q => q.seqNo != n) with
                   nextSeq := FMap.set d.nextSeq (pairKey src dst) (n + 1) }
      Device.drainPackets src dst fuel (d.applyPacket src dst p)
    | none => d

/-- A message arrives by its route, while that carries traffic: an early one is held, and the next one applied with those it
completes. A duplicate, of a number that has been applied or has arrived, is dropped. -/
def Device.packetArrives (d : Device) (src dst n : Nat) (body : PacketBody) (alt : Bool) : Device :=
  let l := d.packets src dst
  match l.find? fun p => p.seqNo == n && p.body == body && p.alt == alt && !p.arrived with
  | some p =>
    if n < d.expected src dst ∨ d.routeOpen (routeOf p.alt src dst) = false then d
    else Device.drainPackets src dst l.length
      (d.setPackets src dst (l.map fun q => if q.seqNo = n then { q with arrived := true } else q))
  | none => d

/-- The message that arrives, and how many rails it has lost on its way: one is rebuilt from the XOR rail without retry
(R347), while one that lacks more has not arrived and is sent again (R293). -/
def execDieLinkPacketArrival (src dst seqNo : Nat) (body : PacketBody) (alt : Bool) (lost : Nat) (s : State) : Result :=
  happen (fun d => if src < 8 ∧ dst < 8 ∧ src ≠ dst ∧ lost ≤ 1 then d.packetArrives src dst seqNo body alt else d) s

/-! ## Messages of other packages (R247, R250, R294, R310) -/

/-- The record as it is delivered: a package field that names this package names the sender. A record without one is forwarded
to a moved member, or comes from one (R310). -/
def fromPackage (r : Line) (pkg : Nat) : Line := if recPackage r = 0 then r else setLineWord r 2 (setBits (lineWord r 2) 24 8 pkg)

/-- A message as it goes on to its destination within its partition. -/
def flightOf (dst pkg part : Nat) : FabricMsg → Flight
  | .record r counts => ⟨.record, fromPackage r pkg, dst, recNet r, none, part, counts, none, 0, 0, 0, 0, none⟩
  | .decrement src off =>
    ⟨.decrement, lineOfWords [BitVec.ofNat 32 off, BitVec.ofNat 32 src], dst, 0, none, part, true, none, 0, 0, 0, 0, none⟩
  | .token mbox n => ⟨.token, 0, dst, 0, none, part, false, none, mbox, n, 0, 0, none⟩

/-- A message goes to the core that it addresses, when that core's partition accepts fabric traffic; otherwise it is
discarded, and the refusal goes back to the other package. The group that it comes by is the one for this package's number (R359).
(DEDUCED, log entry 60.) -/
def Device.fabricDeliver (d : Device) (dst pkg : Nat) (m : FabricMsg) : Device :=
  let p := d.partOfCore dst
  let d := match d.fabricGroup d.pkgNum with
    | some g => d.useLink p (.group g)
    | none => d
  if isCore dst && (d.part p).sup.getLsbD 17 then { d with flights := d.flights ++ [flightOf dst pkg p m] } else d

def Device.drainFabric (pkg : Nat) : Nat → Device → Device
  | 0, d => d
  | fuel + 1, d =>
    let n := FMap.get d.fabSeq pkg 0
    let l := FMap.get d.heldFab pkg []
    match l.find? fun p => p.1 == n with
    | some (_, dst, m) =>
      let d := { d with fabSeq := FMap.set d.fabSeq pkg (n + 1), heldFab := FMap.put d.heldFab pkg (l.filter fun q => q.1 != n) [] }
      Device.drainFabric pkg fuel (d.fabricDeliver dst pkg m)
    | none => d

/-- DESIGN CHOICE, log entry 61. -/
def Device.fabricArrives (d : Device) (dst pkg : Nat) (m : FabricMsg) (n : Nat) : Device :=
  let l := FMap.get d.heldFab pkg []
  if n < FMap.get d.fabSeq pkg 0 ∨ (l.any fun q => q.1 == n) then d
  else
    let d := { d with heldFab := FMap.set d.heldFab pkg (l ++ [(n, dst, m)]) }
    Device.drainFabric pkg (l.length + 1) d

def execFabricRecordArrival (dst fromPkg : Nat) (m : FabricMsg) (seqNo : Nat) (s : State) : Result :=
  happen (fun d => if 1 ≤ fromPkg ∧ fromPkg ≤ 255 ∧ fromPkg ≠ d.pkgNum then d.fabricArrives dst fromPkg m seqNo else d) s

/-! ## Links of the package -/

/-- A link of the package: neighbouring dies, or a fabric group. -/
def linkExists : Link → Bool
  | .boundary a b => a < 8 && b < 8 && (crossings (routeXY a b)).length == 1
  | .group k => k < 3

/-- Whether traffic of a partition has used a link since the partition's reset. (DEDUCED, log entry 60.) -/
def Device.usesLink (d : Device) (p : Nat) (l : Link) : Bool := d.linkUse.contains (useKey p l)

/-- A RETRAIN notice to every partition whose traffic uses a link (R333). (DEDUCED, log entry 60.) -/
def Device.noticeLink (d : Device) (l : Link) (down : Nat) : Device :=
  let words : List Word := match l with
    | .boundary a b => [0, BitVec.ofNat 32 a, BitVec.ofNat 32 b, BitVec.ofNat 32 down]
    | .group k => [1, BitVec.ofNat 32 k, 0, BitVec.ofNat 32 down]
  ((List.range 8).filter fun p => d.usesLink p l).foldl (fun d p => d.noticeOwn p .retrain words) d

/-! ## Rails (R347, R348) -/

/-- Messages that have not arrived are on the route that carries traffic: x then y, or the alternate (R293, R348). -/
def Device.reroute (d : Device) : Device :=
  let d := d.heldPackets.foldl (fun d x => x.2.foldl (fun d p => if p.arrived then d
    else d.useRoute (d.partOf (servedDie p.body (x.1 / 16) (x.1 % 16))) (d.openRoute (x.1 / 16) (x.1 % 16))) d) d
  { d with heldPackets := d.heldPackets.map fun x =>
      (x.1, x.2.map fun p => if p.arrived then p else { p with alt := !d.routeOpen (routeXY (x.1 / 16) (x.1 % 16)) }) }

/-- Retraining has brought back four rails or ports. (DEDUCED, log entry 60.) -/
def Device.retrained (d : Device) (l : Link) : Device := ((d.setLink l ⟨1, .up⟩).reroute).noticeLink l 0

/-- Partitions with two dies that no working route joins are reset. -/
def Device.resetSplit (d : Device) : Device :=
  (List.range 8).foldl (fun d p =>
    if (d.diesOf p).all fun a => (d.diesOf p).all (d.joined a) then d else d.resetPart p) d

/-- A link that retraining has not brought back, or that has lost three or more, is marked down. -/
def Device.markDown (d : Device) (l : Link) : Device :=
  let d := ((d.setLink l ⟨(d.link l).lost, .down⟩).reroute).noticeLink l 1
  match l with
  | .boundary _ _ => d.resetSplit
  | .group _ => d

/-- A rail or port is lost: one is rebuilt; two make the link retrain, and what has not been acknowledged is sent again on the
other route; three mark it down. -/
def Device.loseRail (d : Device) (l : Link) : Device :=
  let x := d.link l
  let n := min (x.lost + 1) 5
  let e := (d.setLink l ⟨n, if x.st = .up ∧ 2 ≤ n then .retraining else x.st⟩).reroute
  if 3 ≤ n ∧ x.st ≠ .down then e.markDown l else e

def execRailLoss (l : Link) (s : State) : Result := happen (fun d => if linkExists l then d.loseRail l else d) s

def execRetrainComplete (l : Link) (s : State) : Result :=
  happen (fun d => if linkExists l ∧ (d.link l).st = .retraining then d.retrained l else d) s

def execBoundaryDown (l : Link) (s : State) : Result :=
  happen (fun d => if linkExists l ∧ (d.link l).st = .retraining then d.markDown l else d) s

/-- The management firmware tries the training of a link that is down again, once the module has booted (R348, R361). -/
def execRetrainRetry (l : Link) (ok : Bool) (s : State) : Result :=
  happen (whenUp fun d => if linkExists l ∧ (d.link l).st = .down ∧ ok then d.retrained l else d) s

end Sys2Proof.Machine
end

