-- ==== Sys2Proof/Machine/MemForms.lean ====
section
/-!
DEFINITION. Class 2: loads and stores in the three spaces, ranges, coherence objects, full-empty bits and layout tags
(R75 to R89, R216, R280, R289).
-/

namespace Sys2Proof.Machine

/-! ## Loads (R79, R80) -/

inductive LdMode
  | plain | vol | acq (sc : Scope) | take | wait
  deriving DecidableEq, Repr

/-- A plain or `.vol` load of registers is outstanding until it returns. Into a queue register it waits for its data, and so does a
load in a pair, whose other half has no effect where the data is poisoned (R28, R339). (DEDUCED, log entry 18.) -/
def loadLater (kind : AccKind) (signed : Bool) (d : LdDst) (va : DWord) : Exec Unit := do
  let n := ldBytes d
  let pa ← globalAddr va .rd
  let atHome : Bool := kind == .volLoad
  cleanGlobal va pa n atHome
  let s ← get
  if usesQueue d || s.issue.paired then do
    reach kind pa
    let s ← get
    let (v, dev) := if atHome then s.dev.loadHome s.me pa n else s.dev.loadPlain s.me pa n
    modDev fun _ => dev
    writeLoad d signed v
  else do
    let s ← get
    addAccess ⟨kind, va52 va, pa, n, signed, d, 0, 0, 0, none, 0, false, s.issue.pc⟩

/-- An `.acq` load: at the home, scope-checked, then `Acquire`. (DEDUCED, log entry 18.) POISON comes before SCOPE (DESIGN CHOICE, log
entry 117). -/
def loadAcq (sc : Scope) (signed : Bool) (d : LdDst) (va : DWord) : Exec Unit := do
  let n := ldBytes d
  let pa ← globalAddr va .rd
  reach .volLoad pa
  cleanGlobal va pa n true
  let i ← scopeInst sc
  checkScope va pa i false
  let s ← get
  let (v, dev) := s.dev.loadHome s.me pa n
  modDev fun _ => dev
  acquire i
  writeLoad d signed v

/-- Bytes with the region's buffered stores laid over them (R216). -/
def Region.overlay (r : Region) (pa n v : Nat) : Nat :=
  match r.ws.find? fun l => l.pa / 64 == pa / 64 with
  | none => v
  | some l => leValue ((List.range n).map fun i =>
      if l.mask.getLsbD (pa % 64 + i) then l.data.extractLsb' (8 * (pa % 64 + i)) 8 else BitVec.ofNat 8 (v / 2 ^ (8 * i)))

/-- A proposal load: data and version at the home, recorded in the read set; the 257th line fails the region (R216). -/
def loadProposal (signed : Bool) (d : LdDst) (va : DWord) : Exec Unit := do
  let n := ldBytes d
  let pa ← globalAddr va .rd
  reach .volLoad pa
  cleanGlobal va pa n true
  let s ← get
  let (v, dev) := s.dev.loadHome s.me pa n
  modDev fun _ => dev
  let r := s.stream.region
  let known := r.rs.any fun l => l.pa == pa / 64 * 64
  let r' : Region :=
    if known then r
    else if 256 ≤ r.rs.length then { r with st := .failed }
    else { r with rs := r.rs ++ [⟨pa / 64 * 64, va52 va / 64 * 64, dev.version pa⟩] }
  modStream fun t => { t with region := r' }
  writeLoad d signed (if r'.st == .failed then v else r.overlay pa n v)

/-- DEDUCED, log entry 18. -/
def loadGlob (mode : LdMode) (signed : Bool) (d : LdDst) (va : DWord) : Exec Unit := do
  let st ← regionGate va (mode == .plain)
  match mode with
  | .plain => if st == .opened then loadProposal signed d va else loadLater .load signed d va
  | .vol => loadLater .volLoad signed d va
  | .acq sc => loadAcq sc signed d va
  | .take | .wait => trapSlot .illop

/-- A load of the own scratchpad. -/
def loadSp (mode : LdMode) (signed : Bool) (d : LdDst) (o : Nat) : Exec Unit := do
  let n := ldBytes d
  spBound o n
  if mode == .take then spNoJournal o n else pure ()
  let s ← get
  if mode == .take || mode == .wait then blockUnless (s.core.allFull s.me o n) else pure ()
  spClean o n
  spDisc o n
  let v := s.core.spNat o n
  if mode == .take then modCore fun c => c.setFull o n false else pure ()
  writeLoad d signed v

/-- A load of a neighbour's scratchpad, which shows no journal. -/
def loadNb (mode : LdMode) (signed : Bool) (d : LdDst) (w : Nat) : Exec Unit := do
  let n := ldBytes d
  let (nb, o) ← nbAddr w n
  nbQuiet nb
  let s ← get
  let c := s.dev.core nb
  if mode == .take && c.journals o n then trap0 .prot else pure ()
  if mode == .take || mode == .wait then blockUnless (c.allFull nb o n) else pure ()
  match c.spBad o n with
  | some b => trapN .poison (w + b - o)
  | none => pure ()
  if (granules o n).any c.spGone.contains then modCore fun c => { c with cr := { c.cr with disc := true } } else pure ()
  if mode == .take then modDev fun dev => dev.modCore nb fun c => c.setFull o n false else pure ()
  writeLoad d signed (readLE c.sp o n)

def loadForm (mode : LdMode) (signed : Bool) (d : LdDst) (base : Base) (off : Word) : Exec Unit :=
  match base with
  | .glob p => do
    let va ← globVa p off (ldBytes d)
    loadGlob mode signed d va
  | .sp a => do
    let o ← offset a off (ldBytes d)
    loadSp mode signed d o
  | .nb a => do
    let w ← offset a off (ldBytes d)
    loadNb mode signed d w

/-! ## Stores (R79, R80) -/

inductive StMode
  | plain | vol | rel (sc : Scope) | fill
  deriving DecidableEq, Repr

/-- A store of an open region: buffered; SPAN across dies; the 65th line fails the region (R216). SPAN comes first (DESIGN CHOICE, log
entry 114). -/
def storeProposal (va : DWord) (n v : Nat) : Exec Unit := do
  let pa ← globalAddr va .wr
  let s ← get
  let r := s.stream.region
  let ln := pa / 64 * 64
  if r.ws.any fun l => homeDie l.pa != homeDie pa then trap0 .span
  else
    let k := pa % 64
    let data : Line := BitVec.ofNat 512 (v * 2 ^ (8 * k))
    let r' : Region :=
      if r.ws.any fun l => l.pa == ln then
        { r with ws := r.ws.map fun l =>
            if l.pa = ln then { l with data := mergeLine l.data data (byteMask k n), mask := l.mask ||| byteMask k n } else l }
      else if 64 ≤ r.ws.length then { r with st := .failed }
      else { r with ws := r.ws ++ [⟨ln, va52 va / 64 * 64, mergeLine 0 data (byteMask k n), byteMask k n⟩] }
    modStream fun t => { t with region := r' }

/-- A `.rel` store: the query, then the store at the home, scope-checked. (DEDUCED, log entry 32.) -/
def storeRel (sc : Scope) (va : DWord) (n v : Nat) : Exec Unit := do
  homeOnly va
  fenceGate
  let (_, i) ← releaseQuery sc
  let pa ← globalAddr va .wr
  writable va pa false
  reach .volStore pa
  unlocked pa
  checkScope va pa i (Scope.code sc < 2)
  let s ← get
  modDev fun d => d.storeHome s.me pa (leBytes n v)

def storeGlob (mode : StMode) (va : DWord) (n v : Nat) : Exec Unit := do
  let st ← regionGate va (mode == .plain)
  match mode with
  | .plain =>
    if st == .opened then storeProposal va n v
    else do
      let pa ← globalAddr va .wr
      if st == .failed then pure ()
      else do
        writable va pa true
        sendStore .store va pa n v
  | .vol => do
    let pa ← globalAddr va .wr
    writable va pa false
    sendStore .volStore va pa n v
  | .rel sc => storeRel sc va n v
  | .fill => trapSlot .illop

/-- A store to the own scratchpad. -/
def storeSp (fill : Bool) (o n v : Nat) : Exec Unit := do
  spBound o n
  spWrite o (leBytes n v) fill false

/-- A store to a neighbour: granule by granule to its port (R134). -/
def storeNb (fill : Bool) (w n v : Nat) : Exec Unit := do
  let (nb, o) ← nbAddr w n
  let s ← get
  if fill && (s.base.core nb).journals o n then trap0 .prot
  else
    (List.range ((n + 15) / 16)).forM fun g =>
      queueNb nb (o + 16 * g) (min n 16) (BitVec.ofNat 128 (v / 2 ^ (128 * g))) fill false

def storeForm (mode : StMode) (v : StSrc) (base : Base) (off : Word) : Exec Unit :=
  match base with
  | .glob p => do
    let va ← globVa p off (stBytes v)
    let x ← readStore v
    storeGlob mode va (stBytes v) x
  | .sp a => do
    let o ← offset a off (stBytes v)
    let x ← readStore v
    storeSp (mode == .fill) o (stBytes v) x
  | .nb a => do
    let w ← offset a off (stBytes v)
    let x ← readStore v
    storeNb (mode == .fill) w (stBytes v) x

/-! ## Prefetch and ranges (R82, R85) -/

/-- `pf` never traps (R82): a walk that has failed is forgotten, as its trap would forget it. It translates as a load does, and
fills a copy of a line that the cluster can hold and does not hold; where the home is on another die, it waits until nothing is on
its way between the two. (DESIGN CHOICE, log entry 61.) -/
def prefetch (f : PfOp) : Exec Unit := do
  let b ← readPair f.a
  let va := b + sextI f.off
  let s ← get
  if s.core.home.isSome then pure ()
  else match ← lookup va .rd with
    | .error _ => modCore fun c => { c with walkFail := removeNat c.walkFail (va52 va / 32768) }
    | .ok pa =>
      if (targetCause pa).isNone && remote s.me pa && (s.dev.copy (pkgCluster s.me) (pa / 64)).isNone then do
        if crosses (dieOf s.me) pa then crossOver pa else pure ()
        modDev fun d => (d.useCopy (pkgCluster s.me) (pa / 64)).2
      else pure ()

/-- The software-managed copies of a range in the issuing cluster, with their virtual addresses. -/
def State.rangeCopies (s : State) (va n : Nat) (frames : List (Nat × Nat)) : List (Nat × CacheLine) :=
  if isMarkhor s.me then
    (s.dev.copiesOf (pkgCluster s.me)).filterMap fun l =>
      if (s.dev.objAt (64 * l.ln)).isNone then (rangeVa va n frames l.ln).map fun v => (v, l) else none
  else []

/-- The range of `rwb`, `rinv` and `rinv.chk`: BOUND, earlier stores applied, translation of every page, and what an eviction
has sent of its lines merged. Answers its copies. (DESIGN CHOICE, log entry 61.) PREGION comes before BOUND. (DESIGN CHOICE, log entry
123.) -/
def rangeOf (a : PairReg) (b : Src) : Exec (List (Nat × CacheLine)) := do
  let va ← readPair a
  let len ← readSrc b
  noRegion va
  homeOnly va
  let n := len.toNat
  if 2 ^ 30 < n then trapW .bound len
  else do
    let s ← get
    blockUnless (!(s.core.storesIn s.hind (va52 va) n))
    let frames ← translatePages va.toNat .wr (pagesOf va.toNat n)
    let s ← get
    blockUnless (!s.dev.backOnWay (dieOf s.me) fun pa => (rangeVa (va52 va) n frames (pa / 64)).isSome)
    pure (s.rangeCopies (va52 va) n frames)

/-- `rwb` ends with its write-backs at their homes (R299). -/
def rwbForm (f : RangeOp) : Exec Unit := do
  let l ← rangeOf f.a f.b
  let s ← get
  blockUnless (s.dev.backsReady (pkgCluster s.me) (l.map fun p => p.2.ln))
  modDev fun d => l.foldl (fun d p => d.writeBack (pkgCluster s.me) p.2.ln) d

/-- The lowest address of a dirty line. -/
def lowestDirty (l : List (Nat × CacheLine)) : Option Nat :=
  (l.filter fun p => p.2.mask != 0).foldl (fun m p =>
    match m with
    | none => some p.1
    | some v => some (min v p.1)) none

def rinvForm (check : Bool) (f : RinvOp) : Exec Unit := do
  let l ← rangeOf f.a f.b
  let s ← get
  match (if check then lowestDirty l else none) with
  | some v => trap .dirty ((BitVec.ofNat 52 v).signExtend 64)
  | none => do
    modDev fun d => l.foldl (fun d p => d.dropCopy (pkgCluster s.me) p.2.ln) d
    writeDst f.d (BitVec.ofNat 32 (l.filter fun p => p.2.mask != 0).length)

/-! ## Coherence objects (R86, R87, R291) -/

/-- The copies of a frame set in every cluster. -/
def Device.objectCopies (d : Device) (o : Obj) : List (Nat × Nat) :=
  (d.caches.map fun p => (p.2.filter fun l => !l.homed && o.coversPa (64 * l.ln)).map fun l => (p.1 / 2048, l.ln)).flatten

/-- Scope records and versions of an object's lines forgotten. -/
def Device.forgetLines (d : Device) (o : Obj) : Device :=
  { d with scopes := d.scopes.filter fun p => !o.coversPa (64 * p.1), versions := d.versions.filter fun p => !o.coversPa (64 * p.1) }

/-- Write-backs of an object's dirty copies reach their homes at once: nothing is on its way between dies, and the routes
are open. -/
def Device.objectQuiet (d : Device) (o : Obj) : Bool :=
  d.heldPackets.isEmpty && (d.objectCopies o).all fun p => !crosses (p.1 / 32) (64 * p.2) || d.pairIdle (p.1 / 32) (homeDie (64 * p.2))

/-- An unused nonzero handle. (DESIGN CHOICE, log entry 19.) -/
def Device.freshHandle (d : Device) : Word :=
  let h := Config.newHandle d.tick
  let used (w : Word) : Bool := w == 0 || d.objs.any fun o => o.handle == w
  if used h then
    (((List.range (d.objs.length + 2)).map fun k => BitVec.ofNat 32 (k + 1)).find? fun w => !used w).getD 0
  else h

/-- R86; PREGION comes before ALIGN. (DESIGN CHOICE, log entry 123.) -/
def cobjForm (f : DA) : Exec Unit := do
  let a ← readSrc f.a
  noRegion 0
  homeOnly 0
  let o := a.toNat
  aligned o 16 (BitVec.ofNat 64 o)
  spBound o 16
  let s ← get
  let c := s.core
  let base := c.spNat o 8
  let len := c.spNat (o + 8) 4
  let mode := c.spNat (o + 12) 1
  let attr := c.spNat (o + 13) 1
  let part := s.dev.partOfCore s.me
  let b := va52 (BitVec.ofNat 64 base)
  let clash := s.dev.objs.any fun x => x.part == part && b < x.base + x.len && x.base < b + len
  if base % 64 ≠ 0 ∨ len = 0 ∨ len % 64 ≠ 0 ∨ 2 < mode ∨ 1 < attr ∨ c.spNat (o + 14) 2 ≠ 0 ∨ clash then trapN .cobj o
  else do
    blockUnless (!(s.core.storesIn s.hind b len))
    let frames ← translatePages base (if mode = 0 then .rd else .wr) (pagesOf base len)
    if 4096 ≤ (s.dev.objs.filter fun x => x.die == dieOf s.me).length then writeDst f.d 0
    else do
      let h := s.dev.freshHandle
      let obj : Obj := ⟨dieOf s.me, part, h, b, len, mode, attr == 1, frames⟩
      blockUnless (s.dev.objectQuiet obj)
      modDev fun d =>
        let d := (d.objectCopies obj).foldl (fun d p => (d.writeBack p.1 p.2).dropCopy p.1 p.2) d
        let d := d.forgetLines obj
        { d with objs := d.objs ++ [obj] }
      writeDst f.d h

def cfreeForm (a : Src) : Exec Unit := do
  let h ← readSrc a
  noRegion 0
  homeOnly 0
  let s ← get
  match s.dev.objs.find? fun o => o.part == s.dev.partOfCore s.me && o.handle == h with
  | none => trapW .cobj h
  | some o => do
    blockUnless (!(s.core.storesIn s.hind o.base o.len) && s.dev.objectQuiet o)
    modDev fun d =>
      let d := (d.objectCopies o).foldl (fun d p => d.writeBack p.1 p.2) d
      let d := d.forgetLines o
      { d with objs := d.objs.filter fun x => !(x.part == o.part && x.handle == h) }

/-! ## Full-empty bits and layout tags (R88, R89) -/

def granuleOf (a : Src) (off : Word) : Exec Nat := do
  let o ← offset a off 16
  spBound o 16
  pure o

def setFullForm (b : Bool) (f : AOff) : Exec Unit := do
  let o ← granuleOf f.a f.off
  spNoJournal o 16
  modCore fun c => c.setFull o 16 b

/-! ## Meanings -/

def execLd (f : LdOp) (s : State) : Result := run (loadForm .plain false f.d f.base f.off) s
def execLds (f : LdsOp) (s : State) : Result :=
  run (loadForm .plain true (.sub (if f.half then .h else .b) f.d) f.base f.off) s
def execLdAcq (f : LdOp) (sc : Scope) (s : State) : Result := run (loadForm (.acq sc) false f.d f.base f.off) s
def execLdVol (f : LdOp) (s : State) : Result := run (loadForm .vol false f.d f.base f.off) s
def execLdTake (f : LdOp) (s : State) : Result := run (loadForm .take false f.d f.base f.off) s
def execLdWait (f : LdOp) (s : State) : Result := run (loadForm .wait false f.d f.base f.off) s
def execSt (f : StOp) (s : State) : Result := run (storeForm .plain f.v f.base f.off) s
def execStRel (f : StOp) (sc : Scope) (s : State) : Result := run (storeForm (.rel sc) f.v f.base f.off) s
def execStVol (f : StOp) (s : State) : Result := run (storeForm .vol f.v f.base f.off) s
def execStFill (f : StOp) (s : State) : Result := run (storeForm .fill f.v f.base f.off) s
def execPf (f : PfOp) (s : State) : Result := run (prefetch f) s
def execRwb (f : RangeOp) (s : State) : Result := run (rwbForm f) s
def execRinv (f : RinvOp) (s : State) : Result := run (rinvForm false f) s
def execRinvChk (f : RinvOp) (s : State) : Result := run (rinvForm true f) s
def execCobj (f : DA) (s : State) : Result := run (cobjForm f) s
def execCfree (a : Src) (s : State) : Result := run (cfreeForm a) s
def execFset (f : AOff) (s : State) : Result := run (setFullForm true f) s
def execFclr (f : AOff) (s : State) : Result := run (setFullForm false f) s

def execFget (f : DAOff) (s : State) : Result :=
  run (do
    let o ← granuleOf f.a f.off
    let s ← get
    writeDst f.d (if s.core.full s.me (o / 16) then 1 else 0)) s

def execLtag (f : ABOff) (s : State) : Result :=
  run (do
    let o ← offset f.a f.off 1024
    let v ← readSrc f.b
    spBound o 1024
    spNoJournal o 1024
    modCore fun c => c.setTags o 1024 (v.setWidth 4)) s

end Sys2Proof.Machine
end

