-- ==== Sys2Proof/Machine/System.lean ====
section
/-!
DEFINITION. Class B: system calls, the return from a trap, the TLBs and time (R94 to R99, R221, R328, R329).
-/

namespace Sys2Proof.Machine

/-- `trap` and `svc`: the group completes; then trap handling starts, with NextPC and I (R95). -/
def callTrap (c : Cause) (i : Word) : Exec Unit :=
  modify fun s =>
    { s.setDev (s.dev.beginTrap s.issue.core s.issue.hind c s.issue.nextPc (i.setWidth 64)) with took := some c }

/-- `rett` (R96, R221, R328): it waits for the handler's loads, and for a publication of its other stream, whose group has issued;
the locks of that stream's lock pass are released. (DEDUCED, log entry 66; DESIGN CHOICE, log entry 97.) -/
def rettForm : Exec Unit := do
  let s ← get
  let c := s.baseCore
  match c.susp with
  | none => trap0 .stream
  | some p =>
    let t := if p.trapped then p.hind else p.fore
    let stuck : Bool := match t.region.post with
      | some q => t.region.st == .postDraw && q.pc != c.cr.epc
      | none => false
    if stuck then trapN .pregion 1
    else do
      blockUnless ((c.fore.acc ++ c.hind.acc).all (fun a => a.kind.isStore) && c.fore.struck.isNone && c.hind.struck.isNone &&
        !c.publishing (!s.hind))
      modDev fun d => ((d.releaseTrapMessages s.me).releaseLocks (d.lockName s.me (!s.hind))).modCore s.me fun c =>
        c.resume p s.issue.pc s.baseCore.cr.epc

/-! ## TLBs (R97, R98) -/

/-- Every core id of a partition that the device lists. -/
def Device.coresOfPart (d : Device) (p : Nat) : List Nat := (d.cores.map (·.1)).filter fun id => isCore id && d.partOfCore id == p

/-- Translations invalidated in the TLBs of a partition: of the page that holds an address, or all. Every walk under way
in the partition is discarded and starts again, and what range forms and failed walks have found is found again. (DEDUCED, log entry 69.) -/
def Device.invalidate (d : Device) (p : Nat) (va : Option Nat) : Device :=
  let hit (e : TlbEntry) : Bool := match va with
    | some v => e.covers v
    | none => true
  let d := (d.coresOfPart p).foldl (fun d id => d.modCore id fun c =>
    { c.forgetPages with tlb := c.tlb.filter fun e => !hit e }) d
  { d with walks := d.walks.map fun w => if d.partOf w.die = p then { w with level := 0, table := w.ptbr } else w }

/-- The line that the stream's fetch has buffered is fetched again. (DEDUCED, log entry 11.) -/
def refetch : Exec Unit := modStream fun t => { t with fetched := none }

/-- The word pair of `tlbprb`. -/
def probeWord (e : TlbEntry) (va : Nat) : DWord :=
  BitVec.ofNat 64 (e.addr va % 2 ^ 52 + 2 ^ 52 * e.r.toNat + 2 ^ 53 * e.w.toNat + 2 ^ 54 * e.x.toNat + 2 ^ 55 + 2 ^ 56 * (e.size % 4))

/-- The entry of the TLB or of a walk; a hit leaves the TLB's order as it was, where R98 and R208 say nothing. (DESIGN CHOICE, log
entry 96.) -/
def tlbprbForm (f : TlbprbOp) : Exec Unit := do
  let va ← readPair f.a
  let s ← get
  match s.dev.translateQuietly s.me va with
  | none => block
  | some (e, d) => do
    modDev fun _ => d
    writePair f.d (match e with
      | some e => probeWord e (va52 va)
      | none => 0)

/-! ## Time (R99) -/

def Device.timeOf (d : Device) (die : Nat) : Nat := d.cycle + Config.timeSkew die % 5

/-! ## Meanings -/

def execTrap (i : Word) (s : State) : Result := run (callTrap .trap i) s
def execSvc (i : Word) (s : State) : Result := run (callTrap .svc i) s

def execRett (s : State) : Result :=
  run (do
    precheck .rett
    rettForm) s

/-- An address whose bits [63:52] are no copies of bit 51 names the page of its low 52 bits. (DESIGN CHOICE, log entry 84.) -/
def execTlbinv (a : PairReg) (s : State) : Result :=
  run (do
    precheck (.tlbinv a)
    let va ← readPair a
    let s ← get
    modDev fun d => d.invalidate (d.partOfCore s.me) (some (va52 va))
    refetch) s

def execTlbinva (s : State) : Result :=
  run (do
    precheck .tlbinva
    let s ← get
    modDev fun d => d.invalidate (d.partOfCore s.me) none
    refetch) s

def execTlbprb (f : TlbprbOp) (s : State) : Result :=
  run (do
    precheck (.tlbprb f)
    tlbprbForm f) s

def execRdcyc (dst : PairDst) (s : State) : Result :=
  run (do
    let s ← get
    writePair dst (BitVec.ofNat 64 (s.dev.cyclesOf (dieOf s.me)))) s

def execRdtime (dst : PairDst) (s : State) : Result :=
  run (do
    let s ← get
    writePair dst (BitVec.ofNat 64 (s.dev.timeOf (dieOf s.me)))) s

end Sys2Proof.Machine
end

