-- ==== Sys2Proof/Machine/Dispatch.lean ====
section
/-!
DEFINITION. One arm per constructor of Instr: each is one call of its meaning, or a refusal by name.
-/

namespace Sys2Proof.Machine

def exec (i : Instr) (s : State) : Host.Outcome State Fault Refusal :=
  match i with
  | .nop => Sys2Proof.Machine.execNop s
  | .add f => Sys2Proof.Machine.execAdd f s
  | .sub f => Sys2Proof.Machine.execSub f s
  | .adds f => Sys2Proof.Machine.execAdds f s
  | .subs f => Sys2Proof.Machine.execSubs f s
  | .mul f => Sys2Proof.Machine.execMul f s
  | .mulh f => Sys2Proof.Machine.execMulh f s
  | .mulhu f => Sys2Proof.Machine.execMulhu f s
  | .div f => Sys2Proof.Machine.execDiv f s
  | .divu f => Sys2Proof.Machine.execDivu f s
  | .rem f => Sys2Proof.Machine.execRem f s
  | .remu f => Sys2Proof.Machine.execRemu f s
  | .min f => Sys2Proof.Machine.execMin f s
  | .max f => Sys2Proof.Machine.execMax f s
  | .minu f => Sys2Proof.Machine.execMinu f s
  | .maxu f => Sys2Proof.Machine.execMaxu f s
  | .and f => Sys2Proof.Machine.execAnd f s
  | .or f => Sys2Proof.Machine.execOr f s
  | .xor f => Sys2Proof.Machine.execXor f s
  | .andn f => Sys2Proof.Machine.execAndn f s
  | .shl f => Sys2Proof.Machine.execShl f s
  | .shr f => Sys2Proof.Machine.execShr f s
  | .sra f => Sys2Proof.Machine.execSra f s
  | .rol f => Sys2Proof.Machine.execRol f s
  | .clz f => Sys2Proof.Machine.execClz f s
  | .ctz f => Sys2Proof.Machine.execCtz f s
  | .popc f => Sys2Proof.Machine.execPopc f s
  | .bfx f => Sys2Proof.Machine.execBfx f s
  | .bfi f => Sys2Proof.Machine.execBfi f s
  | .seq f => Sys2Proof.Machine.execSeq f s
  | .sne f => Sys2Proof.Machine.execSne f s
  | .slt f => Sys2Proof.Machine.execSlt f s
  | .sge f => Sys2Proof.Machine.execSge f s
  | .sltu f => Sys2Proof.Machine.execSltu f s
  | .sgeu f => Sys2Proof.Machine.execSgeu f s
  | .sel f => Sys2Proof.Machine.execSel f s
  | .lea f => Sys2Proof.Machine.execLea f s
  | .chkb f => Sys2Proof.Machine.execChkb f s
  | .mov f => Sys2Proof.Machine.execMov f s
  | .kmov f => Sys2Proof.Machine.execKmov f s
  | .kget f => Sys2Proof.Machine.execKget f s
  | .br imm => Sys2Proof.Machine.execBr imm s
  | .bEq f => Sys2Proof.Machine.execBEq f s
  | .bNe f => Sys2Proof.Machine.execBNe f s
  | .bLt f => Sys2Proof.Machine.execBLt f s
  | .bGe f => Sys2Proof.Machine.execBGe f s
  | .bLtu f => Sys2Proof.Machine.execBLtu f s
  | .bGeu f => Sys2Proof.Machine.execBGeu f s
  | .bdec f => Sys2Proof.Machine.execBdec f s
  | .jr a => Sys2Proof.Machine.execJr a s
  | .call f => Sys2Proof.Machine.execCall f s
  | .callr f => Sys2Proof.Machine.execCallr f s
  | .ret a => Sys2Proof.Machine.execRet a s
  | .split imm => Sys2Proof.Machine.execSplit imm s
  | .haltH => Sys2Proof.Machine.execHaltH s
  | .done => Sys2Proof.Machine.execDone s
  | .fork f => Sys2Proof.Machine.execFork f s
  | .join f => Sys2Proof.Machine.execJoin f s
  | .ld f => Sys2Proof.Machine.execLd f s
  | .lds f => Sys2Proof.Machine.execLds f s
  | .ldAcq f sc => Sys2Proof.Machine.execLdAcq f sc s
  | .ldVol f => Sys2Proof.Machine.execLdVol f s
  | .ldTake f => Sys2Proof.Machine.execLdTake f s
  | .ldWait f => Sys2Proof.Machine.execLdWait f s
  | .st f => Sys2Proof.Machine.execSt f s
  | .stRel f sc => Sys2Proof.Machine.execStRel f sc s
  | .stVol f => Sys2Proof.Machine.execStVol f s
  | .stFill f => Sys2Proof.Machine.execStFill f s
  | .pf f => Sys2Proof.Machine.execPf f s
  | .rwb f => Sys2Proof.Machine.execRwb f s
  | .rinv f => Sys2Proof.Machine.execRinv f s
  | .rinvChk f => Sys2Proof.Machine.execRinvChk f s
  | .cobj f => Sys2Proof.Machine.execCobj f s
  | .cfree a => Sys2Proof.Machine.execCfree a s
  | .fset f => Sys2Proof.Machine.execFset f s
  | .fclr f => Sys2Proof.Machine.execFclr f s
  | .fget f => Sys2Proof.Machine.execFget f s
  | .ltag f => Sys2Proof.Machine.execLtag f s
  | .amoAdd f => Sys2Proof.Machine.execAmoAdd f s
  | .amoMin f => Sys2Proof.Machine.execAmoMin f s
  | .amoMax f => Sys2Proof.Machine.execAmoMax f s
  | .amoAnd f => Sys2Proof.Machine.execAmoAnd f s
  | .amoOr f => Sys2Proof.Machine.execAmoOr f s
  | .amoXor f => Sys2Proof.Machine.execAmoXor f s
  | .amoSwap f => Sys2Proof.Machine.execAmoSwap f s
  | .cas f => Sys2Proof.Machine.execCas f s
  | .fenceAcq sc => Sys2Proof.Machine.execFenceAcq sc s
  | .fenceRel sc => Sys2Proof.Machine.execFenceRel sc s
  | .fenceAr sc => Sys2Proof.Machine.execFenceAr sc s
  | .relq d sc => Sys2Proof.Machine.execRelq d sc s
  | .fadd f => Sys2Proof.Machine.execFadd f s
  | .fsub f => Sys2Proof.Machine.execFsub f s
  | .fmul f => Sys2Proof.Machine.execFmul f s
  | .fma f => Sys2Proof.Machine.execFma f s
  | .fms f => Sys2Proof.Machine.execFms f s
  | .fdiv f => Sys2Proof.Machine.execFdiv f s
  | .fsqrt f => Sys2Proof.Machine.execFsqrt f s
  | .fmin f => Sys2Proof.Machine.execFmin f s
  | .fmax f => Sys2Proof.Machine.execFmax f s
  | .fabs f => Sys2Proof.Machine.execFabs f s
  | .fneg f => Sys2Proof.Machine.execFneg f s
  | .feq f => Sys2Proof.Machine.execFeq f s
  | .flt f => Sys2Proof.Machine.execFlt f s
  | .fle f => Sys2Proof.Machine.execFle f s
  | .fcvtI32F32 f => Sys2Proof.Machine.execFcvtI32F32 f s
  | .fcvtU32F32 f => Sys2Proof.Machine.execFcvtU32F32 f s
  | .fcvtF32I32 f => Sys2Proof.Machine.execFcvtF32I32 f s
  | .fcvtF32U32 f => Sys2Proof.Machine.execFcvtF32U32 f s
  | .fclass f => Sys2Proof.Machine.execFclass f s
  | .vadd f => Sys2Proof.Machine.execVadd f s
  | .vsub f => Sys2Proof.Machine.execVsub f s
  | .vmul f => Sys2Proof.Machine.execVmul f s
  | .vfma f => Sys2Proof.Machine.execVfma f s
  | .vmin f => Sys2Proof.Machine.execVmin f s
  | .vmax f => Sys2Proof.Machine.execVmax f s
  | .vabs f => Sys2Proof.Machine.execVabs f s
  | .vneg f => Sys2Proof.Machine.execVneg f s
  | .vadds f => Sys2Proof.Machine.execVadds f s
  | .vsubs f => Sys2Proof.Machine.execVsubs f s
  | .vand f => Sys2Proof.Machine.execVand f s
  | .vor f => Sys2Proof.Machine.execVor f s
  | .vxor f => Sys2Proof.Machine.execVxor f s
  | .vshl f => Sys2Proof.Machine.execVshl f s
  | .vshr f => Sys2Proof.Machine.execVshr f s
  | .vsra f => Sys2Proof.Machine.execVsra f s
  | .vceq f => Sys2Proof.Machine.execVceq f s
  | .vcne f => Sys2Proof.Machine.execVcne f s
  | .vclt f => Sys2Proof.Machine.execVclt f s
  | .vcle f => Sys2Proof.Machine.execVcle f s
  | .vsel f => Sys2Proof.Machine.execVsel f s
  | .vmov f => Sys2Proof.Machine.execVmov f s
  | .vld f => Sys2Proof.Machine.execVld f s
  | .vst f => Sys2Proof.Machine.execVst f s
  | .vgath f => Sys2Proof.Machine.execVgath f s
  | .vscat f => Sys2Proof.Machine.execVscat f s
  | .vcvt f => Sys2Proof.Machine.execVcvt f s
  | .vcvtSr f => Sys2Proof.Machine.execVcvtSr f s
  | .vexp2 f => Sys2Proof.Machine.execVexp2 f s
  | .vlog2 f => Sys2Proof.Machine.execVlog2 f s
  | .vrcp f => Sys2Proof.Machine.execVrcp f s
  | .vrsqrt f => Sys2Proof.Machine.execVrsqrt f s
  | .vtanh f => Sys2Proof.Machine.execVtanh f s
  | .vmaxr f => Sys2Proof.Machine.execVmaxr f s
  | .vsum f => Sys2Proof.Machine.execVsum f s
  | .vresid f => Sys2Proof.Machine.execVresid f s
  | .vmask f => Sys2Proof.Machine.execVmask f s
  | .vpop f => Sys2Proof.Machine.execVpop f s
  | .vrand f => Sys2Proof.Machine.execVrand f s
  | .gkey f => Sys2Proof.Machine.execGkey f s
  | .gctr f => Sys2Proof.Machine.execGctr f s
  | .tld f => Sys2Proof.Machine.execTld f s
  | .tst f => Sys2Proof.Machine.execTst f s
  | .texp f => Sys2Proof.Machine.execTexp f s
  | .mwl f => Sys2Proof.Machine.execMwl f s
  | .mma f => Sys2Proof.Machine.execMma f s
  | .mmt f => Sys2Proof.Machine.execMmt f s
  | .mclr f => Sys2Proof.Machine.execMclr f s
  | .mcvt f => Sys2Proof.Machine.execMcvt f s
  | .bsum f => Sys2Proof.Machine.execBsum f s
  | .baccI32 f => Sys2Proof.Machine.execBaccI32 f s
  | .baccFloat f => Sys2Proof.Machine.execBaccFloat f s
  | .msync => Sys2Proof.Machine.execMsync s
  | .mstat d => Sys2Proof.Machine.execMstat d s
  | .tzero t => Sys2Proof.Machine.execTzero t s
  | .tmov f => Sys2Proof.Machine.execTmov f s
  | .pbeg => Sys2Proof.Machine.execPbeg s
  | .pcom f => Sys2Proof.Machine.execPcom f s
  | .pabt => Sys2Proof.Machine.execPabt s
  | .psta d => Sys2Proof.Machine.execPsta d s
  | .pcap d => Sys2Proof.Machine.execPcap d s
  | .send f => Sys2Proof.Machine.execSend f s
  | .sendm f => Sys2Proof.Machine.execSendm f s
  | .repl f => Sys2Proof.Machine.execRepl f s
  | .hdef f => Sys2Proof.Machine.execHdef f s
  | .dqctlStat d => Sys2Proof.Machine.execDqctlStat d s
  | .dqctlLim a => Sys2Proof.Machine.execDqctlLim a s
  | .dqctlSpill a => Sys2Proof.Machine.execDqctlSpill a s
  | .dqctlUnspill => Sys2Proof.Machine.execDqctlUnspill s
  | .dcnt f => Sys2Proof.Machine.execDcnt f s
  | .cpq f => Sys2Proof.Machine.execCpq f s
  | .gath f => Sys2Proof.Machine.execGath f s
  | .coll f => Sys2Proof.Machine.execColl f s
  | .evx f => Sys2Proof.Machine.execEvx f s
  | .evw f => Sys2Proof.Machine.execEvw f s
  | .mbx f => Sys2Proof.Machine.execMbx f s
  | .mack f => Sys2Proof.Machine.execMack f s
  | .dldL f => Sys2Proof.Machine.execDldL f s
  | .dstL f => Sys2Proof.Machine.execDstL f s
  | .dpush f => Sys2Proof.Machine.execDpush f s
  | .dpro f => Sys2Proof.Machine.execDpro f s
  | .ddem f => Sys2Proof.Machine.execDdem f s
  | .dpin f => Sys2Proof.Machine.execDpin f s
  | .dpinClr f => Sys2Proof.Machine.execDpinClr f s
  | .dstat f => Sys2Proof.Machine.execDstat f s
  | .trap imm => Sys2Proof.Machine.execTrap imm s
  | .svc imm => Sys2Proof.Machine.execSvc imm s
  | .rett => Sys2Proof.Machine.execRett s
  | .tlbinv a => Sys2Proof.Machine.execTlbinv a s
  | .tlbinva => Sys2Proof.Machine.execTlbinva s
  | .tlbprb f => Sys2Proof.Machine.execTlbprb f s
  | .rdcyc d => Sys2Proof.Machine.execRdcyc d s
  | .rdtime d => Sys2Proof.Machine.execRdtime d s
  | .activationDispatch core => Sys2Proof.Machine.execActivationDispatch core s
  | .recordArrival k => Sys2Proof.Machine.execRecordArrival k s
  | .memoryQueueTakeBack core => Sys2Proof.Machine.execMemoryQueueTakeBack core s
  | .recordAging core k => Sys2Proof.Machine.execRecordAging core k s
  | .sendQueueDepart core net => Sys2Proof.Machine.execSendQueueDepart core net s
  | .multicastAckComplete k => Sys2Proof.Machine.execMulticastAckComplete k s
  | .mackTokenArrival k => Sys2Proof.Machine.execMackTokenArrival k s
  | .dcntArrival k => Sys2Proof.Machine.execDcntArrival k s
  | .stealRequest core => Sys2Proof.Machine.execStealRequest core s
  | .stealAnswer core => Sys2Proof.Machine.execStealAnswer core s
  | .stealBackoffExpiry core => Sys2Proof.Machine.execStealBackoffExpiry core s
  | .mxuCommandStart core => Sys2Proof.Machine.execMxuCommandStart core s
  | .mxuRowStream core => Sys2Proof.Machine.execMxuRowStream core s
  | .governorWindow die => Sys2Proof.Machine.execGovernorWindow die s
  | .linkRowArrival k => Sys2Proof.Machine.execLinkRowArrival k s
  | .mxuCommandComplete core => Sys2Proof.Machine.execMxuCommandComplete core s
  | .vectorInstructionComplete core => Sys2Proof.Machine.execVectorInstructionComplete core s
  | .globalLoadReturn core hind k => Sys2Proof.Machine.execGlobalLoadReturn core hind k s
  | .accessAtHome core hind k => Sys2Proof.Machine.execAccessAtHome core hind k s
  | .releaseQueryReply core => Sys2Proof.Machine.execReleaseQueryReply core s
  | .proposalLockGrant core hind => Sys2Proof.Machine.execProposalLockGrant core hind s
  | .neighbourWriteArrival core => Sys2Proof.Machine.execNeighbourWriteArrival core s
  | .dpushGranuleArrival core => Sys2Proof.Machine.execDpushGranuleArrival core s
  | .bankOperation bank => Sys2Proof.Machine.execBankOperation bank s
  | .pageWalkLevel k => Sys2Proof.Machine.execPageWalkLevel k s
  | .cardLeavesFifo core => Sys2Proof.Machine.execCardLeavesFifo core s
  | .jobEntersInbox k => Sys2Proof.Machine.execJobEntersInbox k s
  | .copyGranule k => Sys2Proof.Machine.execCopyGranule k s
  | .gatherElement k => Sys2Proof.Machine.execGatherElement k s
  | .collectiveGroupExecute k => Sys2Proof.Machine.execCollectiveGroupExecute k s
  | .jobRetry k => Sys2Proof.Machine.execJobRetry k s
  | .jobComplete k => Sys2Proof.Machine.execJobComplete k s
  | .termFire core t => Sys2Proof.Machine.execTermFire core t s
  | .bindRecordWrite ac die team w twin => Sys2Proof.Machine.execBindRecordWrite ac die team w twin s
  | .teamUnbind die team => Sys2Proof.Machine.execTeamUnbind die team s
  | .teamMigration src team dst toTeam => Sys2Proof.Machine.execTeamMigration src team dst toTeam s
  | .claimRecordArrival k => Sys2Proof.Machine.execClaimRecordArrival k s
  | .claimDelivery die pool => Sys2Proof.Machine.execClaimDelivery die pool s
  | .egressSend slot => Sys2Proof.Machine.execEgressSend slot s
  | .quiescenceSweep part => Sys2Proof.Machine.execQuiescenceSweep part s
  | .sweepResult part => Sys2Proof.Machine.execSweepResult part s
  | .launchEntrySkip part => Sys2Proof.Machine.execLaunchEntrySkip part s
  | .launchEntryRecord part => Sys2Proof.Machine.execLaunchEntryRecord part s
  | .launchEntryHandler part => Sys2Proof.Machine.execLaunchEntryHandler part s
  | .launchEntryControl part => Sys2Proof.Machine.execLaunchEntryControl part s
  | .launchEntryScratchpad part => Sys2Proof.Machine.execLaunchEntryScratchpad part s
  | .launchEntryDram part => Sys2Proof.Machine.execLaunchEntryDram part s
  | .launchEntryBatchEnd part => Sys2Proof.Machine.execLaunchEntryBatchEnd part s
  | .lchStatRetry part => Sys2Proof.Machine.execLchStatRetry part s
  | .lchStatSkip part => Sys2Proof.Machine.execLchStatSkip part s
  | .lchTailWrite part v => Sys2Proof.Machine.execLchTailWrite part v s
  | .partSupWrite reg v => Sys2Proof.Machine.execPartSupWrite reg v s
  | .partQosWrite reg v => Sys2Proof.Machine.execPartQosWrite reg v s
  | .diePartWrite ac die v => Sys2Proof.Machine.execDiePartWrite ac die v s
  | .partNinjSend reg => Sys2Proof.Machine.execPartNinjSend reg s
  | .deviceRegisterWrite ac addr v => Sys2Proof.Machine.execDeviceRegisterWrite ac addr v s
  | .heldNoticeDelivery part => Sys2Proof.Machine.execHeldNoticeDelivery part s
  | .uncorrectableError t => Sys2Proof.Machine.execUncorrectableError t s
  | .partitionPreempt part incoming => Sys2Proof.Machine.execPartitionPreempt part incoming s
  | .partitionReset part => Sys2Proof.Machine.execPartitionReset part s
  | .deviceInterrupt part vector => Sys2Proof.Machine.execDeviceInterrupt part vector s
  | .dieLinkPacketArrival src dst seqNo body alt lost => Sys2Proof.Machine.execDieLinkPacketArrival src dst seqNo body alt lost s
  | .fabricRecordArrival dst fromPkg m seqNo => Sys2Proof.Machine.execFabricRecordArrival dst fromPkg m seqNo s
  | .railLoss l => Sys2Proof.Machine.execRailLoss l s
  | .retrainComplete l => Sys2Proof.Machine.execRetrainComplete l s
  | .boundaryDown l => Sys2Proof.Machine.execBoundaryDown l s
  | .retrainRetry l ok => Sys2Proof.Machine.execRetrainRetry l ok s
  | .boot fw app => Sys2Proof.Machine.execBoot fw app s
  | .attestationRequest nonce => Sys2Proof.Machine.execAttestationRequest nonce s
  | .deviceDma op => Sys2Proof.Machine.execDeviceDma op s
  | .egressSlotControlWrite slot v => Sys2Proof.Machine.execEgressSlotControlWrite slot v s
  | .packageNumberAssignment n => Sys2Proof.Machine.execPackageNumberAssignment n s

end Sys2Proof.Machine
end

