-- ==== Sys2Proof/Machine/Fetch.lean ====
section
/-!
DEFINITION. Fetch lines (R23 to R26), the fetch of a line (R30, R54), the cutting of a line into groups (R26), and the
checks of a line and of a group before its instructions execute (R16, R25, R27, R28, R52, R53).
-/

namespace Sys2Proof.Machine

/-! ## PCs (R26) -/

def lineOfPc (pc : DWord) : DWord := pc &&& ~~~(63 : DWord)
def slotOf (pc : DWord) : Nat := bits pc 2 0
/-- A PC that a transfer may go to: bits [5:3] are zero and the slot is at most 4. -/
def pcFormed (pc : DWord) : Bool := bits pc 5 3 == 0 && slotOf pc ≤ 4

/-! ## The line word (R23, R24) -/

def slotCode (l : Line) (i : Nat) : Code := l.extractLsb' (96 * i) 96
def pairBit (l : Line) (i : Nat) : Bool := i < 4 && l.getLsbD (490 + i)
def laneBit (l : Line) (i : Nat) : Bool := l.getLsbD (494 + i)
def targetBit (l : Line) (i : Nat) : Bool := l.getLsbD (499 + i)

/-- Even parity: the ones among the low `n` bits of a number, modulo 2. -/
def oddOnes : Nat → Nat → Bool
  | 0, _ => false
  | n + 1, v => xor (v % 2 == 1) (oddOnes n (v / 2))

/-- The parity bit of 48 bits of a line. -/
def parityOf (l : Line) (k : Nat) : Bool := oddOnes 48 (l.extractLsb' (48 * k) 48).toNat
def parityOk (l : Line) : Bool := (List.range 10).all fun k => l.getLsbD (480 + k) == parityOf l k

/-- The cause that a malformed line word raises (R25, R52, R53): ILLLINE before ILLPAIR. -/
def lineCause (l : Line) : Option Cause :=
  if l.extractLsb' 504 8 ≠ 0 ∨ (List.range 4).any (fun i => pairBit l i && targetBit l (i + 1)) then some .illline
  else if (List.range 3).any (fun i => pairBit l i && pairBit l (i + 1)) ∨
      (List.range 4).any (fun i => pairBit l i && (laneBit l i || !laneBit l (i + 1))) then some .illpair
  else none

/-! ## Groups (R26) -/

/-- A slot of a group. -/
structure Half where
  code : Code
  lane1 : Bool
  pc : DWord
  deriving DecidableEq, Repr

def halfAt (l : Line) (pc : DWord) (i : Nat) : Half := ⟨slotCode l i, laneBit l i, lineOfPc pc + BitVec.ofNat 64 i⟩

/-- The group at a PC: one slot, or two. -/
def groupOf (l : Line) (pc : DWord) : List Half :=
  if pairBit l (slotOf pc) then [halfAt l pc (slotOf pc), halfAt l pc (slotOf pc + 1)] else [halfAt l pc (slotOf pc)]

/-- The PC of the group that follows in sequence. -/
def nextPcOf (l : Line) (pc : DWord) : DWord :=
  let k := slotOf pc + (groupOf l pc).length
  if 5 ≤ k then lineOfPc pc + 64 else lineOfPc pc + BitVec.ofNat 64 k

def Half.instr (h : Half) : Except BadCode Instr := decode h.code
/-- The instruction of a slot that holds one, as a list. -/
def Half.instrs (h : Half) : List Instr :=
  match h.instr with
  | .ok i => [i]
  | .error _ => []

/-- A word in a lane that executes its form, with operand-file entries of its lane, whether or not it decodes (R16, R27,
R53). (DEDUCED, log entry 24.) -/
def Half.placed (h : Half) : Bool :=
  (!h.lane1 || laneOneForm (Fields.ofCode h.code).cls.toNat (Fields.ofCode h.code).minor.toNat) &&
  (Fields.ofCode h.code).opRegs.all (fun r => (4 ≤ r) == h.lane1) &&
  h.instrs.all fun i => i.opRegs.all fun r => (4 ≤ r) == h.lane1

/-- The main-file destinations of a slot: its instruction's, or those that a word that does not decode names. (DEDUCED, log entry 17.) -/
def Half.mainDests (h : Half) : List Nat :=
  match h.instr with
  | .ok i => i.mainDests
  | .error _ => (Fields.ofCode h.code).mainDests

/-- Two halves do not name one main-file destination (R28). -/
def apart : List Half → Bool
  | [a, b] => !(a.mainDests.any b.mainDests.contains)
  | _ => true

/-- The cause of a slot before it executes (R52, R53): ILLOP, NOPATH, PRIV. (DEDUCED, log entry 23.) -/
def Half.cause (h : Half) (id : Nat) (priv : Bool) : Option Cause :=
  match h.instr with
  | .error _ => some .illop
  | .ok i => i.preCause id priv

/-! ## Waiting for registers (R18) -/

/-- The registers that loads on their way will write. (DEDUCED, log entry 9.) -/
def Stream.pending (t : Stream) : List Nat := t.acc.flatMap fun a => if a.kind.isStore then [] else a.dst.ids
def Stream.held (t : Stream) (i : Instr) : Bool := (i.uses.rd ++ i.uses.wr).any t.pending.contains

/-! ## The fetch (R30, R53) -/

/-- A line read at its address: translated, then read whole; where the cluster has no copy and the home is on another die, once
nothing is on its way between the two (R293). -/
def fetchMiss (va : DWord) : Exec Line := do
  let pa ← globalAddr va .ex
  let s ← get
  if s.dev.accessCrosses s.me .load pa then crossOver pa else pure ()
  let s ← get
  let (v, d) := s.dev.loadPlain s.me pa 64
  set (s.setDev d)
  modStream fun t => { t with fetched := some (va.toNat, BitVec.ofNat 512 v) }
  pure (BitVec.ofNat 512 v)

/-- The line at a PC: the one the stream has buffered, or else read through the TLB and the cluster cache. (DEDUCED, log entry 11.) -/
def fetchLine (pc : DWord) : Exec Line := do
  let s ← get
  match s.stream.fetched with
  | some (a, l) => if a = (lineOfPc pc).toNat then pure l else fetchMiss (lineOfPc pc)
  | none => fetchMiss (lineOfPc pc)

/-- Whether the slot's target bit is required, and the trap value of a BTARGET at the PC. -/
def Stream.entered (t : Stream) : Bool := match t.entering with
  | some (_, b) => b
  | none => false
/-- DEDUCED, log entry 23. -/
def Stream.enteredFrom (t : Stream) : DWord := match t.entering with
  | some (v, _) => v
  | none => 0

/-- A PC that is not well formed raises BTARGET (R26). (DEDUCED, log entry 23.) -/
def pcCheck (pc : DWord) : Exec Unit := do
  let s ← get
  require (pcFormed pc) (trap .btarget s.stream.enteredFrom)

/-- A parity mismatch is handled as an uncorrectable error; the group does not issue (R30, R341). (DEDUCED, log entry 63.) -/
def parityCheck (pc : DWord) (l : Line) : Exec Unit := do
  let s ← get
  require (parityOk l) (waitFor fun d => d.uncorrectable (.fetchLine s.me (lineOfPc pc).toNat))

/-- The checks of a line at its first group (R25, R29, R53). A transfer into a slot without its target bit raises BTARGET
before the line is judged, since it is the transfer's trap. -/
def lineChecks (pc : DWord) (l : Line) : Exec Unit := do
  let s ← get
  require (!s.stream.entered || targetBit l (slotOf pc)) (trap .btarget s.stream.enteredFrom)
  match lineCause l with
  | some .illline => trap .illline (lineOfPc pc)
  | some c => trap c pc
  | none => pure ()

/-- The checks of a group (R16, R27, R28, R53). (DEDUCED, log entry 17.) -/
def groupChecks (pc : DWord) (hs : List Half) : Exec Unit :=
  if hs.all Half.placed && apart hs then pure () else trap .illpair pc

end Sys2Proof.Machine
end

