-- ==== Sys2Proof/Machine/Issue.lean ====
section
/-!
DEFINITION. The issue of a group (R18, R26 to R30, R53): fetch and checks, then the halves in turn, which read what was
before the group.
-/

namespace Sys2Proof.Machine

/-- An instruction in its slot. -/
abbrev Placed := Instr × Half

/-- The state in which the instruction of a slot runs. -/
def State.at_ (s : State) (h : Half) : State := { s with issue := { s.issue with lane1 := h.lane1, slotPc := h.pc } }

/-- The causes of a slot, in R53's order: those of its word, then, once no register of it waits for a load (R18), an ILLOP that
depends on the core's state. (DEDUCED, log entry 17.) -/
def slotCheck (paired : Bool) (h : Half) : Exec Placed := do
  let s ← get
  match h.instr with
  | .error _ => trap .illop h.pc
  | .ok i =>
    match i.preCause s.me s.core.cr.priv with
    | some c => trap c h.pc
    | none =>
      if paired then do
        blockUnless (!s.stream.held i)
        match exec i (s.at_ h) with
        | .next t => if t.took = some .illop then trap .illop h.pc else pure (i, h)
        | _ => pure (i, h)
      else pure (i, h)

/-- DEDUCED, log entry 17. -/
def slotChecks (paired : Bool) : List Half → Exec (List Placed)
  | [] => pure []
  | h :: t => do
    let a ← slotCheck paired h
    let l ← slotChecks paired t
    pure (a :: l)

/-- The group at a PC, fetched, checked and free of waiting registers. -/
def prepare (pc : DWord) : Exec (List Placed) := do
  pcCheck pc
  let l ← fetchLine pc
  parityCheck pc l
  lineChecks pc l
  let hs := groupOf l pc
  groupChecks pc hs
  let ps ← slotChecks (hs.length == 2) hs
  let s ← get
  blockUnless (ps.all fun p => !s.stream.held p.1)
  set { s with issue := { s.issue with nextPc := nextPcOf l pc, paired := hs.length == 2 } }
  pure ps

/-- The state in which a stream is offered the issue. -/
def State.offer (s : State) (core : Nat) (hind : Bool) : State :=
  let pc := ((s.dev.core core).stream hind).pc
  { s with pair := none, blocked := false, took := none, issue := ⟨core, hind, false, pc, pc, 0, 0, false, false⟩ }

/-- Whether a stream has a group to issue. -/
def State.issues (s : State) (core : Nat) (hind : Bool) : Bool :=
  !(s.dev.core core).stopped && ((s.dev.core core).stream hind).running

/-- Whether a stream's `done` has issued, so that its next turn ends the activation (R28, R72). -/
def State.ends (s : State) (core : Nat) (hind : Bool) : Bool := ((s.dev.core core).stream hind).ending

/-- The group that a stream would issue, or the state that a trap or a wait leads to. -/
def State.ready (s : State) (core : Nat) (hind : Bool) : Except State (List Placed × State) :=
  let s := s.offer core hind
  match prepare s.issue.pc s with
  | .ok r => .ok r
  | .error e => .error (s.finish (.error e))

/-- POISON of a load that has come back poisoned: at its group's PC, without an effect of that group, which is the load alone (R28,
R339). Groups behind it have taken effect, as R18 and R281 let them, but for their loads. (DEDUCED, log entry 10.) -/
def State.poisoned (s : State) (core : Nat) (hind : Bool) (pc v : DWord) : State :=
  let s := s.offer core hind
  { s.modStream fun t => { t with struck := none, ending := false } with issue := { s.issue with pc := pc, slotPc := pc } }.takeTrap .poison pc v

/-- Forms that leave their stream: the other half completes before them (R28, R95). -/
def leaves : Instr → Bool
  | .trap _ | .svc _ | .done | .rett => true
  | _ => false

/-- One half after the other; a half that traps or waits discards both. -/
def runHalves (a b : Placed) (s : State) : Result :=
  match exec a.1 (s.at_ a.2) with
  | .next t => if t.blocked || t.took.isSome then .next t else exec b.1 { t.at_ b.2 with pair := some s.dev }
  | r => r

/-- A `pcom` that has not drawn: what it does from its draw on cannot be taken back. -/
def State.undrawn (s : State) : Instr → Bool
  | .pcom _ => (s.stream.region.st == .opened || s.stream.region.st == .failed) && s.stream.region.post.isNone
  | _ => false

/-- A pair. Beside a half that traps or waits, a `pcom` neither locks nor draws: the group has no effect (R28, R217). -/
def runPair (a b : Placed) (s : State) : Result :=
  if s.undrawn a.1 then
    match exec b.1 (s.at_ b.2) with
    | .next t => if t.blocked || t.took.isSome then .next t else runHalves a b s
    | r => r
  else runHalves a b s

/-- The state after a group: no half is left. -/
def closeGroup : Result → Result
  | .next t => .next { t with pair := none }
  | r => r

def runGroup (ps : List Placed) (s : State) : Result :=
  match ps with
  | [a] => exec a.1 (s.at_ a.2)
  | [a, b] => closeGroup (if leaves a.1 then runPair b a s else runPair a b s)
  | _ => .next s

end Sys2Proof.Machine
end

