-- ==== Sys2Proof/Machine/Twin.lean ====
section
/-!
DEFINITION. Twin mode (R237, R346): a compared access is issued by both cores of a pair together, performed once at the
primary's path, and its result goes to both.
-/

namespace Sys2Proof.Machine

/-! ## Compared accesses -/

def WDst.isWin : WDst → Bool
  | .win _ _ _ => true
  | _ => false
def Int3.isWin : Int3 → Bool
  | .w d _ _ => WDst.isWin d
  | .d _ _ _ => false
def Cmp.isWin : Cmp → Bool
  | .w d _ _ => WDst.isWin d
  | .d d _ _ => WDst.isWin d
def LeaOp.isWin : LeaOp → Bool
  | .w d _ _ _ _ => WDst.isWin d
  | .d _ _ _ _ _ => false
def MovOp.isWin : MovOp → Bool
  | .w d _ => WDst.isWin d
  | .d _ _ => false
def KgetOp.isWin : KgetOp → Bool
  | .w d _ => WDst.isWin d
  | .d _ _ => false

/-- A base that is not the core's own scratchpad. -/
def Base.leaves : Base → Bool
  | .sp _ => false
  | _ => true

/-- The row of R346's table that an instruction falls under, 1 to 3; 0 for one that each core performs for itself. -/
def compared : Instr → Nat
  | .send _ | .sendm _ | .repl _ | .bsum _ | .dcnt _ | .mack _ | .cpq _ | .gath _ | .coll _ | .cobj _ | .cfree _ | .rwb _
  | .rinv _ | .rinvChk _ | .dldL _ | .dstL _ | .dpush _ | .dpro _ | .ddem _ | .dpin _ | .dpinClr _ | .dstat _ => 1
  | .ld f | .ldVol f | .ldTake f | .ldWait f | .ldAcq f _ => if Base.leaves f.base then 2 else 0
  | .lds f => if Base.leaves f.base then 2 else 0
  | .st f | .stVol f | .stFill f | .stRel f _ => if Base.leaves f.base then 2 else 0
  | .amoAdd _ | .amoMin _ | .amoMax _ | .amoAnd _ | .amoOr _ | .amoXor _ | .amoSwap _ | .cas _ => 2
  | .add f | .sub f | .adds f | .subs f | .mul f | .min f | .max f | .minu f | .maxu f
  | .and f | .or f | .xor f | .andn f | .shl f | .shr f | .sra f | .rol f => if Int3.isWin f then 2 else 0
  | .mulh f | .mulhu f | .div f | .divu f | .rem f | .remu f
  | .fmin f | .fmax f | .feq f | .flt f | .fle f => if WDst.isWin f.d then 2 else 0
  | .clz f | .ctz f | .popc f | .fabs f | .fneg f | .fclass f => if WDst.isWin f.d then 2 else 0
  | .bfx f | .bfi f => if WDst.isWin f.d then 2 else 0
  | .seq f | .sne f | .slt f | .sge f | .sltu f | .sgeu f => if Cmp.isWin f then 2 else 0
  | .sel f => if WDst.isWin f.d then 2 else 0
  | .lea f => if LeaOp.isWin f then 2 else 0
  | .mov f => if MovOp.isWin f then 2 else 0
  | .kget f => if KgetOp.isWin f then 2 else 0
  | .fadd f | .fsub f | .fmul f | .fdiv f | .fma f | .fms f => if WDst.isWin f.d then 2 else 0
  | .fsqrt f | .fcvtI32F32 f | .fcvtU32F32 f | .fcvtF32I32 f | .fcvtF32U32 f => if WDst.isWin f.d then 2 else 0
  | .vadd f | .vsub f | .vmul f | .vmin f | .vmax f | .vadds f | .vsubs f | .vand f | .vor f | .vxor f
  | .vshl f | .vshr f | .vsra f | .vceq f | .vcne f | .vclt f | .vcle f => if f.d.isWin then 2 else 0
  | .vabs f | .vneg f | .vmov f | .vexp2 f | .vlog2 f | .vrcp f | .vrsqrt f | .vtanh f => if f.d.isWin then 2 else 0
  | .vsel f => if f.d.isWin then 2 else 0
  | .vcvt f | .vcvtSr f => if f.d.isWin then 2 else 0
  | .vrand f => if f.d.isWin then 2 else 0
  | .pcom _ => 3
  | _ => 0

/-- The row of a group: its compared half's. -/
def groupRow (ps : List Placed) : Nat := ps.foldl (fun n p => if n = 0 then compared p.1 else n) 0

/-! ## The path of the primary -/

/-- What of a core lies on the path that a pair shares: what leaves it, and how its addresses are translated. -/
def Core.withPath (c p : Core) : Core :=
  { c with sendq := p.sendq, tokens := p.tokens, fifo := p.fifo, round := p.round, sentTo := p.sentTo, counted := p.counted,
           queries := p.queries, tlb := p.tlb, walkFail := p.walkFail, sent := p.sent, homeId := p.homeId,
           fore := { c.fore with acc := p.fore.acc, ranged := p.fore.ranged },
           hind := { c.hind with acc := p.hind.acc, ranged := p.hind.ranged } }

/-- The device in which the secondary stands in the primary's place, on the primary's path; for `pcom` with its region. -/
def Device.swapped (d : Device) (p q : Nat) (hind region : Bool) : Device :=
  let c := (d.core q).withPath (d.core p)
  let c := if region then c.modStream hind fun t => { t with region := ((d.core p).stream hind).region } else c
  d.setCore p c

/-! ## The bytes and the destination of an access

Of an access that is performed where its group stands, or that the core's access queue takes: what the group asks for. Of
one that leaves the core as a message: what has left. The order and the widths in which they are hashed are the model's.
(DESIGN CHOICE, log entry 20.) -/

def askSrc (a : Src) : Exec Nat := do
  let v ← readSrc a
  pure v.toNat

def askPair (p : PairReg) : Exec Nat := do
  let v ← readPair p
  pure v.toNat

/-- The address that a memory form names. -/
def askAddr (b : Base) (off : Word) : Exec Nat :=
  match b with
  | .glob p => do
    let v ← readPair p
    pure (v + sextI off).toNat
  | .sp a | .nb a => do
    let v ← readSrc a
    pure (v + off).toNat

def askAll : List (Exec Nat) → Exec (List Nat)
  | [] => pure []
  | m :: t => do
    let v ← m
    let l ← askAll t
    pure (v :: l)

def LdOp.asks (f : LdOp) : List (Exec Nat) := [askAddr f.base f.off, pure (ldBytes f.d)]
def StOp.asks (f : StOp) : List (Exec Nat) := [askAddr f.base f.off, pure (stBytes f.v), readStore f.v]
def AmoOp.asks (f : AmoOp) : List (Exec Nat) :=
  pure (Scope.code f.scope) :: (match f.args with
    | .w _ a b => [askPair a, askSrc b]
    | .d _ a b => [askPair a, askPair b])
def CasOp.asks (f : CasOp) : List (Exec Nat) :=
  pure (Scope.code f.scope) :: (match f.args with
    | .w _ a b c => [askPair a, askSrc b, askSrc c]
    | .d _ a b c => [askPair a, askPair b, askPair c])

/-- The commit request of R237 but for the ratio bits: read set, write set, generator. -/
def Core.request (c : Core) (hind : Bool) : List Nat :=
  let r := (c.stream hind).region
  let g := c.gen hind
  (r.rs.flatMap fun l => [l.pa, l.version.toNat]) ++ (r.ws.flatMap fun l => [l.pa, l.data.toNat, l.mask.toNat]) ++
    [r.rs.length, r.ws.length, g.key.toNat, g.ctr.toNat, g.idx.toNat]

/-- The operands that a compared instruction presents. -/
def Instr.asks : Instr → List (Exec Nat)
  | .ld f | .ldVol f | .ldTake f | .ldWait f => LdOp.asks f
  | .ldAcq f sc => pure (Scope.code sc) :: LdOp.asks f
  | .lds f => [askAddr f.base f.off, pure f.half.toNat]
  | .st f | .stVol f | .stFill f => StOp.asks f
  | .stRel f sc => pure (Scope.code sc) :: StOp.asks f
  | .amoAdd f | .amoMin f | .amoMax f | .amoAnd f | .amoOr f | .amoXor f | .amoSwap f => AmoOp.asks f
  | .cas f => CasOp.asks f
  | .rwb f => [askPair f.a, askSrc f.b]
  | .rinv f | .rinvChk f => [askPair f.a, askSrc f.b]
  | .cobj f => [do
      let o ← readSrc f.a
      let s ← get
      pure (s.core.spNat o.toNat 16)]
  | .cfree a | .pcom ⟨_, a⟩ => [askSrc a]
  | _ => []

/-- Class and minor of an instruction. -/
def Instr.kindNo (i : Instr) : List Nat :=
  match i.fields with
  | some f => [f.cls.toNat, f.minor.toNat]
  | none => []

/-- What a group asks for, half by half; what cannot be read yet asks for nothing. -/
def asked (ps : List Placed) (s : State) : List Nat :=
  ps.flatMap fun p =>
    if compared p.1 = 0 then []
    else Instr.kindNo p.1 ++ (match askAll (Instr.asks p.1) s with
      | .ok (l, _) => l
      | .error _ => []) ++ (if compared p.1 = 3 then s.core.request s.hind else [])

def Space.nats : Space → List Nat
  | .glob => [0, 0] | .sp c => [1, c] | .dram => [2, 0]

def Work.nats : Work → List Nat
  | .copy src sa dst da len => 0 :: Space.nats src ++ [sa] ++ Space.nats dst ++ [da, len]
  | .gather src base entries size list count dst da fill desc =>
    1 :: Space.nats src ++ [base, entries, size, list, count] ++ Space.nats dst ++ [da, fill.toNat, desc]
  | .coll kind op m rank key src dst count desc => [2, kind, op, m, rank, key.toNat, src, dst, count, desc]

def Card.nats (c : Card) : List Nat :=
  [c.core, c.tag.toNat, c.setFull.toNat, c.layout.toNat] ++ Work.nats c.work ++
    (match c.counter with
      | some (o, n) => [1, o, n]
      | none => [0])

def SendEntry.nats (net : Nat) (e : SendEntry) : List Nat :=
  [net, kindNo e.kind, e.r.toNat, (e.ack.map (· + 1)).getD 0, e.dsts.length] ++ e.dsts
where
  kindNo : MsgKind → Nat
    | .record => 0 | .decrement => 1 | .token => 2

/-- The writes of a core on their way to its neighbours' scratchpad ports. -/
def Device.nbWrites (d : Device) (id : Nat) : List (Nat × NbWrite) :=
  [Dir.n, Dir.e, Dir.s, Dir.w].flatMap fun dir =>
    match neighbour id dir with
    | some nb => ((d.core nb).nbq.filter fun w => w.src == id).map fun w => (nb, w)
    | none => []

/-- What of a list is new. -/
def newOf {α : Type} [DecidableEq α] (old new : List α) : List α := new.filter fun x => !old.contains x

/-- What has left core `p` between two devices: records and decrements, tokens, engine cards, neighbour writes. -/
def departed (p : Nat) (d e : Device) : List Nat :=
  let c := d.core p
  let x := e.core p
  ((List.range 3).flatMap fun k =>
    ((FMap.get x.sendq k []).drop (FMap.get c.sendq k []).length).flatMap (SendEntry.nats k)) ++
  ((newOf c.tokens x.tokens).flatMap fun t => [t.core, t.mbox, t.n]) ++
  ((x.fifo.drop c.fifo.length).flatMap Card.nats) ++
  ((newOf (d.nbWrites p) (e.nbWrites p)).flatMap fun w => [w.1, w.2.off, w.2.n, w.2.data.toNat, w.2.fill.toNat])

/-- What is compared: the first 128 bits of SHAKE256 over the access's numbers, each in 64 bytes, and its sequence number,
the count of compared accesses of the activation. -/
def accessHash (seq : Nat) (l : List Nat) : List Byte := shake256 ((l ++ [seq]).flatMap (leBytes 64)) 16

/-! ## What is performed -/

/-- The loads that a pair has issued, each performed at once: the data goes to both. -/
def Device.takeLoads (d : Device) (id : Nat) (hind : Bool) : Nat → Device
  | 0 => d
  | n + 1 =>
    let l := (d.core id).outstanding hind
    match l.findIdx? fun a => !a.kind.isStore with
    | some k =>
      match l[k]? with
      | some a =>
        let d := if d.accessCrosses id a.kind a.pa then d.countCross (dieOf id) a.pa else d
        let p := d.loadPoison id a.pa (a.kind == .volLoad)
        let (v, d) := d.readAccess id a
        (d.deliverLoad id hind k a v p).takeLoads id hind n
      | none => d
    | none => d

/-- Its loads' messages between dies could go now. -/
def Device.loadsReach (d : Device) (id : Nat) (hind : Bool) : Bool :=
  ((d.core id).outstanding hind).all fun a => a.kind.isStore || !d.accessCrosses id a.kind a.pa || d.linkIdle (dieOf id) a.pa

/-- A comparison has failed on the record that a core runs again. -/
def Core.failedTwice (c : Core) : Bool := c.twinFailed && c.cr.redo

/-- The unit that an UNCORR notice names for a failed comparison, which R334 leaves open. (DESIGN CHOICE, log entry 20.) -/
def Device.mismatchUnit (d : Device) : Nat := 2 + Config.mismatchUnit d.tick % 6

/-- A failed comparison of the streams `hind` of a pair (R346): nothing is performed, the regions of a `pcom` close (R237), and both
activations are rolled back, with a TWIN notice; the second failure on a record stops both cores. A publication of the pair's other
stream is completed first (R236). -/
def Device.mismatch (d : Device) (p q row : Nat) (hind : Bool) : Device :=
  let d := if row = 3 then [p, q].foldl (fun d id => (d.abandonPass id hind).modRegion id hind fun r => closedRegion r.last) d else d
  let u := d.mismatchUnit
  if (d.core p).failedTwice || (d.core q).failedTwice then (d.fails p ⟨u, 0, some .twin⟩).fails q ⟨u, 0, some .twin⟩
  else
    let d := (d.rollback p u 0 .twin).rollback q u 0 .twin
    let d := [p, q].foldl (fun d id => d.modCore id fun c => { c with twinFailed := true }) d
    d.notice (d.partOfCore p) .twin p [BitVec.ofNat 32 p, BitVec.ofNat 32 q, BitVec.ofNat 32 row]

/-- The secondary's core as its group leaves it in the primary's place, back on its own path. -/
def Device.secondary (d : Device) (p q : Nat) (e : Device) : Device := d.setCore q ((e.core p).withPath (d.core q))

/-- The secondary while the primary's `pcom` goes on: it has the region as the primary's has become, without the lock pass, which
is the pair's one; and the primary's draw is its own too, so that both generators move on by one (R237). -/
def Device.follow (d : Device) (p q : Nat) (hind drew : Bool) : Device :=
  let r := ((d.core p).stream hind).region
  d.modCore q fun c =>
    let c := c.modStream hind fun t => { t with region := { r with pass := none } }
    if drew then c.setGen hind (c.gen hind).next else c

/-- Whether the secondary is at the `pcom` that the primary's lock pass, publication or outcome is for: its region is the primary's.
Once it has been rolled back, it is not. -/
def Device.together (d : Device) (p q : Nat) (hind : Bool) : Bool :=
  ((d.core q).stream hind).region == { ((d.core p).stream hind).region with pass := none }

/-- The access is performed for both: it counts. -/
def Device.presents (d : Device) (ids : List Nat) : Device :=
  ids.foldl (fun d id => d.modCore id fun c => { c with presented := c.presented + 1 }) d

/-! ## The issue of a pair's access -/

/-- The pair of a core, if it is in one. -/
def Device.twinOf (d : Device) (id : Nat) : Option (Nat × Nat) := d.twins.find? fun t => t.1 == id || t.2 == id

/-- The state after an outcome. -/
def stateOf (r : Result) (s : State) : State :=
  match r with
  | .next t => t
  | _ => s

/-- The two groups of a pair, each run on the primary's path: `a` and `b` are the states after the primary's and the
secondary's. A core whose own group traps takes its trap alone, but for the one draw of a `pcom`, which is the primary's: where
its tape ends, both take BOUND. (DESIGN CHOICE, log entry 20.) -/
def runTwins (p q : Nat) (hind : Bool) (pp qq : List Placed) (s t : State) : State :=
  let row := groupRow pp
  let region : Bool := row == 3
  let r := ((s.dev.core p).stream hind).region
  let first : Bool := !region || (r.pass.isNone && r.post.isNone && !(r.owed.isSome && s.dev.together p q hind))
  let o := { t with dev := s.dev.swapped p q hind region }
  let a := stateOf (runGroup pp s) s
  let b := stateOf (runGroup qq o) o
  let ask := asked pp s
  let ask' := asked qq { o with dev := s.dev.swapped p q hind false }
  let n := (s.dev.core p).presented
  let m := (s.dev.core q).presented
  if row ≠ groupRow qq ∨ (first ∧ accessHash n ask ≠ accessHash m ask') then s.after (s.dev.mismatch p q row hind)
  else if a.blocked then
    { a with dev := if region then a.dev.follow p q hind (r.post.isNone && ((a.dev.core p).stream hind).region.post.isSome) else a.dev }
  else if region ∧ a.took = some .bound ∧ (s.dev.core p).tapeEnds ((s.dev.core p).gen hind) then
    { a with dev := a.dev.beginTrap q hind .bound t.issue.pc (((s.dev.core p).gen hind).idx.setWidth 64) }
  else if b.blocked then { s with blocked := true }
  else if a.took.isSome && b.took.isNone then a
  else if a.took.isNone && b.took.isSome then { b with dev := s.dev.secondary p q b.dev }
  else if accessHash n (departed p s.dev a.dev) ≠ accessHash m (departed p o.dev b.dev) then s.after (s.dev.mismatch p q row hind)
  else if !a.dev.loadsReach p hind then { s with blocked := true }
  else
    let k := ((a.dev.core p).outstanding hind).length
    { a with dev := ((a.dev.takeLoads p hind k).secondary p q (b.dev.takeLoads p hind k)).presents [p, q] }

/-- The primary's turn in a publication whose secondary has been rolled back: the matched commit is carried out to its end, for
which the primary stands alone (R237). (DESIGN CHOICE, log entry 20.) -/
def aloneTurn (p : Nat) (ps : List Placed) (t s : State) : State :=
  let a := stateOf (runGroup ps t) s
  if a.blocked || a.took.isSome then a else { a with dev := a.dev.presents [p] }

/-- A stream of a pair at a compared access waits until the other core's stream is at one, and until the primary's earlier
accesses have been performed. Where the secondary has been rolled back out of a `pcom`, the primary abandons its lock pass, or
completes its publication. `t` is the state in which the group `ps` of `core` would run. (DESIGN CHOICE, log entry 20.) -/
def twinTurn (p q core : Nat) (hind : Bool) (ps : List Placed) (t s : State) : State :=
  let other := if core = p then q else p
  let r := ((s.dev.core p).stream hind).region
  if (r.pass.isSome || r.post.isSome) && !s.dev.together p q hind then
    if r.post.isNone then { s with dev := s.dev.abandonPass p hind, blocked := true }
    else if core = p then aloneTurn p ps t s
    else { s with blocked := true }
  else if !s.issues other hind || s.ends other hind || (s.dev.core other).dying.isSome || !((s.dev.core p).outstanding hind).isEmpty then { s with blocked := true }
  else match t.ready other hind with
    | .error _ => { s with blocked := true }
    | .ok (os, u) =>
      let a : State := if core = p then { u with issue := t.issue } else u
      let b : State := if core = p then { u with issue := { u.issue with core := p } } else { u with issue := { t.issue with core := p } }
      if groupRow os = 0 then { s with blocked := true }
      else if core = p then runTwins p q hind ps os a b
      else runTwins p q hind os ps a b

/-- What a stream does at its turn: it completes its publication for an error that waits for it, takes the POISON of a load that has
come back, ends its activation, or issues its group. -/
def streamTurn (core : Nat) (hind : Bool) (s : State) : Result :=
  match (s.dev.core core).dying, ((s.dev.core core).stream hind).struck with
  | some e, _ => .next { s.offer core hind with dev := s.dev.completes core hind e, blocked := true }
  | none, some (pc, v) => .next (s.poisoned core hind pc v)
  | none, none =>
    if s.ends core hind then run endForm (s.offer core hind)
    else match s.ready core hind with
      | .error t => .next t
      | .ok (ps, t) =>
        match s.dev.twinOf core with
        | some (p, q) => if groupRow ps = 0 then runGroup ps t else .next (twinTurn p q core hind ps t s)
        | none => runGroup ps t

/-- A trap waits for the stream's earlier loads, whose own traps come first, and, since it suspends both streams, for a publication of
the other one (R327; R235 has a pre-emption wait so). (DEDUCED, log entries 10 and 26.) -/
def Core.holdsTrap (c : Core) (hind : Bool) : Bool := !c.loadsDone hind || c.publishing (!hind)

/-- The outcome of a turn, in which a trap may have to wait. -/
def trapWaits (core : Nat) (hind : Bool) (s : State) : Result → Result
  | .next t => .next (if t.took.isSome && (s.dev.core core).holdsTrap hind then { s.offer core hind with blocked := true } else t)
  | r => r

/-- A stream of a core is offered the issue. -/
def issueTurn (core : Nat) (hind : Bool) (s : State) : Result :=
  if !s.issues core hind then .next { s.offer core hind with blocked := true }
  else trapWaits core hind s (streamTurn core hind s)

end Sys2Proof.Machine
end

