-- ==== Sys2Proof/Machine/Schedule.lean ====
section
/-!
DEFINITION. The order of a run: the agenda first, then by turns an event of the hardware that is due and the next group
of a running stream; and how a single instruction is placed where a step fetches it.
-/

namespace Sys2Proof.Machine

/-! ## Events -/

/-- The rows of the operation table that are events. -/
def isEvent : Instr → Bool
  | .activationDispatch _ | .recordArrival _ | .memoryQueueTakeBack _ | .recordAging _ _ | .sendQueueDepart _ _
  | .multicastAckComplete _ | .mackTokenArrival _ | .dcntArrival _ | .stealRequest _ | .stealAnswer _
  | .stealBackoffExpiry _ | .mxuCommandStart _ | .mxuRowStream _ | .governorWindow _ | .linkRowArrival _
  | .mxuCommandComplete _ | .vectorInstructionComplete _ | .globalLoadReturn _ _ _ | .accessAtHome _ _ _
  | .releaseQueryReply _ | .proposalLockGrant _ _ | .neighbourWriteArrival _ | .dpushGranuleArrival _
  | .bankOperation _ | .pageWalkLevel _ | .cardLeavesFifo _ | .jobEntersInbox _ | .copyGranule _ | .gatherElement _
  | .collectiveGroupExecute _ | .jobRetry _ | .jobComplete _ | .termFire _ _ | .bindRecordWrite _ _ _ _ _
  | .teamUnbind _ _ | .teamMigration _ _ _ _ | .claimRecordArrival _ | .claimDelivery _ _ | .egressSend _
  | .quiescenceSweep _ | .sweepResult _ | .launchEntrySkip _ | .launchEntryRecord _ | .launchEntryHandler _
  | .launchEntryControl _ | .launchEntryScratchpad _ | .launchEntryDram _ | .launchEntryBatchEnd _ | .lchStatRetry _
  | .lchStatSkip _ | .lchTailWrite _ _ | .partSupWrite _ _ | .partQosWrite _ _ | .diePartWrite _ _ _ | .partNinjSend _
  | .deviceRegisterWrite _ _ _ | .heldNoticeDelivery _ | .uncorrectableError _ | .partitionPreempt _ _
  | .partitionReset _ | .deviceInterrupt _ _ | .dieLinkPacketArrival _ _ _ _ _ _ | .fabricRecordArrival _ _ _ _
  | .railLoss _ | .retrainComplete _ | .boundaryDown _ | .retrainRetry _ _ | .boot _ _ | .attestationRequest _
  | .deviceDma _ | .egressSlotControlWrite _ _ | .packageNumberAssignment _ => true
  | _ => false

/-- The events of the hardware at one core. -/
def coreEvents (d : Device) (c : Nat) : List Instr :=
  let x := d.core c
  [.activationDispatch c, .memoryQueueTakeBack c, .stealRequest c, .stealAnswer c, .stealBackoffExpiry c, .mxuCommandStart c,
    .mxuRowStream c, .mxuCommandComplete c, .vectorInstructionComplete c, .releaseQueryReply c, .proposalLockGrant c false,
    .proposalLockGrant c true, .neighbourWriteArrival c, .dpushGranuleArrival c, .cardLeavesFifo c] ++
  (List.range 3).map (.sendQueueDepart c) ++ (List.range 8).map (.termFire c) ++
  (List.range x.dq.waiting.length).map (.recordAging c) ++
  [false, true].flatMap fun h => (List.range (x.outstanding h).length).flatMap fun k => [.globalLoadReturn c h k, .accessAtHome c h k]

/-- The events of the hardware at its lists and tables. -/
def listEvents (d : Device) : List Instr :=
  ((List.range d.flights.length).flatMap fun k => [.recordArrival k, .mackTokenArrival k, .dcntArrival k, .claimRecordArrival k]) ++
  (List.range d.acks.length).map .multicastAckComplete ++ (List.range d.linkFlights.length).map .linkRowArrival ++
  d.bankq.map (fun p => .bankOperation p.1) ++ (List.range d.walks.length).map .pageWalkLevel ++
  ((List.range d.jobs.length).flatMap fun k =>
    [.jobEntersInbox k, .copyGranule k, .gatherElement k, .collectiveGroupExecute k, .jobRetry k, .jobComplete k]) ++
  (d.slots.filter fun p => p.2.clearing).map (fun p => .teamUnbind (p.1 / 256) (p.1 % 256)) ++
  (d.claimq.flatMap fun p => [.claimDelivery p.1 1, .claimDelivery p.1 2, .claimDelivery p.1 3])

/-- The events of dies and launch interfaces, and of the egress queue. -/
def moduleEvents (d : Device) : List Instr :=
  (List.range 8).map .governorWindow ++ (d.launches.flatMap fun p => [.quiescenceSweep p.1, .sweepResult p.1]) ++
  (if d.egressBase.isSome then (List.range 1024).map .egressSend else [])

/-- An event of the hardware: a row of the table at its unit, an entry of a launch queue by its kind, a held notice, or a
message between two dies. -/
inductive Hw
  | row (i : Instr) | entry (kind part : Nat) | held (part : Nat) | packet (src dst : Nat) (p : Packet)
  deriving DecidableEq, Repr

def Hw.run (e : Hw) (s : State) : Result :=
  match e with
  | .row i => exec i s
  | .entry 0 p => execLaunchEntrySkip p s
  | .entry 1 p => execLaunchEntryRecord p s
  | .entry 2 p => execLaunchEntryHandler p s
  | .entry 3 p => execLaunchEntryControl p s
  | .entry 4 p => execLaunchEntryScratchpad p s
  | .entry 5 p => execLaunchEntryDram p s
  | .entry _ p => execLaunchEntryBatchEnd p s
  | .held p => execHeldNoticeDelivery p s
  | .packet src dst p => execDieLinkPacketArrival src dst p.seqNo p.body p.alt 0 s

def hardwareEvents (d : Device) : List Hw :=
  (((d.cores.map (·.1)).filter isCore).flatMap (coreEvents d) ++ listEvents d ++ moduleEvents d).map .row ++
  d.parts.map (fun p => .held p.1) ++
  (d.heldPackets.flatMap fun p => p.2.map fun x => .packet (p.1 / 16) (p.1 % 16) x) ++ d.launches.flatMap fun p => (List.range 7).map fun k => .entry k p.1

/-- An event is due when it changes the device. -/
def State.due (s : State) (e : Hw) : Bool := (stateOf (e.run s) s).dev != s.dev

/-- A list begun at another element. -/
def rotate {α : Type} (l : List α) (k : Nat) : List α := l.drop (k % l.length) ++ l.take (k % l.length)

/-- DESIGN CHOICE, log entry 8. -/
def State.dueEvent (s : State) : Option Hw := (rotate (hardwareEvents s.dev) (s.dev.tick / 2)).find? s.due

/-- The streams that have a group to issue. -/
def State.streams (s : State) : List (Nat × Bool) :=
  ((s.dev.cores.map (·.1)).filter isCore).flatMap fun c => [(c, false), (c, true)].filter fun t => s.issues t.1 t.2

def State.nextStream (s : State) : Option (Nat × Bool) := (rotate s.streams (s.dev.tick / 2)).head?

/-! ## One step -/

/-- Time goes on (R2, R56): how far is not modelled. (DESIGN CHOICE, log entry 2; DESIGN CHOICE, log entry 3.) -/
def State.advance (s : State) : State :=
  s.setDev { s.dev with tick := s.dev.tick + 1, cycle := s.dev.cycle + 1 + Config.extraCycles s.dev.tick }

/-- An entry of the agenda carried out. A die's management core acts once the module has booted: before, and after a failure, its
die is held in reset (R361). (DESIGN CHOICE, log entry 1.) -/
def State.perform (s : State) (a : Act) : Result :=
  match a with
  | .event i => if isEvent i then exec i s else .next { s with blocked := false, took := none }
  | .turn core hind => if isCore core then issueTurn core hind s else .fault .noSuchCore
  | .news n => happen (whenUp fun d => d.hear n) s
  | .mgmt die addr bytes op => happen (whenUp fun d => d.manage die addr bytes op) s

def State.runStream (s : State) : Result :=
  match s.nextStream with
  | some (c, h) => issueTurn c h s
  | none => .next { s with blocked := false, took := none }

def State.runEvent (s : State) : Result :=
  match s.dueEvent with
  | some e => e.run s
  | none => .next { s with blocked := false, took := none }

/-- Without an agenda: at even ticks an event that is due, at odd ticks the next stream; the other where there is none. (DESIGN CHOICE, log entry 2; DESIGN CHOICE, log entry 8.) -/
def State.proceed (s : State) : Result :=
  if s.dev.tick % 2 = 0 then
    (if s.dueEvent.isSome then s.runEvent else s.runStream)
  else (if s.nextStream.isSome then s.runStream else s.runEvent)

/-- DESIGN CHOICE, log entry 1. -/
def stepOnce (s : State) : Result :=
  let t := s.advance
  match s.agenda with
  | a :: rest => State.perform { t with agenda := rest } a
  | [] => t.proceed

/-! ## Placing an instruction -/

/-- A fetch line from its slots and the bits [31:10] of its line word, with the parity that R24 asks for. -/
def makeLine (codes : List Code) (upper : Nat) : Line :=
  let l : Line := BitVec.ofNat 512 (codes.zipIdx.foldl (fun n p => n + p.1.toNat * 2 ^ (96 * p.2)) (upper * 2 ^ 490))
  let parity := (List.range 10).foldl (fun n k => if parityOf l k then n + 2 ^ k else n) 0
  BitVec.ofNat 512 (l.toNat + parity * 2 ^ 480)

/-- The line that holds one word in slot 0, lane 0; the other slots hold `nop` in lane 1 (R15). Its bits [31:10]: lanes
0, 1, 1, 1, 1 and the target bit of slot 0. (DEDUCED, log entry 7.) -/
def wordLine (w : Code) : Line := makeLine [w] (0x1E * 2 ^ 4 + 2 ^ 9)

/-- A line at virtual and physical address 0, and core 0's fore stream about to issue its first group. (DEDUCED, log entry 7.) -/
def State.withLine (s : State) (l : Line) : State :=
  let c := s.dev.core 0
  let t := { c.fore with running := true, ending := false, pc := 0, fetched := none, entering := none, struck := none }
  let c := { c with fore := t, stopped := false, tlb := ⟨0, 0, 0, true, true, true⟩ :: c.tlb, act := c.act.or (some ⟨0, none, false, 0⟩) }
  let d := s.dev.setCore 0 c
  { s with dev := { d with mem := writeBytes d.mem 0 (leBytes 64 l.toNat) }, agenda := [.turn 0 false] }

end Sys2Proof.Machine
end

