-- ==== Sys2Proof/Machine/Step.lean ====
section
/-!
DEFINITION. One step of the machine, and an instruction placed where the next step fetches it.
-/

namespace Sys2Proof.Machine

/-- One step: what the agenda names, or what comes next by itself. -/
def step (s : State) : Host.Outcome State Fault Refusal := stepOnce s

/-- The state in which the next step issues the instruction whose bits are `w`: a word of 12 bytes, in slot 0 of the line
at address 0, on core 0. Bits from `nbits` up are zero. (DEDUCED, log entry 7.) -/
def State.withFetchWord (s : State) (nbits w : Nat) : State := s.withLine (wordLine (BitVec.ofNat 96 (w % 2 ^ nbits)))

end Sys2Proof.Machine
end

