-- ==== Sys2Proof/Safety.lean ====
section
/-!
DEFINITION. The terms of claims: an instruction that completes, traps or waits; the invariants of a step; what a run may
not do.
-/

namespace Sys2Proof.Machine

/-- An instruction that completes: a next state in which no trap was taken and the group did not wait. -/
def Completes (r : Result) (t : State) : Prop := r = .next t ∧ t.took = none ∧ t.blocked = false

/-- An instruction that takes a trap. -/
def Traps (r : Result) (c : Cause) : Prop := ∃ t, r = .next t ∧ t.took = some c

/-- An instruction that waits and issues again (R54). -/
def Waits (r : Result) : Prop := ∃ t, r = .next t ∧ t.blocked = true

/-- Every byte memory of the device is in canonical form: the homes, the management cores' own, and every scratchpad, those
of saved contexts and of teams between two packages included. -/
def Device.wf (d : Device) : Prop :=
  Memory.wf d.mem = true ∧ (∀ p ∈ d.cores, Memory.wf p.2.sp = true) ∧ (∀ x ∈ d.shadow, ∀ p ∈ x.2.cores, Memory.wf p.2.sp = true) ∧
  (∀ x ∈ d.mgmtMem, Memory.wf x.2 = true) ∧ ∀ x ∈ d.travel, ∀ m ∈ x.members, Memory.wf m.2.sp = true

/-- Between two steps no group is half executed (R28). -/
def State.whole (s : State) : Prop := s.pair = none

/-- A step that goes on. -/
def StepsTo (s t : State) : Prop := step s = .next t

/-- An agenda that offers the issue to cores alone; without it a step may stop with `noSuchCore`. -/
def State.agendaOk (s : State) : Prop := ∀ core hind, Act.turn core hind ∈ s.agenda → isCore core = true

/-! ## Operands of a claim -/

/-- Source `a` gives `x`; a queue register is popped in `t` (R17, R54). -/
abbrev Reads (a : Src) (s : State) (x : Word) (t : State) : Prop := readSrc a s = .ok (x, t)

/-- The last source of classes 0 and 4 gives `x`: a register, or I (R33). -/
abbrev ReadsI (a : ISrc) (s : State) (x : Word) (t : State) : Prop := readISrc a s = .ok (x, t)

/-- Destination `d` takes `v`, in `t` (R17, R32, R54). -/
abbrev Writes (d : WDst) (v : Word) (s t : State) : Prop := writeW d v s = .ok ((), t)

/-- A destination that is no window takes `v`, in `t`. -/
abbrev Stores (d : Dst) (v : Word) (s t : State) : Prop := writeDst d v s = .ok ((), t)

/-- The value of a register pair (R55). -/
def State.pairOf (s : State) : PairReg → DWord
  | .even n => s.baseStream.reg (2 * n.val + 1) ++ s.baseStream.reg (2 * n.val)
  | .gz => 0

/-- The last source of a `.d` form: a pair, or SextI (R59). -/
def State.psrcOf (s : State) : PSrc → DWord
  | .reg p => s.pairOf p
  | .imm v => v.signExtend 64

/-- Register `n` of the issuing stream's main file takes `v`. -/
def State.putG (s : State) (n : Nat) (v : Word) : State := s.modStream fun t => t.setReg n v

/-- `SetPair` (R55); gz discards (R63). -/
def State.putPair (s : State) : PairReg → DWord → State
  | .even n, v => (s.putG (2 * n.val) (v.extractLsb' 0 32)).putG (2 * n.val + 1) (v.extractLsb' 32 32)
  | .gz, _ => s

/-- The lane's latch takes a result (R18). -/
def State.latched (s : State) (v : Word) : State := s.modStream fun t => t.setLatch s.issue.lane1.toNat v

/-- A transfer to `pc`: the group there is entered from the issuing group (R29, R70). -/
def State.jumped (s : State) (pc : DWord) : State := s.modStream fun t => { t with pc := pc, entering := some (s.issue.pc, true) }

/-- The rounding mode in force: Q[3:1], or `k.frm` (R66). -/
def State.rmOf (s : State) (rm : Option Rm) : Rm := rm.getD (rmOfBits s.baseCore.cr.frm)

/-- A 32-bit pattern that is a NaN. -/
def isNanWord (x : Word) : Prop := 0x7F800000 < x.toNat % 2 ^ 31

/-! ## Rounding of a claim (R100, R102, R103) -/

/-- The real number that a finite value stands for. -/
def FVal.Is (v : FVal) (x : ℝ) : Prop := ∃ (n : Bool) (m : Nat) (e : Int), v = .fin n m e ∧ x = (if n then -1 else 1) * m * (2 : ℝ) ^ e

/-- `b` is the pattern that a format gives the number `y` (R100). -/
def FFmt.Holds (f : FFmt) (b : Nat) (y : ℝ) : Prop := b < 2 ^ (f.ebits + f.fbits + 1) ∧ (unpack f b).Is y

/-- `y`, of pattern `b`, is the number of the format that a mode takes for `x`: the nearest, of two as near the one of even
significand; the next towards zero, towards +Inf, towards −Inf (R102). -/
def FFmt.Nearest (f : FFmt) (rm : Rm) (x : ℝ) (b : Nat) (y : ℝ) : Prop :=
  f.Holds b y ∧ ∀ c z, f.Holds c z → match rm with
    | .rne => |x - y| ≤ |x - z| ∧ (|x - y| = |x - z| → z ≠ y → b % 2 = 0)
    | .rtz => |y| ≤ |x| ∧ (|z| ≤ |x| → |z| ≤ |y|)
    | .rup => x ≤ y ∧ (x ≤ z → y ≤ z)
    | .rdn => y ≤ x ∧ (z ≤ x → z ≤ y)

/-- Whether a mode never raises a magnitude of this sign (R102). -/
def takesDown (rm : Rm) (neg : Bool) : Bool :=
  match rm with
  | .rne => false
  | .rtz => true
  | .rup => neg
  | .rdn => !neg

/-- Rounded as if the exponent range were unbounded, `x` exceeds the largest finite number (R103). -/
def FFmt.Over (f : FFmt) (rm : Rm) (neg : Bool) (x : ℝ) : Prop :=
  let top : ℝ := 2 ^ ((f.bias : ℤ) + 1); let ulp : ℝ := 2 ^ ((f.bias : ℤ) - f.fbits)
  if rm = .rne then top - ulp / 2 ≤ |x| else if takesDown rm neg then top ≤ |x| else top - ulp < |x|

/-- Rounded so, `x` is below the smallest normal magnitude (R103). -/
def FFmt.Tiny (f : FFmt) (rm : Rm) (neg : Bool) (x : ℝ) : Prop :=
  let low : ℝ := 2 ^ (1 - (f.bias : ℤ)); let ulp : ℝ := 2 ^ (-(f.bias : ℤ) - f.fbits)
  if rm = .rne then |x| < low - ulp / 2 else if takesDown rm neg then |x| < low else |x| ≤ low - ulp

/-- The pattern of the nonzero number `x`, of sign `neg`, rounded once (R102). -/
def FFmt.RoundedTo (f : FFmt) (rm : Rm) (neg : Bool) (x : ℝ) (b : Nat) : Prop :=
  (f.Over rm neg x → b = if takesDown rm neg then f.largest neg else f.inf neg) ∧
  (¬f.Over rm neg x → b / f.signBit = neg.toNat ∧ ∃ y, f.Nearest rm x b y)

/-- The flags of a rounding, `exact` saying that what is delivered is `x` (R103). -/
def FFmt.Flagged (f : FFmt) (rm : Rm) (neg : Bool) (x : ℝ) (exact : Prop) (fl : Flags) : Prop :=
  (f.Over rm neg x → fl = flagOF ||| flagNX) ∧
  (¬f.Over rm neg x → (exact → fl = 0) ∧ (¬exact → f.Tiny rm neg x → fl = flagUF ||| flagNX) ∧ (¬exact → ¬f.Tiny rm neg x → fl = flagNX))

/-- The nonzero number `x`, of sign `neg`, rounded once, with its flags (R102, R103). -/
def FFmt.Rounded (f : FFmt) (rm : Rm) (neg : Bool) (x : ℝ) (r : FRes) : Prop :=
  f.RoundedTo rm neg x r.1 ∧ f.Flagged rm neg x (f.Holds r.1 x) r.2

/-- An integer for `x` by a mode (R102). -/
def RoundsToInt (rm : Rm) (x : ℝ) (z : ℤ) : Prop :=
  match rm with
  | .rne => |x - z| ≤ 1 / 2 ∧ (|x - z| = 1 / 2 → z % 2 = 0)
  | .rtz => z = if x < 0 then ⌈x⌉ else ⌊x⌋
  | .rup => z = ⌈x⌉
  | .rdn => z = ⌊x⌋

/-! ## Memory of a claim -/

/-- `va` translates with access `a` and its place is one that a core may reach (R54, R192); the TLB entry used is in `t`. -/
abbrev Located (va : DWord) (a : Acc) (s : State) (pa : Nat) (t : State) : Prop := globalAddr va a s = .ok (pa, t)

/-- A synchronous access goes to its place: the stream has none outstanding there, and nothing is on its way between the
two dies; what crosses is counted in `t` (R281, R293). -/
abbrev Reached (kind : AccKind) (pa : Nat) (s t : State) : Prop := reach kind pa s = .ok ((), t)

/-- A store or atomic passes what a `fence.rel.stream` before it asks (R92). -/
abbrev Ungated (s t : State) : Prop := fenceGate s = .ok ((), t)

/-- Core `id` may be named by the issuing core: it is of the same partition, or a member moved from another package names
it, whose home package judges the id (R250, R310). -/
def State.mayName (s : State) (id : Nat) : Prop := s.core.home.isSome = true ∨ s.dev.partOfCore id = s.part

/-- A loaded value goes to the registers that `d` names, in `t` (R78, R80). -/
abbrev LoadsInto (d : LdDst) (signed : Bool) (v : Nat) (s t : State) : Prop := writeLoad d signed v s = .ok ((), t)

/-- The data that a store sends (R78). -/
abbrev StoreData (a : StSrc) (s : State) (v : Nat) (t : State) : Prop := readStore a s = .ok (v, t)

/-- A release query of the stream is answered; `t` has the round closed, and `i` is the instance that it was issued with
(R84, R93, R279). -/
abbrev Released (sc : Scope) (s : State) (r : Word) (i : Inst) (t : State) : Prop := releaseQuery sc s = .ok ((r, i), t)

/-- The neighbour and scratchpad offset that a word selects (R76). -/
abbrev NbAt (w n : Nat) (s : State) (nb o : Nat) : Prop := nbAddr w n s = .ok ((nb, o), s)

/-- The neighbour access that a word selects has no neighbour, no visible region, or ends past the region (R76, R190). -/
def NbRefused (w n : Nat) (s : State) (cause : Cause) : Prop :=
  ∃ dir, [Dir.n, .e, .s, .w][w / 2 ^ 30]? = some dir ∧
    match neighbour s.me dir with
    | none => cause = .nopath
    | some nb => match (s.base.core nb).area (w / 2 ^ 26 % 16) with
      | none => cause = .prot
      | some a => a.visible = false ∧ cause = .prot ∨ a.visible = true ∧ a.len < w % 2 ^ 26 + n ∧ cause = .bound

/-- The address of a global form: Pair(A) + SextI (R76). -/
def State.globAddr (s : State) (p : PairReg) (off : Word) : DWord := s.pairOf p + off.signExtend 64

/-- `k.disc` is set where a granule of the span came back empty after a pre-emption (R80, R188). -/
def State.noteGone (s : State) (o n : Nat) : State :=
  s.modCore fun c => if (granules o n).any s.baseCore.spGone.contains then { c with cr := { c.cr with disc := true } } else c

/-- `Draw` of a generator gives `w`: GenOut of its key and counter, or, in tape mode, the word that the tape holds for its index
(R54, R147, R152). -/
def State.Draws (s : State) (g : Gen) (w : Word) : Prop :=
  s.baseCore.cr.rngmode = false ∧ w = genOut g.key g.ctr ∨
  s.baseCore.cr.rngmode = true ∧ ∃ a, s.baseCore.tapeArea = some a ∧ 4 * g.idx.toNat + 4 ≤ a.len ∧
    w = BitVec.ofNat 32 (s.baseCore.spNat (a.base + 4 * g.idx.toNat) 4)

/-- The active lanes have drawn, each of its generator as it stood: its counter and its index have moved on by one (R147, R149). -/
def State.lanesDrawn (s : State) (active : List Bool) : State :=
  { s.modCore fun c => ((List.range active.length).filter fun i => active.getD i false).foldl (fun c i =>
      c.setLane i { c.lane s.me i with ctr := (s.laneCore.lane s.me i).ctr + 1, idx := (s.laneCore.lane s.me i).idx + 1 }) c with
    issue := { s.issue with drew := true } }

/-- The draws `dvs` of the active lanes in ascending order; an inactive lane draws nothing (R149). -/
def State.LaneDraws (s : State) (active : List Bool) (dvs : List Word) : Prop :=
  dvs.length = active.length ∧ ∀ i, i < active.length →
    if active.getD i false then s.Draws (s.laneCore.lane s.me i) (dvs.getD i 0) else dvs.getD i 0 = 0

/-- `Acquire(s)` of an instance by the issuing core, where `b` holds (R287). -/
def State.acquired (s : State) (b : Bool) (i : Inst) : State := if b then s.setDev (s.dev.acquire s.me i) else s

/-- `Acquire(s)` of an instance goes on: the write-backs of its lines reach their homes at once (the model's choice: log entry
61). -/
def State.mayAcquire (s : State) (i : Inst) : Prop := s.dev.backsReady (pkgCluster s.me) (s.dev.sharedLines s.me i) = true

/-- An access that acts as outside a region: none is open, or the region has failed and the access is one that it admits (R216). -/
def State.outside (s : State) (va : DWord) (plain : Bool) : Prop :=
  s.stream.region.st = .closed ∨ (s.stream.region.st = .failed ∧ plain = true ∧ s.proposalVa va = true)

/-- PREGION with the value `v` for an access at `va`: in a region, what is not plain or not of a proposal line; in post-draw state
every access, with 1 (R216, R220). -/
def State.barred (s : State) (va : DWord) (plain : Bool) (v : DWord) : Prop :=
  (s.stream.region.st = .opened ∨ s.stream.region.st = .failed) ∧ ¬(plain = true ∧ s.proposalVa va = true) ∧ v = va ∨
  s.stream.region.st = .postDraw ∧ v = 1

/-- The virtual address of byte `b`, where `va` is that of byte `pa`. -/
def besideVa (va : DWord) (pa b : Nat) : DWord := va - BitVec.ofNat 64 pa + BitVec.ofNat 64 b

/-- The order, scope, address and width of an atomic, and the sources that it reads one by one (R91). -/
def atomShape : Instr → Option (Ord3 × Scope × PairReg × Nat × List Src)
  | .amoAdd f | .amoMin f | .amoMax f | .amoAnd f | .amoOr f | .amoXor f | .amoSwap f =>
    match f.args with
    | .w _ a b => some (f.ord, f.scope, a, 4, [b])
    | .d _ a _ => some (f.ord, f.scope, a, 8, [])
  | .cas f =>
    match f.args with
    | .w _ a b c => some (f.ord, f.scope, a, 4, [b, c])
    | .d _ a _ _ => some (f.ord, f.scope, a, 8, [])
  | _ => none

/-- Sources are read in turn, in `t`. -/
def ReadsAll : List Src → State → State → Prop
  | [], s, t => t = s
  | a :: l, s, t => ∃ x u, Reads a s x u ∧ ReadsAll l u t

/-- The instance of a scope for the issuing stream now (R278). -/
def State.scopeInst (s : State) (sc : Scope) : Inst := s.dev.instOf s.me s.hind sc

/-- What comes before an atomic of an order and scope: a release, with the query's instance, where the order releases
(R91, R279). -/
def Ordered (ord : Ord3) (sc : Scope) (s : State) (i : Inst) (t : State) : Prop :=
  (ord = .rel ∨ ord = .ar) ∧ (∃ r, Released sc s r i t) ∨ (ord = .relaxed ∨ ord = .acq) ∧ i = s.scopeInst sc ∧ t = s

/-- What a load asks for: its mode, whether it extends the sign, its destination, and its address (R75 to R79). -/
def loadShape : Instr → Option (LdMode × Bool × LdDst × Base × Word)
  | .ld f => some (.plain, false, f.d, f.base, f.off)
  | .lds f => some (.plain, true, .sub (if f.half then .h else .b) f.d, f.base, f.off)
  | .ldAcq f sc => some (.acq sc, false, f.d, f.base, f.off)
  | .ldVol f => some (.vol, false, f.d, f.base, f.off)
  | .ldTake f => some (.take, false, f.d, f.base, f.off)
  | .ldWait f => some (.wait, false, f.d, f.base, f.off)
  | _ => none

/-- The forms of classes 0 and 4 but `kmov`. -/
def wordForm : Instr → Bool
  | .add _ | .sub _ | .adds _ | .subs _ | .mul _ | .min _ | .max _ | .minu _ | .maxu _
  | .and _ | .or _ | .xor _ | .andn _ | .shl _ | .shr _ | .sra _ | .rol _
  | .mulh _ | .mulhu _ | .div _ | .divu _ | .rem _ | .remu _ | .clz _ | .ctz _ | .popc _ | .bfx _ | .bfi _
  | .seq _ | .sne _ | .slt _ | .sge _ | .sltu _ | .sgeu _ | .sel _ | .lea _ | .chkb _ | .mov _ | .kget _ | .nop
  | .fadd _ | .fsub _ | .fmul _ | .fma _ | .fms _ | .fdiv _ | .fsqrt _ | .fmin _ | .fmax _ | .fabs _ | .fneg _ | .feq _ | .flt _
  | .fle _ | .fcvtI32F32 _ | .fcvtU32F32 _ | .fcvtF32I32 _ | .fcvtF32U32 _ | .fclass _ => true
  | _ => false

/-- The neighbour's window that a form of classes 0 and 4 but `kmov` names as its destination (R32). -/
def windowOfForm : Instr → Option Dir
  | .add (.w d _ _) | .sub (.w d _ _) | .adds (.w d _ _) | .subs (.w d _ _) | .mul (.w d _ _) | .min (.w d _ _) | .max (.w d _ _)
  | .minu (.w d _ _) | .maxu (.w d _ _) | .and (.w d _ _) | .or (.w d _ _) | .xor (.w d _ _) | .andn (.w d _ _) | .shl (.w d _ _)
  | .shr (.w d _ _) | .sra (.w d _ _) | .rol (.w d _ _) | .mulh ⟨d, _, _⟩ | .mulhu ⟨d, _, _⟩ | .div ⟨d, _, _⟩ | .divu ⟨d, _, _⟩
  | .rem ⟨d, _, _⟩ | .remu ⟨d, _, _⟩ | .clz ⟨d, _⟩ | .ctz ⟨d, _⟩ | .popc ⟨d, _⟩ | .bfx ⟨d, _, _, _⟩ | .bfi ⟨d, _, _, _⟩
  | .seq (.w d _ _) | .sne (.w d _ _) | .slt (.w d _ _) | .sge (.w d _ _) | .sltu (.w d _ _) | .sgeu (.w d _ _)
  | .seq (.d d _ _) | .sne (.d d _ _) | .slt (.d d _ _) | .sge (.d d _ _) | .sltu (.d d _ _) | .sgeu (.d d _ _)
  | .sel ⟨d, _, _, _⟩ | .lea (.w d _ _ _ _) | .mov (.w d _) | .kget (.w d _)
  | .fadd ⟨d, _, _, _⟩ | .fsub ⟨d, _, _, _⟩ | .fmul ⟨d, _, _, _⟩ | .fdiv ⟨d, _, _, _⟩ | .fma ⟨d, _, _, _⟩ | .fms ⟨d, _, _, _⟩
  | .fsqrt ⟨d, _, _⟩ | .fcvtI32F32 ⟨d, _, _⟩ | .fcvtU32F32 ⟨d, _, _⟩ | .fcvtF32I32 ⟨d, _, _⟩ | .fcvtF32U32 ⟨d, _, _⟩
  | .fmin ⟨d, _, _⟩ | .fmax ⟨d, _, _⟩ | .feq ⟨d, _, _⟩ | .flt ⟨d, _, _⟩ | .fle ⟨d, _, _⟩
  | .fabs ⟨d, _⟩ | .fneg ⟨d, _⟩ | .fclass ⟨d, _⟩ => match d with
    | .win dir _ _ => some dir
    | .reg _ => none
  | _ => none

/-- R187: whether the value of region register `n` is admitted: it describes no region, or one within the scratchpad below the queue
image that overlaps no other and is not a second tape. -/
def Core.mayDescribe (c : Core) (n : Nat) (v : DWord) : Prop :=
  v.getLsbD 41 = true →
    (bits v 63 42 = 0 ∧ bits v 17 0 % 16 = 0 ∧ bits v 35 18 ≠ 0 ∧ bits v 35 18 % 16 = 0 ∧ bits v 17 0 + bits v 35 18 ≤ 0x2FE00 ∧
      ¬(v.getLsbD 36 = true ∧ v.getLsbD 37 = true)) ∧
    ∀ m, m < 16 → m ≠ n → (c.cr.reg? m).getLsbD 41 = true →
      (bits (c.cr.reg? m) 17 0 + bits (c.cr.reg? m) 35 18 ≤ bits v 17 0 ∨ bits v 17 0 + bits v 35 18 ≤ bits (c.cr.reg? m) 17 0) ∧
      ¬(v.getLsbD 40 = true ∧ (c.cr.reg? m).getLsbD 40 = true)

/-- The instructions that can change a byte at its home when they issue. -/
def reachesHome : Instr → Bool
  | .ld _ | .lds _ | .ldAcq _ _ | .ldVol _ | .ldTake _ | .ldWait _ | .stRel _ _ | .pf _ | .rwb _ | .rinv _ | .rinvChk _
  | .tlbprb _ | .cobj _ | .cfree _ | .amoAdd _ | .amoMin _ | .amoMax _ | .amoAnd _ | .amoOr _ | .amoXor _ | .amoSwap _ | .cas _
  | .fenceAcq _ | .fenceRel _ | .fenceAr _ | .relq _ _ | .pcom _ => true
  | _ => false

/-! ## Rows of a claim -/

/-- `m` runs to its end from `s`, in `t`: it neither traps nor waits. -/
abbrev Performs (m : Exec Unit) (s t : State) : Prop := m s = .ok ((), t)

/-- A vector source gives the containers `l`, in `t` (R124, R125). -/
abbrev VReads (acct : Bool) (a : VSrc) (i : Word) (s : State) (l : List Nat) (t : State) : Prop := readVec acct a i s = .ok (l, t)

/-- Containers go to the active elements of a destination, in `t` (R131, R133). -/
abbrev VWrites (acct : Bool) (ty : VTy) (d : VDst) (i : Word) (active : List Bool) (vals : List Nat) (bad : Bool) (s t : State) : Prop :=
  writeVec acct ty d i active vals bad s = .ok ((), t)

/-- `k.acct`, read at issue. -/
def State.acct (s : State) : Bool := s.baseCore.cr.acct

/-- The containers of row `n`, read at issue. -/
def State.rowVals (s : State) (n : Nat) : List Nat := containers s.acct (s.baseCore.row s.me n)

/-- The active elements under a predicate: those whose container is not zero (R131). -/
def State.activeElems (s : State) : Option (Fin 128) → List Bool
  | none => List.replicate (contN s.acct) true
  | some p => (s.rowVals p.val).map (· != 0)

/-- No command queued before the group names the accumulator of one of these rows (R28, R126). -/
def State.rowsFree (s : State) (rows : List Nat) : Prop := ∀ r ∈ rows, s.baseCore.mxu.namesAcc (r / 64) = false

/-- Some row of these is poisoned (R339). -/
def State.anyBad (s : State) (rows : List Nat) : Bool := rows.any s.baseCore.rowBad

/-- A vector instruction is under way (R129). -/
def State.vectorNoted (s : State) : State := s.modCore fun c => { c with vecBusy := c.vecBusy + 1 }

/-- Row `n` of the issuing core takes containers at the active elements (R131, R338). -/
def State.putRow (s : State) (n : Nat) (active : List Bool) (vals : List Nat) (bad : Bool) : State :=
  s.modCore fun c => c.setRow n
    (rowOf s.acct (((containers s.acct (c.row s.issue.core n)).zip (active.zip vals)).map fun p => if p.2.1 then p.2.2 else p.1))
    (bad || (c.rowBad n && !active.all id))

/-! ## Queues of a claim -/

/-- What a full queue of a network does to a form that would enter it (R241). -/
def FullQueue (f : Full) (net : Nat) (i : Instr) (s u : State) : Prop :=
  let l := u.core.netQueue net
  let mine := ∀ e ∈ l, e.held = true ∧ e.byTrap = u.core.susp.isSome
  8 ≤ l.length →
    (∀ d t, f = .busy d → Stores d 1 u t → exec i s = .next t) ∧
    (f = .trap ∨ f = .stall ∧ mine → exec i s = .next (s.takeTrap .sendfull s.issue.pc (BitVec.ofNat 64 net))) ∧
    (f = .stall → ¬mine → exec i s = .next (s.waitWith id))

/-- A command enters the MXU queue (R166). -/
def State.queued (s : State) (m : MxCmd) : State := s.modCore fun c => c.queueCmd m

/-- No MXU command queued before the group names the tile (R28, R158). -/
def State.tileFree (s : State) (t : Nat) : Prop := s.baseCore.mxu.namesTile t = false

/-- The shape register of a tile, read at issue (R157). -/
def State.shapeWord (s : State) (t : Nat) : Word := FMap.get s.baseCore.cr.tshp t 0

/-- A form that moves a tile, an exponent vector or an accumulator between its registers, which no queued command holds, and `n`
bytes at an offset: whether it clears full bits, and whether it stores (R173). -/
def State.tileMove (s : State) (i : Instr) (a : Src) (off : Word) (n : Nat) (take store : Bool) : Prop :=
  let bytes (t : Nat) (n : Nat) : Prop := let h := shapeOf (s.shapeWord t); shapeOk (s.shapeWord t) = true ∧ n = h.rows * h.cols * h.b
  (∃ t, i = .tld ⟨t, a, off, take⟩ ∧ store = false ∧ bytes t.val n ∧ s.tileFree t.val) ∨
  (∃ t, i = .texp ⟨t, a, off, take⟩ ∧ store = false ∧ n = 64 ∧ s.tileFree t.val) ∨
  (∃ t fill, i = .tst ⟨a, .tile t, off, fill⟩ ∧ take = false ∧ store = true ∧ bytes t.val n ∧ s.tileFree t.val) ∨
  (∃ (k : Fin 2) (fill : Bool), i = .tst ⟨a, .acc k, off, fill⟩ ∧ take = false ∧ store = true ∧ n = 32768 ∧ s.rowsFree [64 * k.val])

/-- The full bits of a span cleared where `b` holds. -/
def State.taken (s : State) (b : Bool) (o n : Nat) : State := if b then s.modCore fun c => c.setFull o n false else s

/-- An entry goes behind the others of a send queue (R241). -/
def State.enqueued (s : State) (net : Nat) (e : SendEntry) : State :=
  s.modCore fun c => c.setNetQueue net (s.core.netQueue net ++ [e])

/-- The answer of a `.b` form, in `t`; the others answer nothing (R241, R265). -/
abbrev Answers (f : Full) (v : Word) (s t : State) : Prop := writeBusy f v s = .ok ((), t)

/-- What a send puts into its queue: a message for `dsts`, held until the activation ends (R241, R328). -/
def State.heldEntry (s : State) (kind : MsgKind) (m : Line) (dsts : List Nat) (ack : Option Nat) : SendEntry :=
  ⟨kind, m, dsts, true, s.core.susp.isSome, ack, false, none⟩

/-- An address of a card that R267 allows in its space: aligned; in a scratchpad, of its form, within it and of the
issuing die; in DRAM, within rows of one kind of the die. A member moved from another package reaches scratchpads alone
(R310). -/
def State.placeOk (s : State) (code : Nat) (a : DWord) (n : Nat) : Prop :=
  a.toNat % 16 = 0 ∧
  (code = 1 → bits a 31 18 = 0 ∧ bits a 63 48 = 0 ∧ bits a 17 0 + n ≤ spSize (bits a 47 32) ∧
    ∃ j, s.named (bits a 47 32) = some j ∧ dieOf j = dieOf s.me) ∧
  (code ≠ 1 → s.core.home = none) ∧ (code = 2 → dramOnDie (dieOf s.me) a.toNat n = true)

/-- The footprint of such an address (R266). -/
def State.footOf (s : State) (code : Nat) (a : DWord) (n : Nat) : Foot :=
  ⟨if code = 0 then .glob else if code = 1 then .sp ((s.named (bits a 47 32)).getD 0) else .dram,
    if code = 1 then bits a 17 0 else a.toNat, n⟩

/-- Trap handling has started in `t` on a core, from the device `d` that its group left or found (R327); a stream to which a
poisoned load has come back is kept at that load's group (R329; DEDUCED, log entry 10). -/
def Entered (d : Device) (t : State) (id : Nat) (hind : Bool) (c : Cause) (epc tval : DWord) : Prop :=
  let k := d.core id
  let k' := t.dev.core id
  t.took = some c ∧ t.blocked = false ∧
  k'.cr = { k.cr with cause := BitVec.ofNat 9 (causeCode c + 256 * hind.toNat), epc := epc, tval := tval, priv := true } ∧
  k'.fore.running = true ∧ k'.fore.pc = (k.handler 255).pc.signExtend 64 ∧ k'.hind.running = false ∧ k'.stopped = k.stopped ∧
  (∀ h n, (k'.stream h).reg n = 0 ∧ (k'.stream h).opReg n = 0 ∧ (k'.stream h).latch n = 0) ∧
  (∃ p, k'.susp = some p ∧ p.act = k.act ∧ p.priv = k.cr.priv ∧ (∃ a, k'.act = some a ∧ a.handling = true) ∧
    ∀ h, let x := if h then p.hind else p.fore
      x.pc = (match (k.stream h).struck with
        | some (pc, _) => pc
        | none => (k.stream h).pc) ∧ x.struck = none ∧ x.running = (k.stream h).running ∧ x.g = (k.stream h).g ∧ x.o = (k.stream h).o ∧ x.x = (k.stream h).x ∧
      x.acc = (k.stream h).acc ∧ x.region = { (k.stream h).region with
        pass := none, st := if (k.stream h).region.post.isSome then .postDraw else (k.stream h).region.st }) ∧
  k'.rows = k.rows ∧ k'.tiles = k.tiles ∧ k'.queues = k.queues ∧ k'.sp = k.sp ∧ k'.spFull = k.spFull ∧ k'.mxu = k.mxu ∧ k'.fifo = k.fifo ∧
  k'.sendq = k.sendq ∧ t.dev.mem = d.mem ∧ ∀ j, j ≠ id → t.dev.core j = d.core j

/-- A waiting record that an arrival of the same handler and key may fold into, and that it fits (R242, R256, R258). -/
def Waiting.takes (w : Waiting) (e : HEntry) (r : Line) : Prop :=
  e.op ≠ 0 ∧ w.claim = 0 ∧ recHandler w.r = recHandler r ∧ recKey w.r = recKey r ∧ w.folds < 2 ^ 32 - 1 ∧ (fold e w r).isSome = true

/-- Message `k` on its way may be delivered: none before it has its source, destination and network, and the partition that
it stays within is in place, unless it goes on to another package (R249, R310, R344). -/
def Deliverable (d : Device) (k : Nat) (f : Flight) : Prop :=
  d.flights[k]? = some f ∧ (∀ j g, j < k → d.flights[j]? = some g → ¬(g.src = f.src ∧ g.dst = f.dst ∧ g.net = f.net)) ∧
  (f.abroad ≠ 0 ∨ d.partOfCore f.dst = f.part)

/-- The sixteen registers of a record, as they are (R240). -/
def State.recordOf (s : State) (regs : Nat) : Line :=
  BitVec.ofNat 512 (wordsNat ((List.range 16).map fun j => s.baseStream.reg (16 * regs + j)))

/-- A record may leave on the request network: the activation was not started by a reply (R240). -/
def State.mayRequest (s : State) : Prop := ∀ a, s.core.act = some a → recNet a.r ≠ 1

/-- The proposal region of the issuing stream replaced. -/
def State.withRegion (s : State) (r : Region) : State := s.modStream fun t => { t with region := r }

/-- A region closed with its last outcome (R224). -/
def closedWith (last : Nat) : Region := ⟨.closed, [], [], none, none, last, none⟩

/-- What a `pcom` leaves but for D: its locks released, its region closed, its flags raised (R217). -/
def State.committed (s : State) (last : Nat) (fl : Flags) : State :=
  ((s.setDev (s.dev.releaseLocks (s.dev.lockName s.me s.hind))).withRegion (closedWith last)).raise fl

end Sys2Proof.Machine
end

