-- ==== Sys2Proof/Certificates/Slice0/Obligations.lean ====
section
/-!
DEFINITION. The statements for the provers, from the numbered rules of the manual. A table of constructors at the head of
a statement names the instructions that it is about.
-/

open Sys2Proof Sys2Proof.Machine

/-! ## Class 0 -/

/-- R59 (with R18, R33, R55): the three-operand forms that have a `.d` form. Each computes r from its sources at its width, writes
it to its destination, and writes the low word to its lane's latch. R59, R60: the products' high words, and division: truncating,
with b = 0 and the overflow case as R60 gives them. R59: the compares write the word 1 or 0; their `.d` forms compare pairs.
(Which source takes the older entry where two name one queue register is the model's choice: log entry 81; that a `.d` form takes
gz as a destination, and discards both words, is read by inference: log entry 16.) -/
def Obligations.IntegerArithmetic : Prop :=
  (∀ row ∈ ([(Instr.add, fun _ a b => a + b),
      (Instr.sub, fun _ a b => a - b),
      (Instr.adds, fun w a b => BitVec.ofInt w (max (-(2 ^ (w - 1))) (min (2 ^ (w - 1) - 1) (a.toInt + b.toInt)))),
      (Instr.subs, fun w a b => BitVec.ofInt w (max (-(2 ^ (w - 1))) (min (2 ^ (w - 1) - 1) (a.toInt - b.toInt)))),
      (Instr.mul, fun _ a b => a * b),
      (Instr.min, fun _ a b => if a.toInt ≤ b.toInt then a else b),
      (Instr.max, fun _ a b => if a.toInt ≤ b.toInt then b else a),
      (Instr.minu, fun _ a b => if a.toNat ≤ b.toNat then a else b),
      (Instr.maxu, fun _ a b => if a.toNat ≤ b.toNat then b else a),
      (Instr.and, fun _ a b => a &&& b),
      (Instr.or, fun _ a b => a ||| b),
      (Instr.xor, fun _ a b => a ^^^ b),
      (Instr.andn, fun _ a b => a &&& ~~~b),
      (Instr.shl, fun w a b => a <<< (b.toNat % w)),
      (Instr.shr, fun w a b => a >>> (b.toNat % w)),
      (Instr.sra, fun w a b => a.sshiftRight (b.toNat % w)),
      (Instr.rol, fun w a b => a.rotateLeft (b.toNat % w))]
      : List ((Int3 → Instr) × ((w : Nat) → BitVec w → BitVec w → BitVec w))),
    (∀ d a b x y s s1 s2 s3, Reads a s.begin x s1 → ReadsI b s1 y s2 → Writes d (row.2 32 x y) s2 s3 →
      exec (row.1 (.w d a b)) s = .next (s3.latched (row.2 32 x y))) ∧
    (∀ d a b s, let r := row.2 64 (s.begin.pairOf a) (s.begin.psrcOf b)
      exec (row.1 (.d d a b)) s = .next ((s.begin.putPair d r).latched (r.extractLsb' 0 32)))) ∧
  (∀ row ∈ ([(Instr.mulh, fun a b => (a.signExtend 64 * b.signExtend 64).extractLsb' 32 32),
      (Instr.mulhu, fun a b => (a.setWidth 64 * b.setWidth 64).extractLsb' 32 32),
      (Instr.div, fun a b => if b = 0 then 0xFFFFFFFF else if a = 0x80000000 ∧ b = 0xFFFFFFFF then 0x80000000
        else BitVec.ofInt 32 (a.toInt.tdiv b.toInt)),
      (Instr.divu, fun a b => if b = 0 then 0xFFFFFFFF else BitVec.ofNat 32 (a.toNat / b.toNat)),
      (Instr.rem, fun a b => if b = 0 then a else if a = 0x80000000 ∧ b = 0xFFFFFFFF then 0
        else BitVec.ofInt 32 (a.toInt - b.toInt * a.toInt.tdiv b.toInt)),
      (Instr.remu, fun a b => if b = 0 then a else a - BitVec.ofNat 32 (b.toNat * (a.toNat / b.toNat)))]
      : List ((Int3W → Instr) × (Word → Word → Word))),
    ∀ d a b x y s s1 s2 s3, Reads a s.begin x s1 → ReadsI b s1 y s2 → Writes d (row.2 x y) s2 s3 →
      exec (row.1 ⟨d, a, b⟩) s = .next (s3.latched (row.2 x y))) ∧
  (∀ row ∈ ([(Instr.seq, fun _ a b => a = b), (Instr.sne, fun _ a b => a ≠ b),
      (Instr.slt, fun _ a b => a.toInt < b.toInt), (Instr.sge, fun _ a b => b.toInt ≤ a.toInt),
      (Instr.sltu, fun _ a b => a.toNat < b.toNat), (Instr.sgeu, fun _ a b => b.toNat ≤ a.toNat)]
      : List ((Cmp → Instr) × ((w : Nat) → BitVec w → BitVec w → Prop))),
    ∀ r : Word,
    (∀ d a b x y s s1 s2 s3, Reads a s.begin x s1 → ReadsI b s1 y s2 → (r = 1 ∧ row.2 32 x y ∨ r = 0 ∧ ¬row.2 32 x y) →
      Writes d r s2 s3 → exec (row.1 (.w d a b)) s = .next (s3.latched r)) ∧
    (∀ d a b s t, (r = 1 ∧ row.2 64 (s.begin.pairOf a) (s.begin.psrcOf b) ∨ r = 0 ∧ ¬row.2 64 (s.begin.pairOf a) (s.begin.psrcOf b)) →
      Writes d r s.begin t → exec (row.1 (.d d a b)) s = .next (t.latched r)))

/-- R59, R61: leading zeros, trailing zeros and ones of a, and the field that `bfx` extracts, bit by bit. R61: `bfi`
replaces the field of the destination's old value and keeps every other bit; the destination is read first. -/
def Obligations.BitCountsAndFields : Prop :=
  (∀ row ∈ ([(Instr.clz, fun a r => (a = 0 ∧ r = 32) ∨ (r.toNat < 32 ∧ a.getLsbD (31 - r.toNat) = true ∧
        ∀ i, 31 - r.toNat < i → a.getLsbD i = false)),
      (Instr.ctz, fun a r => (a = 0 ∧ r = 32) ∨ (r.toNat < 32 ∧ a.getLsbD r.toNat = true ∧
        ∀ i, i < r.toNat → a.getLsbD i = false)),
      (Instr.popc, fun a r => r.toNat = (List.range 32).countP a.getLsbD)]
      : List ((Int2W → Instr) × (Word → Word → Prop))),
    ∀ f x s s1, Reads f.a s.begin x s1 → ∃ r, row.2 x r ∧ ∀ s2, Writes f.d r s1 s2 → exec (row.1 f) s = .next (s2.latched r)) ∧
  (∀ (f : BitField) x s s1, f.pos.val + f.len1.val < 32 → Reads f.a s.begin x s1 →
    ∃ r : Word, (∀ i, r.getLsbD i = (decide (i ≤ f.len1.val) && x.getLsbD (f.pos.val + i))) ∧
      ∀ s2, Writes f.d r s1 s2 → exec (.bfx f) s = .next (s2.latched r)) ∧
  (∀ (f : BitField) d x s s1 s2, f.pos.val + f.len1.val < 32 → f.d.readable = true → readWDst f.d s.begin = .ok (d, s1) →
    Reads f.a s1 x s2 →
    ∃ r : Word, (∀ i, r.getLsbD i = if f.pos.val ≤ i ∧ i ≤ f.pos.val + f.len1.val then x.getLsbD (i - f.pos.val) else d.getLsbD i) ∧
      ∀ s3, Writes f.d r s2 s3 → exec (.bfi f) s = .next (s3.latched r))

/-- R59, R62, R63: `sel`, `lea`, `mov` with their `.d` forms, `nop`, and `chkb` where its check passes. R62: `chkb a, b` with a ≥
b unsigned raises BOUND with a, and its group has no effect. (Which source takes the older entry where two name one queue register
is the model's choice: log entry 81; that `lea.d` and `mov.d` take gz as a destination, and discard both words, is read by
inference: log entry 16.) -/
def Obligations.SelectAddressMoveCheck : Prop :=
  (∀ f x y z s s1 s2 s3 s4, Reads f.a s.begin x s1 → Reads f.b s1 y s2 → Reads f.c s2 z s3 →
    Writes f.d (if z ≠ 0 then x else y) s3 s4 → exec (.sel f) s = .next (s4.latched (if z ≠ 0 then x else y))) ∧
  (∀ d a b (n : Fin 8) off x y s s1 s2 s3, Reads a s.begin x s1 → Reads b s1 y s2 →
    Writes d (x + (y <<< n.val) + off) s2 s3 → exec (.lea (.w d a b n off)) s = .next (s3.latched (x + (y <<< n.val) + off))) ∧
  (∀ d a b (n : Fin 8) off y s s1, Reads b s.begin y s1 →
    let r := s.begin.pairOf a + (y.signExtend 64 <<< n.val) + off.signExtend 64
    exec (.lea (.d d a b n off)) s = .next ((s1.putPair d r).latched (r.extractLsb' 0 32))) ∧
  (∀ d a x s s1 s2, ReadsI a s.begin x s1 → Writes d x s1 s2 → exec (.mov (.w d a)) s = .next (s2.latched x)) ∧
  (∀ d a s, exec (.mov (.d d a)) s =
    .next ((s.begin.putPair d (s.begin.psrcOf a)).latched ((s.begin.psrcOf a).extractLsb' 0 32))) ∧
  (∀ s, exec .nop s = .next s.begin) ∧
  (∀ f x y s s1 s2, Reads f.a s.begin x s1 → ReadsI f.b s1 y s2 → x.toNat < y.toNat →
    exec (.chkb f) s = .next (s2.latched x)) ∧
  (∀ f x y s s1 s2, Reads f.a s.begin x s1 → ReadsI f.b s1 y s2 → y.toNat ≤ x.toNat →
    exec (.chkb f) s = .next (s.takeTrap .bound s.issue.pc (x.setWidth 64)))

/-- R38, R63 (with R37, R39): `kmov` and `kget` of a register that the core has and the privilege admits. `kmov`
writes the register and sends its new value's low word to the latch; `kget` reads it. R38: outside a privileged
activation a `kmov` to a register marked P raises PRIV with the slot's PC, and has no effect. R37, R38: a register of
width w takes the low w bits of a write, reads them back, and no other control register changes. R38: a write of
`k.mxbud` above 128 stores 128 (that it stores at most the partition's governor share is read from R349 by inference: log
entry 33). A write of `k.fflags` is read back with the flags that the group raises, as R64 says (that R103's last sentence
does not clear them, and which value is latched, is the model's choice: log entry 99). R186, R187: a region register takes
every bit of a value that describes no region or an admitted one, and raises ILLOP with the slot's PC for any other. -/
def Obligations.ControlRegisters : Prop :=
  (∀ (k : Fin 43) (s : State), (isMoraine s.me = true → moraineK k.val = true) →
    (∀ d s1, Writes d ((s.begin.readK k.val).extractLsb' 0 32) s.begin s1 →
      exec (.kget (.w d k)) s = .next (s1.latched ((s.begin.readK k.val).extractLsb' 0 32))) ∧
    (∀ n, exec (.kget (.d n k)) s =
      .next ((s.begin.putPair (.even n) (s.begin.readK k.val)).latched ((s.begin.readK k.val).extractLsb' 0 32))) ∧
    ((k.val ∈ [4, 9, 12, 13, 14, 40] → s.begin.baseCore.cr.priv = true) →
      (∀ a x s1, ReadsI a s.begin x s1 →
        (∀ t, s1.writeK k.val (x.setWidth 64) = some t →
          exec (.kmov (.w k a)) s = .next (t.latched ((State.readK { t with pair := none } k.val).extractLsb' 0 32))) ∧
        (s1.writeK k.val (x.setWidth 64) = none → exec (.kmov (.w k a)) s = .next (s.takeTrap .illop s.issue.pc s.issue.slotPc))) ∧
      (∀ (a : KSrc) (x : DWord), (∃ n, a = .reg n ∧ x = s.begin.pairOf (.even n)) ∨ (∃ v, a = .imm v ∧ x = v.signExtend 64) →
        (∀ t, s.begin.writeK k.val x = some t →
          exec (.kmov (.d k a)) s = .next (t.latched ((State.readK { t with pair := none } k.val).extractLsb' 0 32))) ∧
        (s.begin.writeK k.val x = none → exec (.kmov (.d k a)) s = .next (s.takeTrap .illop s.issue.pc s.issue.slotPc))))) ∧
  (∀ (f : KmovOp) (k : Fin 43) (s : State), (∃ a, f = .w k a) ∨ (∃ a, f = .d k a) →
    k.val ∈ [4, 9, 12, 13, 14, 40] → (isMoraine s.me = true → moraineK k.val = true) → s.begin.baseCore.cr.priv = false →
    exec (.kmov f) s = .next (s.takeTrap .priv s.issue.pc s.issue.slotPc)) ∧
  (∀ (s : State) (v : DWord) (k : Nat) (x : DWord), s.pair = none →
    (∃ row ∈ ([(0, 2), (2, 8), (3, 1), (5, 32), (6, 1), (7, 32), (8, 1), (9, 32), (10, 1), (12, 9), (13, 64), (14, 64), (16, 32),
        (17, 32), (18, 32), (19, 32), (20, 32), (21, 32), (22, 32), (23, 32), (40, 52)] : List (Nat × Nat)),
        k = row.1 ∧ x = BitVec.ofNat 64 (v.toNat % 2 ^ row.2)) ∨
      (k = 4 ∧ x = BitVec.ofNat 64 (min (min v.toNat 128) (s.dev.governor (s.dev.partOfCore s.me)))) ∨
      (k = 1 ∧ x = (v.setWidth 5 ||| s.issue.raised).setWidth 64) ∨
      (∃ n, n < 16 ∧ k = 24 + n ∧ x = v ∧ s.core.mayDescribe n v) →
    ∃ t, s.writeK k v = some t ∧ t.readK k = x ∧ ∀ j, j < 43 → j ≠ k → t.readK j = s.readK j) ∧
  (∀ (s : State) (v : DWord) n, s.pair = none → n < 16 → ¬s.core.mayDescribe n v → s.writeK (24 + n) v = none)

/-! ## Class 4 -/

/-- R66: the rounding forms compute an exact value, deliver it rounded once by the mode in force, and raise its
flags. (Which source takes the older entry where two name one queue register is the model's choice: log entry 81.) -/
def Obligations.FloatArithmetic : Prop :=
  (∀ row ∈ ([(Instr.fadd, fun m a b => addVal m a b), (Instr.fsub, fun m a b => addVal m a (negVal b)),
      (Instr.fmul, fun _ a b => mulVal a b), (Instr.fdiv, fun _ a b => divVal a b)]
      : List ((F3R → Instr) × (Rm → FVal → FVal → FExact))),
    ∀ f x y s s1 s2 s3, Reads f.a s.begin x s1 → ReadsI f.b s1 y s2 →
      let r := deliver fp32 (s.begin.rmOf f.rm) (row.2 (s.begin.rmOf f.rm) (f32 x) (f32 y))
      Writes f.d (BitVec.ofNat 32 r.1) (s2.raise r.2) s3 → exec (row.1 f) s = .next (s3.latched (BitVec.ofNat 32 r.1))) ∧
  (∀ row ∈ ([(Instr.fma, fun x => x), (Instr.fms, negVal)] : List ((F3R → Instr) × (FVal → FVal))),
    ∀ f z x y s s1 s2 s3 s4, readWDst f.d s.begin = .ok (z, s1) → Reads f.a s1 x s2 → ReadsI f.b s2 y s3 →
      let m := s.begin.rmOf f.rm
      let p := mulVal (row.2 (f32 x)) (f32 y)
      let q := addVal m (f32 z) p.1
      let r := deliver fp32 m (q.1, p.2 ||| q.2)
      Writes f.d (BitVec.ofNat 32 r.1) (s3.raise r.2) s4 → exec (row.1 f) s = .next (s4.latched (BitVec.ofNat 32 r.1))) ∧
  (∀ f x s s1 s2, Reads f.a s.begin x s1 →
    let r := deliver fp32 (s.begin.rmOf f.rm) (sqrtVal (f32 x))
    Writes f.d (BitVec.ofNat 32 r.1) (s1.raise r.2) s2 → exec (.fsqrt f) s = .next (s2.latched (BitVec.ofNat 32 r.1)))

/-- R67: minimum and maximum with −0 below +0, a NaN giving way to the other operand; the comparisons, false with a NaN, −0 equal
to +0; NV for a signalling NaN, of `flt` and `fle` for any. R68: the conversions round by the mode in force; to an integer, NaN gives
0 and an infinity the bound, with NV, and a rounded value beyond the bounds saturates with OF and not NX. R67: `fabs` and `fneg`
clear and invert bit 31, a NaN gives 0x7FC0_0000; `fclass` sets the one bit
of the operand's class; none sets a flag. (A queue register named twice gives A its older entry: the model's choice, log entry 81.) -/
def Obligations.FloatComparisonsAndConversions : Prop :=
  (let sig (x : Word) : Prop := isNanWord x ∧ x.getLsbD 22 = false
    let mag (x : Word) : Int := if x.getLsbD 31 then -((x.toNat % 2 ^ 31 : Nat) : Int) else (x.toNat : Int)
    let key (x : Word) : Int := if x.getLsbD 31 then -((x.toNat % 2 ^ 31 : Nat) : Int) - 1 else (x.toNat : Int)
    let chosen (x y c r : Word) : Prop := (isNanWord x → isNanWord y → r = 0x7FC00000) ∧ (isNanWord x → ¬isNanWord y → r = y) ∧
      (¬isNanWord x → isNanWord y → r = x) ∧ (¬isNanWord x → ¬isNanWord y → r = c)
    let truth (p : Prop) (r : Word) : Prop := (p → r = 1) ∧ (¬p → r = 0)
    let nv (p : Prop) (fl : Flags) : Prop := (p → fl = flagNV) ∧ (¬p → fl = 0)
    ∀ row ∈ ([(Instr.fmin, fun x y r fl => chosen x y (if key x ≤ key y then x else y) r ∧ nv (sig x ∨ sig y) fl),
        (Instr.fmax, fun x y r fl => chosen x y (if key y ≤ key x then x else y) r ∧ nv (sig x ∨ sig y) fl),
        (Instr.feq, fun x y r fl => truth (¬isNanWord x ∧ ¬isNanWord y ∧ mag x = mag y) r ∧ nv (sig x ∨ sig y) fl),
        (Instr.flt, fun x y r fl => truth (¬isNanWord x ∧ ¬isNanWord y ∧ mag x < mag y) r ∧ nv (isNanWord x ∨ isNanWord y) fl),
        (Instr.fle, fun x y r fl => truth (¬isNanWord x ∧ ¬isNanWord y ∧ mag x ≤ mag y) r ∧ nv (isNanWord x ∨ isNanWord y) fl)]
        : List ((Int3W → Instr) × (Word → Word → Word → Flags → Prop))),
      ∀ d a b x y s s1 s2, Reads a s.begin x s1 → ReadsI b s1 y s2 →
        ∃ r fl, row.2 x y r fl ∧ ∀ s3, Writes d r (s2.raise fl) s3 → exec (row.1 ⟨d, a, b⟩) s = .next (s3.latched r)) ∧
  (∀ row ∈ ([(Instr.fcvtI32F32, -2147483648, 2147483647), (Instr.fcvtU32F32, 0, 4294967295)] : List ((F2R → Instr) × Int × Int)),
    ∀ f x s s1, Reads f.a s.begin x s1 → ∃ (r : Word) (fl : Flags),
      ((isNanWord x → r = 0 ∧ fl = flagNV) ∧ (x = 0x7F800000 → r = BitVec.ofInt 32 row.2.2 ∧ fl = flagNV) ∧
        (x = 0xFF800000 → r = BitVec.ofInt 32 row.2.1 ∧ fl = flagNV) ∧
        ∀ (v : ℝ) (z : ℤ), (f32 x).Is v → RoundsToInt (s.begin.rmOf f.rm) v z →
          (z < row.2.1 → r = BitVec.ofInt 32 row.2.1 ∧ fl = flagOF) ∧ (row.2.2 < z → r = BitVec.ofInt 32 row.2.2 ∧ fl = flagOF) ∧
          (row.2.1 ≤ z → z ≤ row.2.2 → r = BitVec.ofInt 32 z ∧ (v = z → fl = 0) ∧ (v ≠ z → fl = flagNX))) ∧
      ∀ s2, Writes f.d r (s1.raise fl) s2 → exec (row.1 f) s = .next (s2.latched r)) ∧
  (∀ row ∈ ([(Instr.fcvtF32I32, fun x => x.toInt), (Instr.fcvtF32U32, fun x => (x.toNat : Int))] : List ((F2R → Instr) × (Word → Int))),
    ∀ f x s s1, Reads f.a s.begin x s1 → ∃ (r : Word) (fl : Flags), let v := row.2 x
      (v = 0 → r = 0 ∧ fl = 0) ∧ (v ≠ 0 → fp32.Rounded (s.begin.rmOf f.rm) (decide (v < 0)) (v : ℝ) (r.toNat, fl)) ∧
      ∀ s2, Writes f.d r (s1.raise fl) s2 → exec (row.1 f) s = .next (s2.latched r)) ∧
  (∀ row ∈ ([(Instr.fabs, fun x r => (isNanWord x ∧ r = 0x7FC00000) ∨ (¬isNanWord x ∧ r = x &&& 0x7FFFFFFF)),
      (Instr.fneg, fun x r => (isNanWord x ∧ r = 0x7FC00000) ∨ (¬isNanWord x ∧ r = x ^^^ 0x80000000)),
      (Instr.fclass, fun x r => ∃ k : Nat, r = BitVec.ofNat 32 (2 ^ k) ∧
        ((k = 0 ∧ x = 0xFF800000) ∨ (k = 1 ∧ 0x80800000 ≤ x.toNat ∧ x.toNat < 0xFF800000) ∨
         (k = 2 ∧ 0x80000000 < x.toNat ∧ x.toNat < 0x80800000) ∨ (k = 3 ∧ x = 0x80000000) ∨ (k = 4 ∧ x = 0) ∨
         (k = 5 ∧ 0 < x.toNat ∧ x.toNat < 0x00800000) ∨ (k = 6 ∧ 0x00800000 ≤ x.toNat ∧ x.toNat < 0x7F800000) ∨
         (k = 7 ∧ x = 0x7F800000) ∨ (k = 8 ∧ isNanWord x ∧ x.getLsbD 22 = false) ∨ (k = 9 ∧ isNanWord x ∧ x.getLsbD 22 = true)))]
      : List ((Int2W → Instr) × (Word → Word → Prop))),
    ∀ f x s s1, Reads f.a s.begin x s1 → ∃ r, row.2 x r ∧ ∀ s2, Writes f.d r s1 s2 → exec (row.1 f) s = .next (s2.latched r))

/-- R66, R100 to R104: an exact value is rounded once: to the number of the format that the mode takes, or, past the largest, to that
or to infinity, with OF, UF and NX as R103 has them; a value that FP32 holds keeps its bits and raises no flag. A NaN is delivered as
the canonical one. What is rounded is the exact sum, product, quotient or root; an exact zero has the sign of R102, and R101 says when
NV and R66 when DZ is raised. -/
def Obligations.RoundingKeepsFp32 : Prop :=
  (∀ (rm : Rm) (x : Word) (n : Bool) (m : Nat) (e : Int), f32 x = .fin n m e → roundFin fp32 rm n m e = (x.toNat, 0)) ∧
  ∀ f ∈ [fp32, fp16, bf16], ∀ rm : Rm,
  (∀ fl : Flags, (∀ sig, deliver f rm (.nan sig, fl) = (f.nan, fl)) ∧ (∀ n, deliver f rm (.inf n, fl) = (f.inf n, fl)) ∧
    (∀ n e, deliver f rm (.fin n 0 e, fl) = (f.zero n, fl)) ∧
    ∀ (n : Bool) (m : Nat) (e : Int), m ≠ 0 → f.Rounded rm n ((if n then -1 else 1) * (m : ℝ) * 2 ^ e) (roundFin f rm n m e) ∧
      deliver f rm (.fin n m e, fl) = ((roundFin f rm n m e).1, (roundFin f rm n m e).2 ||| fl)) ∧
  (∀ (n k : Bool) (m l : Nat) (e g : Int), let a : FVal := .fin n m e; let b : FVal := .fin k l g
    let x : ℝ := (if n then -1 else 1) * (m : ℝ) * 2 ^ e; let y : ℝ := (if k then -1 else 1) * (l : ℝ) * 2 ^ g
    let rounds (z : ℝ) (r : FExact) : Prop := ∀ s : Bool, (s = true ↔ z < 0) → f.Rounded rm s z (deliver f rm r)
    let gives (r : FExact) (b : Nat) (fl : Flags) : Prop := deliver f rm r = (b, fl)
    (x + y ≠ 0 → rounds (x + y) (addVal rm a b)) ∧ (x + y = 0 → gives (addVal rm a b) (f.zero (if n = k then n else rm == .rdn)) 0) ∧
    (x * y ≠ 0 → rounds (x * y) (mulVal a b)) ∧ (x * y = 0 → gives (mulVal a b) (f.zero (n != k)) 0) ∧
    (∃ p h, mulVal a b = (.fin (n != k) p h, 0) ∧ (FVal.fin (n != k) p h).Is (x * y)) ∧
    (y ≠ 0 → (x ≠ 0 → rounds (x / y) (divVal a b)) ∧ (x = 0 → gives (divVal a b) (f.zero (n != k)) 0)) ∧
    (y = 0 → (x ≠ 0 → gives (divVal a b) (f.inf (n != k)) flagDZ) ∧ (x = 0 → gives (divVal a b) f.nan flagNV)) ∧
    (0 < x → rounds (Real.sqrt x) (sqrtVal a)) ∧ (x = 0 → gives (sqrtVal a) (f.zero n) 0) ∧ (x < 0 → gives (sqrtVal a) f.nan flagNV)) ∧
  (∀ (n k : Bool) (m : Nat) (e : Int), let a : FVal := .inf n; let b : FVal := .inf k; let c : FVal := .fin k m e
    let gives (r : FExact) (b : Nat) (fl : Flags) : Prop := deliver f rm r = (b, fl)
    (if n = k then gives (addVal rm a b) (f.inf n) 0 else gives (addVal rm a b) f.nan flagNV) ∧
    gives (addVal rm a c) (f.inf n) 0 ∧ gives (addVal rm c a) (f.inf n) 0 ∧ gives (mulVal a b) (f.inf (n != k)) 0 ∧
    (if m = 0 then gives (mulVal a c) f.nan flagNV ∧ gives (mulVal c a) f.nan flagNV
      else gives (mulVal a c) (f.inf (n != k)) 0 ∧ gives (mulVal c a) (f.inf (n != k)) 0) ∧
    gives (divVal a b) f.nan flagNV ∧ gives (divVal a c) (f.inf (n != k)) 0 ∧ gives (divVal c a) (f.zero (n != k)) 0 ∧
    (if n then gives (sqrtVal a) f.nan flagNV else gives (sqrtVal a) (f.inf false) 0)) ∧
  (∀ a b : FVal, let r : FRes := (f.nan, if a.isSig || b.isSig then flagNV else 0)
    (a.isNan || b.isNan) = true → deliver f rm (addVal rm a b) = r ∧ deliver f rm (mulVal a b) = r ∧ deliver f rm (divVal a b) = r) ∧
  ∀ sig, deliver f rm (sqrtVal (.nan sig)) = (f.nan, if sig then flagNV else 0)

/-! ## Operands -/

/-- R9, R16, R32, R54: what each source gives and what each destination changes, queue registers apart: gz reads zero
and discards writes, and a register written reads back, in its stream alone. R17: a read pops the oldest entry and
waits while there is none; a push goes behind the youngest and waits while four are held; the reading stream may not
push and the writing stream may not pop. -/
def Obligations.Operands : Prop :=
  (∀ (s : State) (v : Word),
    (∀ n, Reads (.g n) s (s.baseStream.reg n.val) s) ∧ Reads .gz s 0 s ∧ (∀ n, Reads (.o n) s (s.baseStream.opReg n.val) s) ∧
    (∀ n, Reads (.x n) s (s.baseStream.latch n.val) s) ∧ Stores .gz v s s ∧
    (∀ n, ∃ t, Stores (.g n) v s t ∧ t.stream.reg n.val = v ∧ (∀ m, m ≠ n.val → t.stream.reg m = s.stream.reg m) ∧
      t.core.stream (!s.hind) = s.core.stream (!s.hind) ∧ (∀ id, id ≠ s.me → t.dev.core id = s.dev.core id)) ∧
    (∀ n, ∃ t, Stores (.o n) v s t ∧ t.stream.opReg n.val = v ∧ (∀ m, m ≠ n.val → t.stream.opReg m = s.stream.opReg m) ∧
      (∀ m, t.stream.reg m = s.stream.reg m) ∧ t.core.stream (!s.hind) = s.core.stream (!s.hind))) ∧
  (∀ (s : State) (n : Fin 8) (v : Word), let hindReads := s.baseCore.cr.qdir.getLsbD n.val = false
    ((s.hind = true ↔ hindReads) →
      (∀ w l, s.core.queue n.val = w :: l → ∃ t, Reads (.q n) s w t ∧ t.core.queue n.val = l ∧
        (∀ m, m ≠ n.val → t.core.queue m = s.core.queue m)) ∧
      (s.core.queue n.val = [] → readSrc (.q n) s = .error .block) ∧
      writeDst (.q n) v s = .error (.trap .qdir (BitVec.ofNat 64 n.val))) ∧
    (¬(s.hind = true ↔ hindReads) →
      ((s.core.queue n.val).length < 4 → ∃ t, Stores (.q n) v s t ∧ t.core.queue n.val = s.core.queue n.val ++ [v] ∧
        (∀ m, m ≠ n.val → t.core.queue m = s.core.queue m)) ∧
      (4 ≤ (s.core.queue n.val).length → writeDst (.q n) v s = .error .block) ∧
      readSrc (.q n) s = .error (.trap .qdir (BitVec.ofNat 64 n.val))))

/-! ## Class 1 -/

/-- R41, R70: `br`, the six `b.cc` and `bdec`, which decrements whether or not it branches. The target is LineAddress(PC) + 64 ×
SignExtend(I[31:6]) + I[2:0]. R70: jumps take their target from a pair; `call` and `callr` first set the link pair to NextPC, and
`callr` jumps to the pair's old value. (Which source takes the older entry where both name one queue register is the model's
choice: log entry 81.) -/
def Obligations.BranchesAndCalls : Prop :=
  (∀ (s : State) (i : Disp), let target : DWord := s.issue.pc / 64 * 64 + 64 * i.lines.signExtend 64 + BitVec.ofNat 64 i.slot.val
    exec (.br i) s = .next (s.begin.jumped target) ∧
    (∀ row ∈ ([(Instr.bEq, fun a b => a = b), (Instr.bNe, fun a b => a ≠ b), (Instr.bLt, fun a b => a.toInt < b.toInt),
        (Instr.bGe, fun a b => b.toInt ≤ a.toInt), (Instr.bLtu, fun a b => a.toNat < b.toNat),
        (Instr.bGeu, fun a b => b.toNat ≤ a.toNat)] : List ((BccOp → Instr) × (Word → Word → Prop))),
      ∀ a b x y s1 s2, Reads a s.begin x s1 → Reads b s1 y s2 →
        (row.2 x y → exec (row.1 ⟨a, b, i⟩) s = .next (s2.jumped target)) ∧
        (¬row.2 x y → exec (row.1 ⟨a, b, i⟩) s = .next s2)) ∧
    (∀ d : Fin 48, let r := s.begin.baseStream.reg d.val - 1
      (r ≠ 0 → exec (.bdec ⟨d, i⟩) s = .next ((s.begin.putG d.val r).jumped target)) ∧
      (r = 0 → exec (.bdec ⟨d, i⟩) s = .next (s.begin.putG d.val r)))) ∧
  (∀ (s : State) (i : Disp) (a : PairReg) (d : PairDst),
    exec (.jr a) s = .next (s.begin.jumped (s.begin.pairOf a)) ∧ exec (.ret a) s = .next (s.begin.jumped (s.begin.pairOf a)) ∧
    exec (.call ⟨d, i⟩) s = .next ((s.begin.putPair (.even d) s.issue.nextPc).jumped
      (s.issue.pc / 64 * 64 + 64 * i.lines.signExtend 64 + BitVec.ofNat 64 i.slot.val)) ∧
    exec (.callr ⟨d, a⟩) s = .next ((s.begin.putPair (.even d) s.issue.nextPc).jumped (s.begin.pairOf a)))

/-- R71, R35: `split` by fore starts hind at its target with every register zero and leaves fore as it is; `halt.h` by
hind stops it once its loads have returned. R71: STREAM with the value 0 for `split` by hind or while hind runs, for
`halt.h` by fore, and for `done` by hind. R72: `done` by fore, with nothing left that it waits for and no trapped
activation, ends the activation: no stream runs, the core is idle, and its held messages go. While hind runs or the
MXU queue holds a command it waits and has no effect. Beside a half that has begun such work in the same
group, it issues and the activation ends later (read from R28 and R72 by inference: log entry 65). -/
def Obligations.StreamsStartAndEnd : Prop :=
  (∀ (s : State) (i : Disp), s.hind = false → s.begin.core.hind.running = false →
    ∃ t, exec (.split i) s = .next t ∧ t.took = none ∧ t.blocked = false ∧ t.core.fore = s.begin.core.fore ∧
      t.core.hind.running = true ∧
      t.core.hind.pc = s.issue.pc / 64 * 64 + 64 * i.lines.signExtend 64 + BitVec.ofNat 64 i.slot.val ∧
      t.core.hind.entering = some (s.issue.pc, true) ∧ t.core.hind.region.st = .closed ∧ t.core.hind.region.post = none ∧
      ∀ n, t.core.hind.reg n = 0 ∧ t.core.hind.opReg n = 0 ∧ t.core.hind.latch n = 0) ∧
  (∀ s : State, s.hind = true → s.begin.core.loadsDone true = true →
    exec .haltH s = .next (s.begin.modStream fun t => { t with running := false })) ∧
  (∀ (s : State) (i : Disp),
    (s.hind = true ∨ s.begin.core.hind.running = true → exec (.split i) s = .next (s.takeTrap .stream s.issue.pc 0)) ∧
    (s.hind = false → exec .haltH s = .next (s.takeTrap .stream s.issue.pc 0)) ∧
    (s.hind = true → exec .done s = .next (s.takeTrap .stream s.issue.pc 0))) ∧
  (∀ s : State, s.hind = false →
    (s.begin.base.mayEnd s.me = true → s.begin.dev.mayEnd s.me = true → s.begin.core.susp = none →
      ∃ t, exec .done s = .next t ∧ t.took = none ∧ t.blocked = false ∧ t.dev = s.begin.dev.endActivation s.me ∧ t.core.act = none ∧ t.core.fore.running = false ∧ t.core.hind.running = false ∧
      t.core.tokens = []) ∧
    (s.begin.baseCore.hind.running = true ∨ s.begin.baseCore.mxu.cmds ≠ [] → exec .done s = .next (s.waitWith id)) ∧
    (s.begin.base.mayEnd s.me = true → s.begin.dev.mayEnd s.me = false → s.begin.core.susp = none →
      exec .done s = .next (s.begin.modStream fun t => { t with ending := true })))

/-- R73: `fork` pushes a task on the steal deque, youngest first, with Target, the forking core's id and its
arguments; a full deque raises DEQUE. R74: `join` decrements the counter of a codelet descriptor; at zero the ready
record, keyed by the descriptor's offset, arrives at the core's own drift queue. A counter of zero raises CODELET, and
a misaligned offset ALIGN. -/
def Obligations.ForkAndJoin : Prop :=
  (∀ (f : ForkOp) (s : State),
    (s.begin.core.deque.length < 16 → exec (.fork f) s = .next (s.begin.modCore fun c => { c with
      deque := ⟨s.issue.pc / 64 * 64 + 64 * f.i.lines.signExtend 64 + BitVec.ofNat 64 f.i.slot.val, s.begin.coreId,
        (List.range f.n.val).map fun k => s.begin.baseStream.reg (f.a.val + k)⟩ :: c.deque })) ∧
    (16 ≤ s.begin.core.deque.length → exec (.fork f) s = .next (s.takeTrap .deque s.issue.pc 0))) ∧
  (∀ (f : AOff) x s s1, Reads f.a s.begin x s1 → let o := (x + f.off).toNat
    (o % 16 ≠ 0 → exec (.join f) s = .next (s.takeTrap .align s.issue.pc (BitVec.ofNat 64 o))) ∧
    (o % 16 = 0 → o + 4 ≤ spSize s.me → let n := (s1.core.portWord o).toNat
      (n = 0 → exec (.join f) s = .next (s.takeTrap .codelet s.issue.pc (BitVec.ofNat 64 o))) ∧
      (1 < n → exec (.join f) s = .next (s1.modCore fun c => c.setCounter s.me o (BitVec.ofNat 32 (n - 1)))) ∧
      (n = 1 → ∀ d, (s1.modCore fun c => c.setCounter s.me o 0).dev.arrive s.me
          (lineOfWords [recWord0 (s1.core.portWord (o + 4)).toNat 0 3 false s1.coreId, BitVec.ofNat 32 o, 0, BitVec.ofNat 32 o,
            s1.core.portWord (o + 8), s1.core.portWord (o + 12)]) 0 = some d →
        exec (.join f) s = .next ((s1.modCore fun c => c.setCounter s.me o 0).setDev d))))

/-! ## Class 2 -/

/-- R54, R192, R208, R211: `Translate`. An address whose bits [63:52] are not copies of bit 51 raises PAGE; an entry
of the TLB gives the address or PROT; a failed walk raises PAGE; a miss starts a walk and waits; then the place
decides: DRAM raises NOPATH, and what is neither a vault nor application-die memory PROT. R310: on a member moved from
another package every global access but a fetch raises NOPATH first. -/
def Obligations.GlobalTranslation : Prop :=
  (∀ (s : State) (va : DWord) (a : Acc), s.core.home.isSome = true → a ≠ .ex → globalAddr va a s = .error (.trap .nopath va)) ∧
  ∀ (s : State) (va : DWord) (a : Acc), s.core.home = none ∨ a = .ex →
    (va ≠ (va.extractLsb' 0 52).signExtend 64 → globalAddr va a s = .error (.trap .page va)) ∧
    (va = (va.extractLsb' 0 52).signExtend 64 →
      (∀ e, s.core.tlbFind (va52 va) = some e → let pa := e.pa + va52 va % pageBytes e.size
        (e.allows a = false → globalAddr va a s = .error (.trap .prot va)) ∧
        (e.allows a = true → isDramPa pa = true → isVault pa = false → isApp pa = false →
          globalAddr va a s = .error (.trap .nopath va)) ∧
        (e.allows a = true → isDramPa pa = false → isVault pa = false → isApp pa = false →
          globalAddr va a s = .error (.trap .prot va)) ∧
        (e.allows a = true → isVault pa = true ∨ isApp pa = true → Located va a s pa (s.modCore fun c => c.tlbUse e))) ∧
      (s.core.tlbFind (va52 va) = none →
        (va52 va / 32768 ∈ s.core.walkFail → globalAddr va a s = .error (.trap .page va)) ∧
        (va52 va / 32768 ∉ s.core.walkFail → ∃ f, globalAddr va a s = .error (.wait f) ∧ f s.dev = s.dev.startWalk s.me (va52 va))))

/-- R76, R77, R79, R80, R88: loads of the own scratchpad: `ld`, `lds`, and `ld.take` and `ld.wait` once every granule
is full; `.take` clears the full bits. The value is the bytes in little-endian order. R80, R88: a `.take` or `.wait`
load waits, with no effect, while a granule of its span is empty. R77, R54: a load of any of these forms, or a store by
`st` or `st.fill`, whose offset is not a multiple of its width raises ALIGN, and one past the end of the scratchpad
BOUND, with the offset as the value.
R343: a `.take` load whose span touches a journaled region raises PROT. R76, R80, R133, R134: the same loads of a neighbour's
scratchpad, once the stream's own writes there are performed. R76, R190: one toward no neighbour raises NOPATH, one of a region that
is not visible PROT, and one past its end BOUND, each with w as the value. -/
def Obligations.ScratchpadLoads : Prop :=
  (∀ i mode signed d a off x s s1 t, loadShape i = some (mode, signed, d, .sp a, off) → mode ∈ [.plain, .take, .wait] →
    Reads a s.begin x s1 → let o := (x + off).toNat; let n := ldBytes d
    o % n = 0 → o + n ≤ spSize s.me → s1.core.ownBad o n = none → (mode = .take → s1.core.journals o n = false) →
    (mode ≠ .plain → s1.core.allFull s.me o n = true) →
    LoadsInto d signed (leValue ((List.range n).map fun k => s1.core.spByte (o + k)))
      (if mode = .take then (s1.noteGone o n).modCore fun c => c.setFull o n false else s1.noteGone o n) t →
    exec i s = .next t) ∧
  (∀ row ∈ ([Instr.ldTake, Instr.ldWait] : List (LdOp → Instr)),
    ∀ d a off x s s1, Reads a s.begin x s1 → let o := (x + off).toNat; let n := ldBytes d
      o % n = 0 → o + n ≤ spSize s.me → s1.core.journals o n = false → s1.core.allFull s.me o n = false →
      exec (row ⟨d, .sp a, off⟩) s = .next (s.waitWith id)) ∧
  (∀ i mode signed d a off x s s1, loadShape i = some (mode, signed, d, .sp a, off) → mode ∈ [.plain, .take, .wait] →
    Reads a s.begin x s1 → let o := (x + off).toNat; let n := ldBytes d
    (o % n ≠ 0 → exec i s = .next (s.takeTrap .align s.issue.pc (BitVec.ofNat 64 o))) ∧
    (o % n = 0 → spSize s.me < o + n → exec i s = .next (s.takeTrap .bound s.issue.pc (BitVec.ofNat 64 o)))) ∧
  (∀ row ∈ ([Instr.st, Instr.stFill] : List (StOp → Instr)),
    ∀ v a off x s s1, Reads a s.begin x s1 → let o := (x + off).toNat; let n := stBytes v
      (o % n ≠ 0 → exec (row ⟨v, .sp a, off⟩) s = .next (s.takeTrap .align s.issue.pc (BitVec.ofNat 64 o))) ∧
      (∀ y s2, o % n = 0 → StoreData v s1 y s2 → spSize s.me < o + n →
        exec (row ⟨v, .sp a, off⟩) s = .next (s.takeTrap .bound s.issue.pc (BitVec.ofNat 64 o)))) ∧
  (∀ i mode signed d a off x s s1 t nb o, loadShape i = some (mode, signed, d, .nb a, off) → mode ∈ [.plain, .take, .wait] →
    Reads a s.begin x s1 → let w := (x + off).toNat; let n := ldBytes d; let c := s1.dev.core nb
    w % n = 0 → NbAt w n s1 nb o → (∀ q ∈ c.nbq, ¬(q.src = s.me ∧ q.hind = s.hind)) →
    (mode = .take → c.journals o n = false) → (mode ≠ .plain → c.allFull nb o n = true) →
    c.spBad o n = none → (∀ g ∈ granules o n, g ∉ c.spGone) →
    LoadsInto d signed (readLE c.sp o n)
      (if mode = .take then s1.setDev (s1.dev.modCore nb fun c => c.setFull o n false) else s1) t →
    exec i s = .next t) ∧
  (∀ d a off x s s1, Reads a s.begin x s1 → let o := (x + off).toNat; let n := ldBytes d
    o % n = 0 → o + n ≤ spSize s.me → s1.core.journals o n = true → exec (.ldTake ⟨d, .sp a, off⟩) s = .next (s.takeTrap .prot s.issue.pc 0)) ∧
  (∀ d a off x s s1 nb o, Reads a s.begin x s1 → let w := (x + off).toNat; let n := ldBytes d; let c := s1.dev.core nb
    w % n = 0 → NbAt w n s1 nb o → (∀ q ∈ c.nbq, ¬(q.src = s.me ∧ q.hind = s.hind)) → c.journals o n = true →
    exec (.ldTake ⟨d, .nb a, off⟩) s = .next (s.takeTrap .prot s.issue.pc 0)) ∧
  (∀ i mode signed d a off x s s1, loadShape i = some (mode, signed, d, .nb a, off) → mode ∈ [.plain, .take, .wait] →
    Reads a s.begin x s1 → let w := (x + off).toNat; let n := ldBytes d
    (w % n ≠ 0 → exec i s = .next (s.takeTrap .align s.issue.pc (BitVec.ofNat 64 w))) ∧
    (∀ cause, w % n = 0 → NbRefused w n s1 cause → exec i s = .next (s.takeTrap cause s.issue.pc (BitVec.ofNat 64 w))))

/-- R76, R77, R79, R280: `ld`, `lds` and `ld.vol` of global memory outside a proposal region. A load into registers is
outstanding until it returns; one into a queue register, and one in a pair, is performed at its place first (the model's reading:
log entry 18). R79,
R92, R287, R291: an `.acq` load is scope-checked and performed at the home; then the stream acquires. R281: such an access at its
place waits for the stream's earlier ones to the bank; that it waits, where it crosses to another die, for what is on its way
between the two, and an acquire for write-backs that cannot go at once, is the model's choice (log entry 61). R216: in an open
region a plain load of a proposal line is performed at the home, which enters the line in the read set with its version, the 257th
line failing the region, and the region's own stores lie over the data; in a failed region it is a load as outside; PREGION for
what a region does not admit (that a failed region makes the checks of an open one, and that post-draw state gives the value 1
to every form, is the model's reading: log entry 25). R77, R291, R339: ALIGN for a misaligned address; SCOPE and POISON, with no
effect (that POISON waits for the stream's earlier accesses to the bank is the model's reading: log entry 10; that it comes before
SCOPE is its choice: log entry 117). R78, R80: the words that a loaded value gives: extended below a word, by sign for `lds`; else
in ascending address. -/
def Obligations.GlobalLoads : Prop :=
  (∀ i mode signed d p off s s1 pa, loadShape i = some (mode, signed, d, .glob p, off) → mode ∈ [.plain, .vol] →
    let kind : AccKind := if mode = .vol then .volLoad else .load
    let va := s.begin.globAddr p off; let n := ldBytes d
    va.toNat % n = 0 → s.begin.outside va (mode == .plain) → Located va .rd s.begin pa s1 →
    (s1.dev.loadBad s.me pa n (mode == .vol) = none →
      (usesQueue d = false → s.issue.paired = false → exec i s =
        .next (s1.modStream fun t => { t with acc := t.acc ++ [⟨kind, va52 va, pa, n, signed, d, 0, 0, 0, none, 0, false, s.issue.pc⟩] })) ∧
      (∀ s2, usesQueue d = true ∨ s.issue.paired = true → Reached kind pa s1 s2 →
        let r := if mode = .vol then s2.dev.loadHome s.me pa n else s2.dev.loadPlain s.me pa n
        ∀ t, LoadsInto d signed r.1 (s2.setDev r.2) t → exec i s = .next t)) ∧
    (∀ b, s1.dev.loadBad s.me pa n (mode == .vol) = some b → exec i s =
      .next (if s1.core.bankIdle s.hind pa then s.takeTrap .poison s.issue.pc (besideVa va pa b) else s.waitWith id))) ∧
  (∀ d p off sc s s1 s2 pa, let va := s.begin.globAddr p off; let n := ldBytes d; let i : Instr := .ldAcq ⟨d, .glob p, off⟩ sc
    va.toNat % n = 0 → s.begin.stream.region.st = .closed → Located va .rd s.begin pa s1 → Reached .volLoad pa s1 s2 →
    (∀ b, s2.dev.loadBad s.me pa n true = some b → exec i s = .next (s.takeTrap .poison s.issue.pc (besideVa va pa b))) ∧
    (s2.dev.loadBad s.me pa n true = none →
      (s2.dev.scopeCheck pa (s2.scopeInst sc) = none → exec i s = .next (s.takeTrap .scope s.issue.pc va)) ∧
      (∀ dev, s2.dev.scopeCheck pa (s2.scopeInst sc) = some dev → let r := dev.loadHome s.me pa n
        ((s2.setDev r.2).mayAcquire (s2.scopeInst sc) →
          ∀ t, LoadsInto d false r.1 (s2.setDev (r.2.acquire s.me (s2.scopeInst sc))) t → exec i s = .next t) ∧
        (¬(s2.setDev r.2).mayAcquire (s2.scopeInst sc) → exec i s = .next (s.waitWith id))))) ∧
  (∀ i signed d p off s s1 s2 pa, loadShape i = some (.plain, signed, d, .glob p, off) →
    let va := s.begin.globAddr p off; let n := ldBytes d; let ln := pa / 64 * 64; let reg := s2.stream.region
    va.toNat % n = 0 → s.begin.stream.region.st = .opened → s.begin.proposalVa va = true → Located va .rd s.begin pa s1 →
    Reached .volLoad pa s1 s2 →
    (∀ b, s2.dev.loadBad s.me pa n true = some b → exec i s = .next (s.takeTrap .poison s.issue.pc (besideVa va pa b))) ∧
    (s2.dev.loadBad s.me pa n true = none → let r := s2.dev.loadHome s.me pa n
      ∀ reg' t, (((∃ l ∈ reg.rs, l.pa = ln) ∧ reg' = reg) ∨
          ((∀ l ∈ reg.rs, l.pa ≠ ln) ∧ reg.rs.length < 256 ∧
            reg' = { reg with rs := reg.rs ++ [⟨ln, va52 va / 64 * 64, r.2.version pa⟩] }) ∨
          ((∀ l ∈ reg.rs, l.pa ≠ ln) ∧ 256 ≤ reg.rs.length ∧ reg' = { reg with st := .failed })) →
        LoadsInto d signed (if reg'.st = .failed then r.1 else reg.overlay pa n r.1) ((s2.setDev r.2).withRegion reg') t →
        exec i s = .next t)) ∧
  (∀ (reg : Region) pa n v, ((∀ l ∈ reg.ws, l.pa / 64 ≠ pa / 64) → reg.overlay pa n v = v) ∧
    ∀ l, (reg.ws.find? fun l => l.pa / 64 == pa / 64) = some l → reg.overlay pa n v = leValue ((List.range n).map fun k =>
      if l.mask.getLsbD (pa % 64 + k) then l.data.extractLsb' (8 * (pa % 64 + k)) 8 else BitVec.ofNat 8 (v / 2 ^ (8 * k)))) ∧
  (∀ i mode signed d p off s, loadShape i = some (mode, signed, d, .glob p, off) → mode ≠ .take → mode ≠ .wait →
    let va := s.begin.globAddr p off
    (va.toNat % ldBytes d ≠ 0 → exec i s = .next (s.takeTrap .align s.issue.pc va)) ∧
    (va.toNat % ldBytes d = 0 → ∀ v, s.begin.barred va (mode == .plain) v → exec i s = .next (s.takeTrap .pregion s.issue.pc v))) ∧
  (∀ kind pa s, (s.core.bankIdle s.hind pa = false → reach kind pa s = .error .block) ∧
    (s.core.bankIdle s.hind pa = true →
      (s.dev.accessCrosses s.me kind pa = false → Reached kind pa s s) ∧
      (s.dev.accessCrosses s.me kind pa = true → s.dev.linkIdle (dieOf s.me) pa = false → reach kind pa s = .error .block) ∧
      (s.dev.accessCrosses s.me kind pa = true → s.dev.linkIdle (dieOf s.me) pa = true →
        Reached kind pa s (s.setDev (s.dev.countCross (dieOf s.me) pa))))) ∧
  (∀ v : Nat, (v < 2 ^ 8 → ldWords 1 true v = [(BitVec.ofNat 8 v).signExtend 32] ∧ ldWords 1 false v = [(BitVec.ofNat 8 v).setWidth 32]) ∧
    (v < 2 ^ 16 → ldWords 2 true v = [(BitVec.ofNat 16 v).signExtend 32] ∧ ldWords 2 false v = [(BitVec.ofNat 16 v).setWidth 32]) ∧
    (∀ n ∈ [4, 8, 16, 64], ∀ signed, (ldWords n signed v).length = n / 4 ∧
      ∀ k, k < n / 4 → (ldWords n signed v)[k]? = some (BitVec.ofNat 32 (v / 2 ^ (32 * k)))))

/-- R54, R79, R80, R81: stores to the own scratchpad outside the queue image and every journaled region: the bytes are
written lowest first, the tag of each KiB touched becomes 0, and `.fill` sets the full bit of each granule touched.
R343: a store that touches a journaled region enters the journal and leaves the scratchpad as it is; one that finds no
room for its granules raises JOURNAL; a `.fill` store there raises PROT. R169: a store to the queue image raises PROT in a
non-privileged activation; a privileged one writes the image's bytes while the queue is stopped for a context restore, and has no
effect at any other time. R76, R133, R134: a store to a neighbour is queued granule by granule at the neighbour's port, and changes
nothing else; toward no neighbour it raises NOPATH, to a region that is not visible PROT, and past its end BOUND, each with w. -/
def Obligations.ScratchpadStores : Prop :=
  (∀ row ∈ ([(Instr.st, false), (Instr.stFill, true)] : List ((StOp → Instr) × Bool)),
    ∀ v a off x y s s1 s2, Reads a s.begin x s1 → let o := (x + off).toNat; let n := stBytes v
      o % n = 0 → o + n ≤ spSize s.me → StoreData v s1 y s2 → inImage s.me o = false → inImage s.me (o + n - 1) = false →
      s2.core.journals o n = false →
      exec (row.1 ⟨v, .sp a, off⟩) s = .next (s2.modCore fun c => c.spStore s.me o (leBytes n y) row.2 (some 0) false)) ∧
  (∀ v a off x y s s1 s2, Reads a s.begin x s1 → let o := (x + off).toNat; let n := stBytes v
    o % n = 0 → o + n ≤ spSize s.me → StoreData v s1 y s2 → inImage s.me o = false → inImage s.me (o + n - 1) = false →
    s2.core.journals o n = true →
    let new := ((granules o n).filter fun g => (FMap.find s2.core.journal g).isNone).length
    (s2.core.journal.length + new ≤ 128 → ∃ t, exec (.st ⟨v, .sp a, off⟩) s = .next t ∧ t.took = none ∧ t.blocked = false ∧
      t.core.sp = s2.core.sp ∧ (∀ i, i < n → t.core.spByte (o + i) = BitVec.ofNat 8 (y / 2 ^ (8 * i))) ∧
      (∀ b, b < o ∨ o + n ≤ b → t.core.spByte b = s2.core.spByte b)) ∧
    (128 < s2.core.journal.length + new → exec (.st ⟨v, .sp a, off⟩) s = .next (s.takeTrap .journal s.issue.pc (BitVec.ofNat 64 o)))) ∧
  (∀ row ∈ ([(Instr.st, false), (Instr.stFill, true)] : List ((StOp → Instr) × Bool)),
    ∀ v a off x y s s1 s2 nb o, Reads a s.begin x s1 → let w := (x + off).toNat; let n := stBytes v
      w % n = 0 → StoreData v s1 y s2 → NbAt w n s2 nb o → (row.2 = true → (s2.base.core nb).journals o n = false) →
      ∃ t, exec (row.1 ⟨v, .nb a, off⟩) s = .next t ∧ t.took = none ∧ t.blocked = false ∧
        t.dev.core nb = { s2.dev.core nb with nbq := (s2.dev.core nb).nbq ++ (List.range ((n + 15) / 16)).map fun g =>
          ⟨s.me, s.hind, o + 16 * g, min n 16, BitVec.ofNat 128 (y / 2 ^ (128 * g)), row.2, false⟩ } ∧
        (∀ id, id ≠ nb → t.dev.core id = s2.dev.core id) ∧ t.dev.mem = s2.dev.mem) ∧
  (∀ v a off x y s s1 s2, Reads a s.begin x s1 → let o := (x + off).toNat; let n := stBytes v
    o % n = 0 → o + n ≤ spSize s.me → StoreData v s1 y s2 → inImage s.me o = false → inImage s.me (o + n - 1) = false →
    s2.core.journals o n = true → exec (.stFill ⟨v, .sp a, off⟩) s = .next (s.takeTrap .prot s.issue.pc 0)) ∧
  (∀ row ∈ ([Instr.st, Instr.stFill] : List (StOp → Instr)),
    ∀ v a off x y s s1 s2, Reads a s.begin x s1 → let o := (x + off).toNat; let n := stBytes v
      o % n = 0 → o + n ≤ spSize s.me → StoreData v s1 y s2 → inImage s.me o = true →
      (s2.core.cr.priv = false → exec (row ⟨v, .sp a, off⟩) s = .next (s.takeTrap .prot s.issue.pc 0)) ∧
      (s2.core.cr.priv = true → s2.core.mxu.halted = true → ∃ t, exec (row ⟨v, .sp a, off⟩) s = .next t ∧ t.took = none ∧
        t.blocked = false ∧ t.core.sp = writeBytes s2.core.sp o (leBytes n y) ∧ t.core.spFull = s2.core.spFull ∧ t.core.mxu = s2.core.mxu) ∧
      (s2.core.cr.priv = true → s2.core.mxu.halted = false → ∃ t, exec (row ⟨v, .sp a, off⟩) s = .next t ∧ t.took = none ∧
        t.blocked = false ∧ (∀ id, t.dev.core id = s2.dev.core id) ∧ t.dev.mem = s2.dev.mem)) ∧
  (∀ row ∈ ([Instr.st, Instr.stFill] : List (StOp → Instr)),
    ∀ v a off x s s1, Reads a s.begin x s1 → let w := (x + off).toNat; let n := stBytes v
      (w % n ≠ 0 → exec (row ⟨v, .nb a, off⟩) s = .next (s.takeTrap .align s.issue.pc (BitVec.ofNat 64 w))) ∧
      (∀ y s2 cause, w % n = 0 → StoreData v s1 y s2 → NbRefused w n s2 cause →
        exec (row ⟨v, .nb a, off⟩) s = .next (s.takeTrap cause s.issue.pc (BitVec.ofNat 64 w)))) ∧
  (∀ v a off x y s s1 s2 nb o, Reads a s.begin x s1 → let w := (x + off).toNat; let n := stBytes v
    w % n = 0 → StoreData v s1 y s2 → NbAt w n s2 nb o → (s2.base.core nb).journals o n = true →
    exec (.stFill ⟨v, .nb a, off⟩) s = .next (s.takeTrap .prot s.issue.pc 0))

/-- R79, R84, R280: plain and `.vol` global stores outside a proposal region leave the core, counted in the current round at their
slice; memory changes when they are performed. R79, R84, R93, R279, R291: a `.rel` store, once its query is answered, is
scope-checked with the query's instance and performed at the home; where the check fails, SCOPE, and the round stays closed. R216:
in an open region a plain store of a proposal line is buffered in the write set, bytes and mask, the 65th line failing the region
and SPAN for a line of another die (SPAN before the 65th line: the model's choice, log entry 114); in a failed region it changes
nothing; PREGION for what a region does not admit (that a failed region makes the checks of an open one, and that post-draw state
gives the value 1 to every form, is the model's reading: log entry 25). R77: ALIGN for a misaligned address. R289: a write to a
read-shared object raises PROT with its address and changes nothing. R92: the first store after a `fence.rel.stream` waits until
the stores before it are performed. -/
def Obligations.GlobalStores : Prop :=
  (∀ row ∈ ([(Instr.st, AccKind.store), (Instr.stVol, AccKind.volStore)] : List ((StOp → Instr) × AccKind)),
    ∀ v p off y s s1 s2 s3 pa, let va := s.begin.globAddr p off; let n := stBytes v
      va.toNat % n = 0 → StoreData v s.begin y s1 → s1.stream.region.st = .closed → Located va .wr s1 pa s2 →
      (s2.dev.modeAt pa ≠ some 0 ∨ (row.2 = .store ∧ s2.dev.propAt pa = true)) → Ungated s2 s3 →
      let slice := if row.2 = .volStore then homeSlice pa else s3.dev.storeSlice s.me pa
      exec (row.1 ⟨v, .glob p, off⟩) s =
        .next ((s3.modStream fun t => { t with acc := t.acc ++ [⟨row.2, va52 va, pa, n, false, .sub .w .gz, BitVec.ofNat 512 y,
          s3.core.round, slice, none, 0, false, s.issue.pc⟩] }).modCore fun c => { c with sentTo := bumpCount c.sentTo slice s3.core.round })) ∧
  (∀ v p off sc y r i s s0 s1 s2 s3 s4 pa, let va := s.begin.globAddr p off; let n := stBytes v
    va.toNat % n = 0 → StoreData v s.begin y s0 → s0.stream.region.st = .closed → s0.core.home = none → Ungated s0 s1 →
    Released sc s1 r i s2 → Located va .wr s2 pa s3 → s3.dev.modeAt pa ≠ some 0 → Reached .volStore pa s3 s4 →
    s4.dev.locked pa = false →
    (∀ dev, s4.dev.scopeCheck pa i = some dev →
      exec (.stRel ⟨v, .glob p, off⟩ sc) s = .next (s4.setDev (dev.storeHome s.me pa (leBytes n y)))) ∧
    (s4.dev.scopeCheck pa i = none → exec (.stRel ⟨v, .glob p, off⟩ sc) s = .next (s.takeTrapAfter
      (fun d => if Scope.code sc < 2 then d.modCore s.me fun c => { c with round := (c.round + 1) % 2 ^ 32 } else d) .scope s.issue.pc va))) ∧
  (∀ v p off y s s1 s2 pa, let va := s.begin.globAddr p off; let n := stBytes v
    va.toNat % n = 0 → StoreData v s.begin y s1 → s1.proposalVa va = true → Located va .wr s1 pa s2 →
    let reg := s2.stream.region; let ln := pa / 64 * 64; let m := byteMask (pa % 64) n
    let bytes : Line := BitVec.ofNat 512 (y * 2 ^ (8 * (pa % 64)))
    (s1.stream.region.st = .failed → exec (.st ⟨v, .glob p, off⟩) s = .next s2) ∧
    (s1.stream.region.st = .opened →
      ((∃ l ∈ reg.ws, homeDie l.pa ≠ homeDie pa) → exec (.st ⟨v, .glob p, off⟩) s = .next (s.takeTrap .span s.issue.pc 0)) ∧
      ((∀ l ∈ reg.ws, homeDie l.pa = homeDie pa) → ∀ reg',
        (((∃ l ∈ reg.ws, l.pa = ln) ∧ reg' = { reg with ws := reg.ws.map fun l => if l.pa = ln then
            { l with data := mergeLine l.data bytes m, mask := l.mask ||| m } else l }) ∨
          ((∀ l ∈ reg.ws, l.pa ≠ ln) ∧ reg.ws.length < 64 ∧
            reg' = { reg with ws := reg.ws ++ [⟨ln, va52 va / 64 * 64, mergeLine 0 bytes m, m⟩] }) ∨
          ((∀ l ∈ reg.ws, l.pa ≠ ln) ∧ 64 ≤ reg.ws.length ∧ reg' = { reg with st := .failed })) →
        exec (.st ⟨v, .glob p, off⟩) s = .next (s2.withRegion reg')))) ∧
  (∀ sc, ∀ row ∈ ([(Instr.st, true), (Instr.stVol, false), (fun f => Instr.stRel f sc, false)] : List ((StOp → Instr) × Bool)),
    ∀ v p off y s s1, let va := s.begin.globAddr p off
      (va.toNat % stBytes v ≠ 0 → exec (row.1 ⟨v, .glob p, off⟩) s = .next (s.takeTrap .align s.issue.pc va)) ∧
      (va.toNat % stBytes v = 0 → StoreData v s.begin y s1 → ∀ u, s1.barred va row.2 u →
        exec (row.1 ⟨v, .glob p, off⟩) s = .next (s.takeTrap .pregion s.issue.pc u))) ∧
  (∀ s, (s.stream.fenced = false → Ungated s s) ∧
    (s.stream.fenced = true → s.core.storesDone s.hind = true → Ungated s (s.modStream fun t => { t with fenced := false })) ∧
    (s.stream.fenced = true → s.core.storesDone s.hind = false → fenceGate s = .error .block)) ∧
  (∀ v p off y s s1 s2 pa, let va := s.begin.globAddr p off
    va.toNat % stBytes v = 0 → StoreData v s.begin y s1 → s1.stream.region.st = .closed → Located va .wr s1 pa s2 →
    s2.dev.modeAt pa = some 0 → s2.dev.propAt pa = false →
    exec (.st ⟨v, .glob p, off⟩) s = .next (s.takeTrap .prot s.issue.pc va) ∧
    exec (.stVol ⟨v, .glob p, off⟩) s = .next (s.takeTrap .prot s.issue.pc va))

/-- R85: over a range whose pages translate, `rwb` writes back the dirty copies of the issuing cluster, `rinv` drops
the copies and counts the dirty ones, and `rinv.chk` does so unless a line is dirty: then DIRTY with its lowest
address. R299: `rwb` ends with its write-backs at their homes; that it waits until they can go at once is the model's choice (log
entry 61). R85: a range of more than 2^30 bytes raises BOUND with its length. R82: `pf` never traps: where it translates, it fills
a copy of a line that the cluster does not hold; where it does not, it changes no register; it waits for its walk, and (log entry
61) for what is on its way to its line's home on another die. R216, R220: in a region the other three raise PREGION with the
address of the range, in post-draw state with 1 (in a failed region too, and the value 1 for them, is the model's reading: log
entry 25). -/
def Obligations.RangeForms : Prop :=
  (∀ (a : PairReg) (b : Src) (d : Dst) l s s1 t, rangeOf a b s.begin = .ok (l, s1) →
    let dirty := l.filter fun p => p.2.mask ≠ 0
    let dropped := s1.setDev (l.foldl (fun dev p => dev.dropCopy (pkgCluster s.me) p.2.ln) s1.dev)
    (exec (.rwb ⟨a, b⟩) s = .next (if s1.dev.backsReady (pkgCluster s.me) (l.map fun p => p.2.ln)
      then s1.setDev (l.foldl (fun dev p => dev.writeBack (pkgCluster s.me) p.2.ln) s1.dev) else s.waitWith id)) ∧
    (Stores d (BitVec.ofNat 32 dirty.length) dropped t → exec (.rinv ⟨d, a, b⟩) s = .next t) ∧
    (dirty = [] → Stores d 0 dropped t → exec (.rinvChk ⟨d, a, b⟩) s = .next t) ∧
    (∀ v, lowestDirty l = some v → exec (.rinvChk ⟨d, a, b⟩) s = .next (s.takeTrap .dirty s.issue.pc ((BitVec.ofNat 52 v).signExtend 64)))) ∧
  (∀ (a : PairReg) (b : Src) (d : Dst) x s s1, Reads b s.begin x s1 → s1.stream.region.st = .closed → s1.core.home = none →
    2 ^ 30 < x.toNat →
    exec (.rwb ⟨a, b⟩) s = .next (s.takeTrap .bound s.issue.pc (x.setWidth 64)) ∧
    exec (.rinv ⟨d, a, b⟩) s = .next (s.takeTrap .bound s.issue.pc (x.setWidth 64)) ∧
    exec (.rinvChk ⟨d, a, b⟩) s = .next (s.takeTrap .bound s.issue.pc (x.setWidth 64))) ∧
  (∀ (a : PairReg) (b : Src) (d : Dst) x s s1 v, Reads b s.begin x s1 → s1.barred (s.begin.pairOf a) false v →
    exec (.rwb ⟨a, b⟩) s = .next (s.takeTrap .pregion s.issue.pc v) ∧ exec (.rinv ⟨d, a, b⟩) s = .next (s.takeTrap .pregion s.issue.pc v) ∧
    exec (.rinvChk ⟨d, a, b⟩) s = .next (s.takeTrap .pregion s.issue.pc v)) ∧
  (∀ (f : PfOp) s, let va := s.begin.globAddr f.a f.off
    (∃ t, exec (.pf f) s = .next t ∧ t.took = none ∧ ∀ h n, (t.core.stream h).reg n =
      (((if t.blocked then s.base else s.begin.dev).core s.me).stream h).reg n) ∧
    (∀ s1 pa, Located va .rd s.begin pa s1 → let home := remote s.me pa = true ∧ s1.dev.copy (pkgCluster s.me) (pa / 64) = none
      (¬home → exec (.pf f) s = .next s1) ∧
      (home → crosses (dieOf s.me) pa = false → exec (.pf f) s = .next (s1.setDev (s1.dev.useCopy (pkgCluster s.me) (pa / 64)).2)) ∧
      (home → crosses (dieOf s.me) pa = true →
        (s1.dev.linkIdle (dieOf s.me) pa = true → exec (.pf f) s =
          .next (s1.setDev ((s1.dev.countCross (dieOf s.me) pa).useCopy (pkgCluster s.me) (pa / 64)).2)) ∧
        (s1.dev.linkIdle (dieOf s.me) pa = false → exec (.pf f) s = .next (s.waitWith id)))) ∧
    (∀ c, globalAddr va .rd s.begin = .error (.trap c va) → ∃ t, exec (.pf f) s = .next t ∧ t.took = none ∧ t.blocked = false ∧
      t.stream = s.begin.stream ∧ t.dev.mem = s.begin.dev.mem ∧ t.dev.caches = s.begin.dev.caches) ∧
    (∀ g, globalAddr va .rd s.begin = .error (.wait g) → exec (.pf f) s = .next (s.waitWith g)))

/-- R86, R87: `cobj` reads its granule, makes an object with an unused nonzero handle, and writes the handle, or 0
when the die's table is full; `cfree` removes the object of its handle; a handle that names none raises COBJ. R88,
R89: `fset`, `fclr` and `fget` of one granule, and `ltag` of one KiB: ALIGN for an offset that is not at one, BOUND for one past the
scratchpad's end, with the offset. R343: `fset`, `fclr` and `ltag` on a journaled region raise PROT. -/
def Obligations.ObjectsFullBitsAndTags : Prop :=
  (∀ f x s s1 s2 frames, Reads f.a s.begin x s1 → s1.stream.region.st = .closed → s1.core.home = none → let o := x.toNat
    o % 16 = 0 → o + 16 ≤ spSize s.me → let c := s1.core; let base := c.spNat o 8; let len := c.spNat (o + 8) 4
    let mode := c.spNat (o + 12) 1; let attr := c.spNat (o + 13) 1; let b := va52 (BitVec.ofNat 64 base)
    base % 64 = 0 → 0 < len → len % 64 = 0 → mode ≤ 2 → attr ≤ 1 → c.spNat (o + 14) 2 = 0 →
    (∀ q ∈ s1.dev.objs, q.part = s1.dev.partOfCore s.me → ¬(b < q.base + q.len ∧ q.base < b + len)) →
    translatePages base (if mode = 0 then .rd else .wr) (pagesOf base len) s1 = .ok (frames, s2) →
    c.storesIn s.hind b len = false → s1.dev.objs.length < 2 ^ 31 →
    (4096 ≤ (s1.dev.objs.filter fun q => q.die == dieOf s.me).length → ∀ t, Stores f.d 0 s2 t → exec (.cobj f) s = .next t) ∧
    ((s1.dev.objs.filter fun q => q.die == dieOf s.me).length < 4096 →
      s1.dev.objectQuiet ⟨dieOf s.me, s1.dev.partOfCore s.me, 0, b, len, mode, attr == 1, frames⟩ = true → ∃ (h : Word) (s3 : State), h ≠ 0 ∧
      (∀ q ∈ s1.dev.objs, q.handle ≠ h) ∧
      s3.dev.objs = s1.dev.objs ++ [⟨dieOf s.me, s1.dev.partOfCore s.me, h, b, len, mode, attr == 1, frames⟩] ∧
      ∀ t, Stores f.d h s3 t → exec (.cobj f) s = .next t)) ∧
  (∀ a h s s1, Reads a s.begin h s1 → s1.stream.region.st = .closed → s1.core.home = none →
    ((∀ q ∈ s1.dev.objs, ¬(q.part = s1.dev.partOfCore s.me ∧ q.handle = h)) →
      exec (.cfree a) s = .next (s.takeTrap .cobj s.issue.pc (h.setWidth 64))) ∧
    (∀ q, (s1.dev.objs.find? fun q => q.part == s1.dev.partOfCore s.me && q.handle == h) = some q →
      s1.core.storesIn s.hind q.base q.len = false → s1.dev.objectQuiet q = true → ∃ t, exec (.cfree a) s = .next t ∧ t.took = none ∧ t.blocked = false ∧
        t.dev.objs = s1.dev.objs.filter fun x => !(x.part == q.part && x.handle == h))) ∧
  (∀ a off x s s1, Reads a s.begin x s1 → let o := (x + off).toNat
    o % 16 = 0 → o + 16 ≤ spSize s.me →
    (s1.core.journals o 16 = false → exec (.fset ⟨a, off⟩) s = .next (s1.modCore fun c => c.setFull o 16 true) ∧
      exec (.fclr ⟨a, off⟩) s = .next (s1.modCore fun c => c.setFull o 16 false)) ∧
    (∀ d t, Stores d (if s1.core.full s.me (o / 16) then 1 else 0) s1 t → exec (.fget ⟨d, a, off⟩) s = .next t)) ∧
  (∀ a b off x v s s1 s2, Reads a s.begin x s1 → Reads b s1 v s2 → let o := (x + off).toNat
    o % 1024 = 0 → o + 1024 ≤ spSize s.me → s2.core.journals o 1024 = false →
    exec (.ltag ⟨a, b, off⟩) s = .next (s2.modCore fun c => { c with spTag := FMap.put c.spTag (o / 1024) (v.setWidth 4) 0 })) ∧
  (∀ a off x s s1, Reads a s.begin x s1 → let o := (x + off).toNat; let v := BitVec.ofNat 64 o
    (∀ i, i ∈ [Instr.fset ⟨a, off⟩, .fclr ⟨a, off⟩] ∨ (∃ d, i = .fget ⟨d, a, off⟩) →
      (o % 16 ≠ 0 → exec i s = .next (s.takeTrap .align s.issue.pc v)) ∧
      (o % 16 = 0 → spSize s.me < o + 16 → exec i s = .next (s.takeTrap .bound s.issue.pc v))) ∧
    (∀ i ∈ [Instr.fset ⟨a, off⟩, .fclr ⟨a, off⟩], o % 16 = 0 → o + 16 ≤ spSize s.me → s1.core.journals o 16 = true →
      exec i s = .next (s.takeTrap .prot s.issue.pc 0)) ∧
    ∀ b, (o % 1024 ≠ 0 → exec (.ltag ⟨a, b, off⟩) s = .next (s.takeTrap .align s.issue.pc v)) ∧
      ∀ y s2, Reads b s1 y s2 → o % 1024 = 0 →
        (spSize s.me < o + 1024 → exec (.ltag ⟨a, b, off⟩) s = .next (s.takeTrap .bound s.issue.pc v)) ∧
        (o + 1024 ≤ spSize s.me → s2.core.journals o 1024 = true → exec (.ltag ⟨a, b, off⟩) s = .next (s.takeTrap .prot s.issue.pc 0)))

/-! ## Class 3 -/

/-- R84, R93, R279, R284, R286: `ReleaseQuery`. Of core scope or wider it waits until what the stream has stored is
performed; of stream or core scope it closes the round at once; of a wider scope it sends a query unless one is open,
waits, and answers the round that the query closed, with the instance that it was sent for. R90 to R93, R287: `relq`
writes the number of the round that it closed; `fence.rel` releases, and of stream scope leaves the wait for the stores
before it to the stream's next store; `fence.acq` acquires once the stream's loads have returned, and `fence.ar` does
both, and from cluster scope on drops the fetched line. That a query and an acquire wait until the write-backs of their lines can
reach their homes at once is the model's choice (log entry 61). R216: in a region every form of the class raises PREGION with the
value 0, in post-draw state with 1 (in a failed region too, and these values, are the model's reading: log entry 25). -/
def Obligations.ReleasesAndFences : Prop :=
  (∀ (sc : Scope) (s : State), let c := s.core
    let mine (q : Query) : Bool := q.hind == s.hind && q.answered && !q.abandoned
    let done := s.dev.allDone s.me s.hind
    let ready := s.dev.backsReady (pkgCluster s.me) (s.dev.releasedLines s.me (s.scopeInst sc))
    (sc ≠ .stream → done = false → releaseQuery sc s = .error .block) ∧
    (done = true → c.storesDone s.hind = true) ∧
    (sc = .stream ∨ (sc = .core ∧ done = true) → Released sc s (BitVec.ofNat 32 c.round) (s.scopeInst sc)
      (s.modCore fun c => { c with round := (c.round + 1) % 2 ^ 32 })) ∧
    (sc ≠ .stream → sc ≠ .core → done = true →
      (∀ q, c.queries.find? mine = some q →
        Released sc s (BitVec.ofNat 32 q.round) q.inst (s.modCore fun c => { c with queries := c.queries.filter fun q => !mine q })) ∧
      (c.queries.find? mine = none →
        ((∃ q ∈ c.queries, q.answered = false) ∨ ready = false → releaseQuery sc s = .error .block) ∧
        ((∀ q ∈ c.queries, q.answered = true) → ready = true → ∃ f, releaseQuery sc s = .error (.wait f) ∧
          f s.dev = s.dev.sendQuery s.me s.hind sc)))) ∧
  (∀ (sc : Scope) (s : State), s.begin.stream.region.st = .closed →
    (∀ r i d s1 t, Released sc s.begin r i s1 → Stores d r s1 t → exec (.relq d sc) s = .next t) ∧
    (s.begin.core.loadsDone s.hind = true →
      (s.begin.mayAcquire (s.begin.scopeInst sc) → exec (.fenceAcq sc) s = .next (s.begin.acquired true (s.begin.scopeInst sc))) ∧
      (¬s.begin.mayAcquire (s.begin.scopeInst sc) → exec (.fenceAcq sc) s = .next (s.waitWith id))) ∧
    (∀ r i s1, Released sc s.begin r i s1 →
      let s2 := if sc = .stream ∧ s1.core.storesDone s.hind = false then s1.modStream fun t => { t with fenced := true } else s1
      exec (.fenceRel sc) s = .next s2 ∧
      (s.begin.core.loadsDone s.hind = true → s2.mayAcquire i → exec (.fenceAr sc) s = .next (if Scope.code sc < 3 then s2.acquired true i
        else (s2.acquired true i).modStream fun t => { t with fetched := none })))) ∧
  (∀ (sc : Scope) (d : Dst) (s : State) v, s.begin.barred 0 false v →
    ∀ i ∈ ([.fenceAcq sc, .fenceRel sc, .fenceAr sc, .relq d sc] : List Instr), exec i s = .next (s.takeTrap .pregion s.issue.pc v))

/-- R91, R92, R227, R289, R291, R335: an atomic reads, modifies and writes its home in one action; the old value goes
to its destination, after a release where its order releases, before an acquire where it acquires. R91: `cas` writes
its third source only where the home holds its second; the old value is delivered either way. R217, R218, R227: an
atomic or `.rel` store to a line that a region has locked waits, with no effect: the seven atomics and `cas` in both
widths and under every order, and `st.rel`. (The waits of R218 are the model's reading for `.rel` stores: log entry
32; the waits of an acquire: log entry 61.) R77, R216, R291, R339: ALIGN for a misaligned address, PREGION in a region, POISON for a
poisoned granule, and SCOPE, with the round closed that the access has closed itself; the line is not written. (That a failed
region raises PREGION too, with 1 in post-draw state, is the model's reading: log entry 25; so is that an atomic needs write
permission alone: log entry 68; that POISON comes before SCOPE is its choice: log entry 117; so is that a round closed at stream or
core scope is open again after PAGE, PROT or POISON, and one closed by an answered query stays closed: log entry 108; and which source
takes the older entry where two name one queue register: log entry 81.) -/
def Obligations.Atomics : Prop :=
  (∀ row ∈ ([(Instr.amoAdd, fun _ a b => a + b), (Instr.amoMin, fun _ a b => if a.toInt < b.toInt then a else b),
      (Instr.amoMax, fun _ a b => if a.toInt < b.toInt then b else a), (Instr.amoAnd, fun _ a b => a &&& b),
      (Instr.amoOr, fun _ a b => a ||| b), (Instr.amoXor, fun _ a b => a ^^^ b), (Instr.amoSwap, fun _ _ b => b)]
      : List ((AmoOp → Instr) × ((w : Nat) → BitVec w → BitVec w → BitVec w))),
    ∀ (ord : Ord3) (sc : Scope) a s s0 s1 s2 s3 s4 i pa, let va := s.begin.pairOf a
      s0.stream.region.st = .closed → s0.core.home = none → Ungated s0 s1 → Ordered ord sc s1 i s2 →
      Located va .wr s2 pa s3 → s3.dev.modeAt pa ≠ some 0 → Reached .volStore pa s3 s4 →
      (∀ d b x, Reads b s.begin x s0 → va.toNat % 4 = 0 →
        (s4.dev.locked pa = true → exec (row.1 ⟨.w d a b, ord, sc⟩) s = .next (s.waitWith id)) ∧
        (∀ dev t, s4.dev.locked pa = false → s4.dev.loadBad s.me pa 4 true = none → s4.dev.scopeCheck pa i = some dev →
          let r := dev.loadHome s.me pa 4
          let old : Word := BitVec.ofNat 32 r.1
          Stores d old (s4.setDev ((r.2.prqInterrupt pa).storeHome s.me pa (leBytes 4 (row.2 32 old x).toNat))) t →
          (ord = .acq ∨ ord = .ar → t.mayAcquire i) →
          exec (row.1 ⟨.w d a b, ord, sc⟩) s = .next (t.acquired (ord == .acq || ord == .ar) i))) ∧
      (∀ d b, s0 = s.begin → va.toNat % 8 = 0 →
        (s4.dev.locked pa = true → exec (row.1 ⟨.d d a b, ord, sc⟩) s = .next (s.waitWith id)) ∧
        (∀ dev, s4.dev.locked pa = false → s4.dev.loadBad s.me pa 8 true = none → s4.dev.scopeCheck pa i = some dev →
          let r := dev.loadHome s.me pa 8
          let old : DWord := BitVec.ofNat 64 r.1
          let t := (s4.setDev ((r.2.prqInterrupt pa).storeHome s.me pa
            (leBytes 8 (row.2 64 old (s.begin.pairOf b)).toNat))).putPair (.even d) old
          (ord = .acq ∨ ord = .ar → t.mayAcquire i) →
          exec (row.1 ⟨.d d a b, ord, sc⟩) s = .next (t.acquired (ord == .acq || ord == .ar) i)))) ∧
  (∀ (ord : Ord3) (sc : Scope) a s s0 s1 s2 s3 s4 i pa, let va := s.begin.pairOf a
    s0.stream.region.st = .closed → s0.core.home = none → Ungated s0 s1 → Ordered ord sc s1 i s2 →
    Located va .wr s2 pa s3 → s3.dev.modeAt pa ≠ some 0 → Reached .volStore pa s3 s4 →
    (∀ d b c x y s', Reads b s.begin x s' → Reads c s' y s0 → va.toNat % 4 = 0 →
      (s4.dev.locked pa = true → exec (.cas ⟨.w d a b c, ord, sc⟩) s = .next (s.waitWith id)) ∧
      (∀ dev t, s4.dev.locked pa = false → s4.dev.loadBad s.me pa 4 true = none → s4.dev.scopeCheck pa i = some dev →
        let r := dev.loadHome s.me pa 4
        let d1 := r.2.prqInterrupt pa
        Stores d (BitVec.ofNat 32 r.1) (s4.setDev (if r.1 = x.toNat then d1.storeHome s.me pa (leBytes 4 y.toNat) else d1)) t →
        (ord = .acq ∨ ord = .ar → t.mayAcquire i) →
        exec (.cas ⟨.w d a b c, ord, sc⟩) s = .next (t.acquired (ord == .acq || ord == .ar) i))) ∧
    (∀ d b c, s0 = s.begin → va.toNat % 8 = 0 →
      (s4.dev.locked pa = true → exec (.cas ⟨.d d a b c, ord, sc⟩) s = .next (s.waitWith id)) ∧
      (∀ dev, s4.dev.locked pa = false → s4.dev.loadBad s.me pa 8 true = none → s4.dev.scopeCheck pa i = some dev →
        let r := dev.loadHome s.me pa 8
        let d1 := r.2.prqInterrupt pa
        let old : DWord := BitVec.ofNat 64 r.1
        let t := (s4.setDev (if r.1 = (s.begin.pairOf b).toNat
          then d1.storeHome s.me pa (leBytes 8 (s.begin.pairOf c).toNat) else d1)).putPair (.even d) old
        (ord = .acq ∨ ord = .ar → t.mayAcquire i) →
        exec (.cas ⟨.d d a b c, ord, sc⟩) s = .next (t.acquired (ord == .acq || ord == .ar) i)))) ∧
  (∀ v p off sc y r i s s0 s1 s2 s3 s4 pa, let va := s.begin.globAddr p off
    va.toNat % stBytes v = 0 → StoreData v s.begin y s0 → s0.stream.region.st = .closed → s0.core.home = none → Ungated s0 s1 →
    Released sc s1 r i s2 → Located va .wr s2 pa s3 → s3.dev.modeAt pa ≠ some 0 → Reached .volStore pa s3 s4 →
    s4.dev.locked pa = true → exec (.stRel ⟨v, .glob p, off⟩ sc) s = .next (s.waitWith id)) ∧
  (∀ i ord sc a n l s s0, atomShape i = some (ord, sc, a, n, l) → ReadsAll l s.begin s0 → let va := s.begin.pairOf a
    (va.toNat % n ≠ 0 → exec i s = .next (s.takeTrap .align s.issue.pc va)) ∧
    (va.toNat % n = 0 → ∀ v, s0.barred va false v → exec i s = .next (s.takeTrap .pregion s.issue.pc v)) ∧
    (va.toNat % n = 0 → s0.stream.region.st = .closed → s0.core.home = none → ∀ k s1 s2 s3 s4 pa, Ungated s0 s1 →
      Ordered ord sc s1 k s2 → Located va .wr s2 pa s3 → s3.dev.modeAt pa ≠ some 0 → Reached .volStore pa s3 s4 →
      s4.dev.locked pa = false →
      (∀ b, s4.dev.loadBad s.me pa n true = some b → exec i s = .next (s.takeTrap .poison s.issue.pc (besideVa va pa b))) ∧
      (s4.dev.loadBad s.me pa n true = none → s4.dev.scopeCheck pa k = none → exec i s = .next (s.takeTrapAfter
        (fun d => if (ord = .rel ∨ ord = .ar) ∧ Scope.code sc < 2 then d.modCore s.me fun c => { c with round := (c.round + 1) % 2 ^ 32 }
          else d) .scope s.issue.pc va))))

/-! ## Classes 5 and 6 -/

/-- R131, R132: the two-source element-wise forms on w-bit elements a and b, integers modulo 2^w or saturated, floats by `k.frm`:
every active element of the destination takes its result, and the flags of the active elements are raised. R132: the vector
compares write the integer 1 or 0 into each active container, whatever the type. R132: `vfma` (d + a × b, with one rounding on
floats), `vsel` and `vmov`. (Which source takes the older entry where two name one queue register is the model's choice: log entry
81.) R101, R131: a NaN that `vsel` delivers is the canonical one (that a signalling one sets NV is the model's reading: log entry
93); `vmov` changes no pattern. -/
def Obligations.VectorArithmetic : Prop :=
  (∀ row ∈ ([(Instr.vadd, fun w a b => (a + b) % 2 ^ w, fun f m a b => deliver f m (addVal m (unpack f a) (unpack f b))),
      (Instr.vsub, fun w a b => (a + (2 ^ w - b)) % 2 ^ w, fun f m a b => deliver f m (addVal m (unpack f a) (negVal (unpack f b)))),
      (Instr.vmul, fun w a b => a * b % 2 ^ w, fun f m a b => deliver f m (mulVal (unpack f a) (unpack f b))),
      (Instr.vmin, fun w a b => if signedOf w a ≤ signedOf w b then a else b, fun f _ a b => minMaxBits f false a b),
      (Instr.vmax, fun w a b => if signedOf w a ≤ signedOf w b then b else a, fun f _ a b => minMaxBits f true a b),
      (Instr.vadds, fun w a b => patternOf w (max (-(2 ^ (w - 1))) (min (2 ^ (w - 1) - 1) (signedOf w a + signedOf w b))), fun _ _ _ _ => (0, 0)),
      (Instr.vsubs, fun w a b => patternOf w (max (-(2 ^ (w - 1))) (min (2 ^ (w - 1) - 1) (signedOf w a - signedOf w b))), fun _ _ _ _ => (0, 0)),
      (Instr.vand, fun _ a b => a &&& b, fun _ _ _ _ => (0, 0)), (Instr.vor, fun _ a b => a ||| b, fun _ _ _ _ => (0, 0)),
      (Instr.vxor, fun _ a b => a ^^^ b, fun _ _ _ _ => (0, 0)),
      (Instr.vshl, fun w a b => a * 2 ^ (b % w) % 2 ^ w, fun _ _ _ _ => (0, 0)),
      (Instr.vshr, fun w a b => a / 2 ^ (b % w), fun _ _ _ _ => (0, 0)),
      (Instr.vsra, fun w a b => patternOf w (signedOf w a / 2 ^ (b % w)), fun _ _ _ _ => (0, 0))]
      : List ((V3 → Instr) × (Nat → Nat → Nat → Nat) × (FFmt → Rm → Nat → Nat → FRes))),
    ∀ f s s1 s2 la lb t, (row.1 f).wf = true → typeFits s.begin.acct f.ty = true →
      s.begin.rowsFree (dstRows f.d ++ srcRows f.a ++ srcRows f.b ++ predRows f.pred) →
      VReads s.begin.acct f.a f.i s.begin la s1 → VReads s.begin.acct f.b f.i s1 lb s2 →
      let w := f.ty.width
      let rs : List FRes := (la.zip lb).map fun p => if f.ty.isInt then (row.2.1 w (p.1 % 2 ^ w) (p.2 % 2 ^ w), 0)
        else row.2.2 f.ty.ffmt (s.begin.rmOf none) (p.1 % 2 ^ w) (p.2 % 2 ^ w)
      VWrites s.begin.acct f.ty f.d f.i (s2.activeElems f.pred) (rs.map fun r => heldIn s.begin.acct f.ty r.1)
        (s2.anyBad (srcRows f.a ++ srcRows f.b ++ predRows f.pred)) (s2.raise (flagsOf (s2.activeElems f.pred) rs)) t →
      exec (row.1 f) s = .next t.vectorNoted) ∧
  (∀ row ∈ ([(Instr.vceq, fun a b => decide (a = b), feqBits), (Instr.vcne, fun a b => decide (a ≠ b), fneBits),
      (Instr.vclt, fun a b => decide (a < b), fltBits), (Instr.vcle, fun a b => decide (a ≤ b), fleBits)]
      : List ((V3 → Instr) × (Int → Int → Bool) × (FFmt → Nat → Nat → Bool × Flags))),
    ∀ f s s1 s2 la lb t, typeFits s.begin.acct f.ty = true →
      s.begin.rowsFree (dstRows f.d ++ srcRows f.a ++ srcRows f.b ++ predRows f.pred) →
      VReads s.begin.acct f.a f.i s.begin la s1 → VReads s.begin.acct f.b f.i s1 lb s2 →
      let w := f.ty.width
      let rs : List FRes := (la.zip lb).map fun p =>
        let r := if f.ty.isInt then (row.2.1 (signedOf w p.1) (signedOf w p.2), 0) else row.2.2 f.ty.ffmt (p.1 % 2 ^ w) (p.2 % 2 ^ w)
        (if r.1 then 1 else 0, r.2)
      VWrites s.begin.acct f.ty f.d f.i (s2.activeElems f.pred) (rs.map (·.1))
        (s2.anyBad (srcRows f.a ++ srcRows f.b ++ predRows f.pred)) (s2.raise (flagsOf (s2.activeElems f.pred) rs)) t →
      exec (row.1 f) s = .next t.vectorNoted) ∧
  (∀ f s s1 s2 la lb, typeFits s.begin.acct f.ty = true → s.begin.rowsFree ([f.d.val] ++ srcRows f.a ++ srcRows f.b ++ predRows f.pred) →
    VReads s.begin.acct f.a f.i s.begin la s1 → VReads s.begin.acct f.b f.i s1 lb s2 →
    let w := f.ty.width
    let fmt := f.ty.ffmt
    let rs : List FRes := ((s2.rowVals f.d.val).zip (la.zip lb)).map fun p =>
      if f.ty.isInt then (patternOf w (signedOf w p.1 + signedOf w p.2.1 * signedOf w p.2.2), 0)
      else deliver fmt (s.begin.rmOf none) (fmaVal (s.begin.rmOf none) (unpack fmt (p.1 % 2 ^ w)) (unpack fmt (p.2.1 % 2 ^ w)) (unpack fmt (p.2.2 % 2 ^ w)))
    s2.acct = s.begin.acct →
    exec (.vfma f) s = .next ((s2.raise (flagsOf (s2.activeElems f.pred) rs)).putRow f.d.val (s2.activeElems f.pred)
      (rs.map fun r => heldIn s.begin.acct f.ty r.1) (s2.anyBad ([f.d.val] ++ srcRows f.a ++ srcRows f.b ++ predRows f.pred))).vectorNoted) ∧
  (∀ f s s1 s2 la lb t, typeFits s.begin.acct f.ty = true →
    s.begin.rowsFree (dstRows f.d ++ srcRows f.a ++ srcRows f.b ++ [f.c.val] ++ predRows f.pred) →
    VReads s.begin.acct f.a f.i s.begin la s1 → VReads s.begin.acct f.b f.i s1 lb s2 → s2.acct = s.begin.acct →
    let fmt := f.ty.ffmt
    let rs : List FRes := ((s2.rowVals f.c.val).zip (la.zip lb)).map fun p =>
      let x := (if p.1 ≠ 0 then p.2.1 else p.2.2) % 2 ^ f.ty.width
      if f.ty.isInt = false ∧ (unpack fmt x).isNan = true then (fmt.nan, if (unpack fmt x).isSig then flagNV else 0) else (x, 0)
    VWrites s.begin.acct f.ty f.d f.i (s2.activeElems f.pred) (rs.map fun r => heldIn s.begin.acct f.ty r.1)
      (s2.anyBad (srcRows f.a ++ srcRows f.b ++ [f.c.val] ++ predRows f.pred)) (s2.raise (flagsOf (s2.activeElems f.pred) rs)) t →
    exec (.vsel f) s = .next t.vectorNoted) ∧
  (∀ f s s1 la t, typeFits s.begin.acct f.ty = true → s.begin.rowsFree (dstRows f.d ++ srcRows f.a ++ predRows f.pred) →
    VReads s.begin.acct f.a f.i s.begin la s1 →
    VWrites s.begin.acct f.ty f.d f.i (s1.activeElems f.pred)
      (if srcRows f.a = [] then la.map (heldIn s.begin.acct f.ty) else la) (s1.anyBad (srcRows f.a ++ predRows f.pred)) s1 t →
    exec (.vmov f) s = .next t.vectorNoted)

/-- R132, R137, R135: the one-source element-wise forms: `vabs`, `vneg`, the special functions and `vcvt`. R137: the special inputs have
the outcomes of its table; each function's exact value is rounded once by `k.frm`, 1/a and 1/√a at every input, and 2^a, log2 a and
tanh a, where they are not exact, on the inputs that the model's precision decides (all others are the model's choice: log entry 13). -/
def Obligations.VectorUnaryForms : Prop :=
  (∀ row ∈ ([(Instr.vabs, fun ty _ a => (if ty.isInt then (signedOf ty.width a).natAbs % 2 ^ ty.width else absBits ty.ffmt a, 0)),
      (Instr.vneg, fun ty _ a => (if ty.isInt then (2 ^ ty.width - a) % 2 ^ ty.width else negBits ty.ffmt a, 0)),
      (Instr.vexp2, fun ty m a => exp2Res ty.ffmt m (unpack ty.ffmt a)), (Instr.vlog2, fun ty m a => log2Res ty.ffmt m (unpack ty.ffmt a)),
      (Instr.vtanh, fun ty m a => tanhRes ty.ffmt m (unpack ty.ffmt a)),
      (Instr.vrcp, fun ty m a => deliver ty.ffmt m (divVal (.fin false 1 0) (unpack ty.ffmt a))),
      (Instr.vrsqrt, fun ty m a => deliver ty.ffmt m (rsqrtVal (unpack ty.ffmt a)))]
      : List ((V2 → Instr) × (VTy → Rm → Nat → FRes))),
    ∀ f s s1 la t, typeFits s.begin.acct f.ty = true → s.begin.rowsFree (dstRows f.d ++ srcRows f.a ++ predRows f.pred) →
      VReads s.begin.acct f.a f.i s.begin la s1 →
      let rs := la.map fun x => row.2 f.ty (s.begin.rmOf none) (x % 2 ^ f.ty.width)
      VWrites s.begin.acct f.ty f.d f.i (s1.activeElems f.pred) (rs.map fun r => heldIn s.begin.acct f.ty r.1)
        (s1.anyBad (srcRows f.a ++ predRows f.pred)) (s1.raise (flagsOf (s1.activeElems f.pred) rs)) t →
      exec (row.1 f) s = .next t.vectorNoted) ∧
  (∀ f ∈ [fp32, fp16, bf16], ∀ rm : Rm,
    let rcp (v : FVal) : FRes := deliver f rm (divVal (.fin false 1 0) v); let rsqrt (v : FVal) : FRes := deliver f rm (rsqrtVal v)
    let nan (sig : Bool) : FRes := (f.nan, if sig then flagNV else 0)
    let correct (neg : Bool) (z : ℝ) (r : FRes) : Prop := f.RoundedTo rm neg z r.1 ∧ f.Flagged rm neg z False r.2
    (∀ sig, exp2Res f rm (.nan sig) = nan sig ∧ log2Res f rm (.nan sig) = nan sig ∧ rcp (.nan sig) = nan sig ∧ rsqrt (.nan sig) = nan sig ∧
      tanhRes f rm (.nan sig) = nan sig) ∧
    (∀ n e, let v : FVal := .fin n 0 e
      f.Rounded rm false 1 (exp2Res f rm v) ∧ log2Res f rm v = (f.inf true, flagDZ) ∧ rcp v = (f.inf n, flagDZ) ∧ rsqrt v = (f.inf n, flagDZ) ∧
      tanhRes f rm v = (f.zero n, 0)) ∧
    (exp2Res f rm (.inf false) = (f.inf false, 0) ∧ exp2Res f rm (.inf true) = (f.zero false, 0) ∧ log2Res f rm (.inf false) = (f.inf false, 0) ∧
      log2Res f rm (.inf true) = nan true ∧ rcp (.inf false) = (f.zero false, 0) ∧ rcp (.inf true) = (f.zero true, 0) ∧
      rsqrt (.inf false) = (f.zero false, 0) ∧ rsqrt (.inf true) = nan true ∧ f.Rounded rm false 1 (tanhRes f rm (.inf false)) ∧
      f.Rounded rm true (-1) (tanhRes f rm (.inf true))) ∧
    ∀ b n m e, unpack f b = .fin n m e → m ≠ 0 → let v : FVal := .fin n m e; let x : ℝ := (if n then -1 else 1) * (m : ℝ) * 2 ^ e
      f.Rounded rm n (1 / x) (rcp v) ∧
      (x < 0 → rsqrt v = nan true ∧ log2Res f rm v = nan true) ∧ (0 < x → f.Rounded rm false (1 / Real.sqrt x) (rsqrt v)) ∧
      (∀ k : ℤ, x = k → f.Rounded rm false (2 ^ k) (exp2Res f rm v)) ∧
      ((∀ k : ℤ, x ≠ k) → 2 ^ 15 ≤ |x| ∨ (∃ p ∈ precisions, ((exp2Encl n m e p).decide f rm false).isSome = true) →
        correct false ((2 : ℝ) ^ x) (exp2Res f rm v)) ∧
      (∀ k : ℤ, x = 2 ^ k → (k = 0 → log2Res f rm v = (f.zero false, 0)) ∧ (k ≠ 0 → f.Rounded rm (decide (k < 0)) k (log2Res f rm v))) ∧
      (0 < x → (∀ k : ℤ, x ≠ 2 ^ k) → (∃ p ∈ precisions, ((log2Encl m e p).decide f rm (log2Neg m e)).isSome = true) →
        ∀ s : Bool, (s = true ↔ x < 1) → correct s (Real.logb 2 x) (log2Res f rm v)) ∧
      ((∃ p ∈ precisions, ((tanhEncl m (min e 16) p).decide f rm n).isSome = true) → correct n (Real.tanh x) (tanhRes f rm v))) ∧
  (∀ f s t, typeFits s.begin.acct f.src = true → typeFits s.begin.acct f.dst = true →
    s.begin.rowsFree (dstRows f.d ++ [f.a.val] ++ predRows f.pred) →
    let rs := (s.begin.rowVals f.a.val).map (convertElem (s.begin.rmOf none) f.src f.dst)
    VWrites s.begin.acct f.dst f.d f.i (s.begin.activeElems f.pred) (rs.map fun r => heldIn s.begin.acct f.dst r.1)
      (s.begin.anyBad ([f.a.val] ++ predRows f.pred)) (s.begin.raise (flagsOf (s.begin.activeElems f.pred) rs)) t →
    exec (.vcvt f) s = .next t.vectorNoted)

/-- R142 to R145: the scratchpad forms of classes 5 and 6 within the scratchpad: `vld` and `vmask` fill the active
elements of a row; `vst` stores them; `vgath` and `vscat` take each element's place from an index row. R28: `vmask` reads the
scratchpad as it was before the group, beside a store of lane 0 its old bytes (log entry 89). (What a row holds of poison after
these forms is read from R339 by inference: log entry 70.) -/
def Obligations.VectorMemoryForms : Prop :=
  (∀ (f : VLdOp) x s s1, typeFits s.begin.acct f.ty = true → s.begin.rowsFree ([f.d.val] ++ predRows f.pred) → Reads f.a s.begin x s1 →
    s1.acct = s.begin.acct → let o := (x + f.off).toNat; let n := contN s1.acct * f.ty.width / 8
    o % 16 = 0 → o + n ≤ spSize s.me →
    exec (.vld f) s = .next ((s1.noteGone o n).putRow f.d.val (s1.activeElems f.pred)
      ((unpackN f.ty.width (contN s1.acct) ((s1.noteGone o n).core.spNat o n)).map (heldIn s1.acct f.ty))
      (s1.anyBad (predRows f.pred) || (s1.baseCore.ownBad o n).isSome)).vectorNoted) ∧
  (∀ (f : VLdOp) x s s1, f.ty = (if s.begin.acct then .i16 else .i32) → s.begin.rowsFree ([f.d.val] ++ predRows f.pred) →
    Reads f.a s.begin x s1 → s1.acct = s.begin.acct → let o := (x + f.off).toNat; let n := contN s1.acct / 8
    o % n = 0 → o + n ≤ spSize s.me →
    exec (.vmask f) s = .next ((s1.noteGone o n).putRow f.d.val (s1.activeElems f.pred)
      (unpackN 1 (contN s1.acct) (s1.baseCore.spNat o n))
      (s1.anyBad (predRows f.pred) || (s1.baseCore.ownBad o n).isSome)).vectorNoted) ∧
  (∀ (f : VStOp) x s s1 t, typeFits s.begin.acct f.ty = true → s.begin.rowsFree ([f.b.val] ++ predRows f.pred) → Reads f.a s.begin x s1 →
    s1.acct = s.begin.acct → let o := (x + f.off).toNat; let n := contN s1.acct * f.ty.width / 8
    o % 16 = 0 → o + n ≤ spSize s.me →
    Performs ((runsOf o (elementBytes f.ty.width (s1.activeElems f.pred) (s1.rowVals f.b.val)) none).forM fun r =>
      spWriteIn (s1.core.journals o n) r.1 r.2 false (s1.anyBad ([f.b.val] ++ predRows f.pred))) s1 t →
    exec (.vst f) s = .next t.vectorNoted) ∧
  (∀ (f : VGathOp) x s s1 t, typeFits s.begin.acct f.ty = true → s.begin.rowsFree ([f.d.val, f.b.val] ++ predRows f.pred) →
    Reads f.a s.begin x s1 → s1.acct = s.begin.acct → let o := (x + f.off).toNat; let k := f.ty.width / 8
    let addrs := (s1.rowVals f.b.val).map fun i => o + i * k
    let live := ((addrs.zip (s1.activeElems f.pred)).filter (·.2)).map (·.1)
    o % k = 0 → (∀ p ∈ live, p + k ≤ spSize s.me) → Performs (live.forM fun p => spDisc p k) s1 t →
    exec (.vgath f) s = .next (t.putRow f.d.val (s1.activeElems f.pred)
      ((addrs.zip (s1.activeElems f.pred)).map fun p => if p.2 then heldIn s1.acct f.ty (s1.core.spNat p.1 k) else 0)
      (s1.anyBad ([f.b.val] ++ predRows f.pred) || live.any fun p => (s1.core.ownBad p k).isSome)).vectorNoted) ∧
  (∀ (f : VScatOp) x s s1 t, typeFits s.begin.acct f.ty = true → s.begin.rowsFree ([f.b.val, f.c.val] ++ predRows f.pred) →
    Reads f.a s.begin x s1 → s1.acct = s.begin.acct → let o := (x + f.off).toNat; let k := f.ty.width / 8
    let addrs := (s1.rowVals f.c.val).map fun i => o + i * k
    o % k = 0 → (∀ p ∈ addrs.zip (s1.activeElems f.pred), p.2 = true → p.1 + k ≤ spSize s.me) →
    let live := (addrs.zip ((s1.activeElems f.pred).zip (s1.rowVals f.b.val))).filter (·.2.1)
    Performs (live.forM fun p =>
      spWriteIn (live.any fun q => s1.core.journals q.1 k) p.1 (leBytes k p.2.2) false (s1.anyBad ([f.b.val, f.c.val] ++ predRows f.pred))) s1 t →
    exec (.vscat f) s = .next t.vectorNoted)

/-- R116, R130, R138 to R140: the reductions of a row without poison: `vsum` (integers modulo 2^32, floats by the tree of R116),
`vmaxr` and `vpop` write element 0 (and 1) of their destination and the lane's latch. R139: `vmaxr` gives the greatest active
element and the lowest index that holds it; a NaN only where every active element is one, then the canonical NaN at the lowest
active index; and with none active the least integer or the canonical NaN, and the index 0xFFFF_FFFF; a signalling NaN among the
active elements sets NV. (That `vpop` writes its count as a container value is the model's choice: log entry 88; that these
elements are written whatever the predicate makes of them, its reading: log entry 101.) R141: `vresid` keeps the positive
differences and their sum, or gives back the first operand, marked by the sign of the latch, where the sum is +0. -/
def Obligations.VectorReductions : Prop :=
  (∀ (f : VRed) (s : State), typeFits s.begin.acct f.ty = true → s.begin.rowsFree ([f.d.val, f.a.val] ++ predRows f.pred) →
    (∀ r ∈ [f.a.val] ++ predRows f.pred, s.begin.baseCore.rowBad r = false) →
    let w := f.ty.width
    let active := s.begin.activeElems f.pred
    let vals := ((s.begin.rowVals f.a.val).zip active).map fun p => if p.2 then p.1 % 2 ^ w else 0
    let n := contN s.begin.acct
    let first := (List.range n).map (· == 0)
    (f.ty.isInt = true → let sum : Int := (vals.map (signedOf w)).foldl (· + ·) 0
      exec (.vsum f) s = .next ((s.begin.putRow f.d.val first (List.replicate n (patternOf (contW s.begin.acct)
        (satInt (contW s.begin.acct) (BitVec.ofInt 32 sum).toInt))) false).latched (BitVec.ofInt 32 sum)).vectorNoted) ∧
    (f.ty.isInt = false → let r := treeSum f.ty.ffmt (s.begin.rmOf none) vals
      exec (.vsum f) s = .next (((s.begin.raise r.2).putRow f.d.val first (List.replicate n (heldIn s.begin.acct f.ty r.1)) false).latched
        (BitVec.ofNat 32 r.1)).vectorNoted) ∧
    (let k := (vals.filter (· ≠ 0)).length;
      exec (.vpop f) s = .next ((s.begin.putRow f.d.val first (List.replicate n k) false).latched (BitVec.ofNat 32 k)).vectorNoted) ∧
    (∃ (v idx : Nat) (fl : Flags), let fmt := f.ty.ffmt
      let at_ (j y : Nat) : Prop := active[j]? = some true ∧ ∃ x, (s.begin.rowVals f.a.val)[j]? = some x ∧ y = x % 2 ^ w
      let nan (y : Nat) : Prop := (unpack fmt y).isNan = true
      ((∀ j y, ¬at_ j y) → idx = 0xFFFFFFFF ∧ v = if f.ty.isInt then 2 ^ (w - 1) else fmt.nan) ∧
      (f.ty.isInt = true → fl = 0 ∧ ((∃ j y, at_ j y) → at_ idx v ∧
        ∀ j y, at_ j y → signedOf w y < signedOf w v ∨ (signedOf w y = signedOf w v ∧ idx ≤ j))) ∧
      (f.ty.isInt = false →
        ((∃ j y, at_ j y ∧ (unpack fmt y).isSig = true) → fl = flagNV) ∧ ((∀ j y, at_ j y → (unpack fmt y).isSig = false) → fl = 0) ∧
        ((∃ j y, at_ j y) → (∀ j y, at_ j y → nan y) → v = fmt.nan ∧ (∃ y, at_ idx y) ∧ ∀ j y, at_ j y → idx ≤ j) ∧
        ((∃ j y, at_ j y ∧ ¬nan y) → at_ idx v ∧ ¬nan v ∧
          ∀ j y, at_ j y → nan y ∨ belowVal (unpack fmt y) (unpack fmt v) = true ∨
            (belowVal (unpack fmt v) (unpack fmt y) = false ∧ idx ≤ j))) ∧
      exec (.vmaxr f) s = .next (((s.begin.raise fl).putRow f.d.val ((List.range n).map fun i => decide (i < 2))
        ([heldIn s.begin.acct f.ty v, idx] ++ List.replicate (n - 2) 0) false).latched (BitVec.ofNat 32 idx)).vectorNoted)) ∧
  (∀ (f : VResidOp) (s : State), typeFits s.begin.acct f.ty = true → s.begin.rowsFree ([f.d.val, f.a.val, f.b.val] ++ predRows f.pred) →
    (∀ r ∈ [f.a.val, f.b.val] ++ predRows f.pred, s.begin.baseCore.rowBad r = false) →
    let w := f.ty.width
    let fmt := f.ty.ffmt
    let m := s.begin.rmOf none
    let active := s.begin.activeElems f.pred
    let rs := ((s.begin.rowVals f.a.val).zip (s.begin.rowVals f.b.val)).map fun x => residual fmt m (x.1 % 2 ^ w) (x.2 % 2 ^ w)
    let res := activeVals w (rs.map (·.1)) active
    let sum := treeSum fmt m res
    let s1 := s.begin.raise (flagsOf active rs ||| sum.2)
    (sum.1 ≠ 0 → exec (.vresid f) s = .next ((s1.putRow f.d.val active (res.map (heldIn s.begin.acct f.ty)) false).latched
      (BitVec.ofNat 32 sum.1)).vectorNoted) ∧
    (sum.1 = 0 → let back := activeVals w (s.begin.rowVals f.a.val) active
      let total := treeSum fmt m back
      exec (.vresid f) s = .next ((((s1.raise total.2).putRow f.d.val active (back.map (heldIn s.begin.acct f.ty)) false).latched
        (BitVec.ofNat 32 (total.1 ||| fmt.signBit))).modCore fun c => { c with cr := { c.cr with rzero := c.cr.rzero + 1 } }).vectorNoted))

/-- R136, R147, R149, R150, R152: the forms that draw: each active lane, in ascending order, gives GenOut of its key and counter, or
in tape mode the tape's word for its index, and moves its counter and index on; where the tape has no word for a lane, the lowest
such lane raises BOUND with its index and no generator changes, before the checks of a window destination (the model's choice: log
entry 87). In a group whose other half has drawn, a draw comes after those of
that half (R151); beside one that sets generators it is of the generator as it stood before the group, whose counter and index it
moves on (R28; that they overwrite what lane 0 has written there is the model's choice: log entry 91). `gkey` and `gctr` set
generators; their stream form runs with any `k.acct` (the model's choice: log entry 90). -/
def Obligations.DrawsAndGenerators : Prop :=
  (∀ (f : VRandOp) s, s.begin.acct = false → s.begin.rowsFree (dstRows f.d ++ predRows f.pred) → let active := s.begin.activeElems f.pred
    (∀ dvs t, s.begin.LaneDraws active dvs →
      VWrites false f.ty f.d f.i active (dvs.map (drawElem f.ty)) (s.begin.anyBad (predRows f.pred)) (s.begin.lanesDrawn active) t →
      exec (.vrand f) s = .next t.vectorNoted) ∧
    (∀ i, let gen (j : Nat) : Gen := s.begin.laneCore.lane s.me j
      s.begin.baseCore.cr.rngmode = true → active.getD i false = true → s.begin.baseCore.tapeHolds (gen i).idx = false →
      (∀ j, j < i → active.getD j false = true → s.begin.baseCore.tapeHolds (gen j).idx = true) →
      exec (.vrand f) s = .next (s.takeTrap .bound s.issue.pc ((gen i).idx.setWidth 64)))) ∧
  (∀ (f : VCvtOp) s, s.begin.acct = false → s.begin.rowsFree (dstRows f.d ++ [f.a.val] ++ predRows f.pred) →
    let active := s.begin.activeElems f.pred
    (∀ dvs t, s.begin.LaneDraws active dvs → let rs := ((s.begin.rowVals f.a.val).zip dvs).map fun p => stochastic p.1 p.2.toNat
      VWrites false .bf16 f.d f.i active (rs.map fun r => heldIn false .bf16 r.1) (s.begin.anyBad ([f.a.val] ++ predRows f.pred))
        ((s.begin.lanesDrawn active).raise (flagsOf active rs)) t → exec (.vcvtSr f) s = .next t.vectorNoted) ∧
    (∀ i, let gen (j : Nat) : Gen := s.begin.laneCore.lane s.me j
      s.begin.baseCore.cr.rngmode = true → active.getD i false = true → s.begin.baseCore.tapeHolds (gen i).idx = false →
      (∀ j, j < i → active.getD j false = true → s.begin.baseCore.tapeHolds (gen j).idx = true) →
      exec (.vcvtSr f) s = .next (s.takeTrap .bound s.issue.pc ((gen i).idx.setWidth 64)))) ∧
  (∀ (c : Core) (idx : Word), c.tapeHolds idx = true ↔ ∃ a, c.tapeArea = some a ∧ 4 * idx.toNat + 4 ≤ a.len) ∧
  (∀ row ∈ ([(Instr.gkey, fun g hi lo => { g with key := hi ++ lo }), (Instr.gctr, fun g hi lo => { g with ctr := hi ++ lo, idx := lo })]
      : List ((GenOp → Instr) × (Gen → Word → Word → Gen))),
    (∀ n a pred s hi s1, isMoraine s.me = false → s.begin.acct = false → s1.acct = false → s.begin.rowsFree ([n.val] ++ predRows pred) →
      Reads a s.begin hi s1 →
      exec (row.1 (.lane n a pred)) s = .next (s1.modCore fun c => (List.range (s1.rowVals n.val).length).foldl (fun c i =>
        if (s1.activeElems pred).getD i false then
          c.setLane i (row.2 (c.lane s1.me i) hi (BitVec.ofNat 32 ((s1.rowVals n.val).getD i 0))) else c) c).vectorNoted) ∧
    (∀ x a s hi lo s1 s2, isMoraine s.me = false → s.begin.baseCore.cr.priv = true → Reads a s.begin hi s1 → Reads x s1 lo s2 →
      exec (row.1 (.stream x a)) s =
        .next (s2.modCore fun c => c.setGen s2.hind (row.2 (c.gen s2.hind) hi lo)).vectorNoted))

/-! ## Class 7 -/

/-- R158, R160, R161, R173: `tld` of a full span whose tags match the layout loads the tile's bytes; `tst` writes a tile, with its
layout as the tag of each KiB, or an accumulator's 64 rows, with tag 0; `texp` loads an exponent vector; `.take` clears the full
bits of the span, and `.fill` sets them. `texp` runs whatever the tile's shape is (the model's reading of R160: log entry 103),
and a KiB with journaled bytes shows the tag 0 (its reading: log entry 92). R158, R173: a `tld` on a span whose KiB has another
tag raises LAYOUT with the offset of the lowest one and loads nothing; one whose span is not full waits. R160, R173: ILLOP with
the slot's PC for a shape that is none, then ALIGN and BOUND with the offset. R343: `tst`, `tld.take` and `texp.take` on a
journaled region raise PROT (where that check stands is the model's choice: log entry 122). R169: so does a non-privileged `tst`
onto the queue image. -/
def Obligations.TileLoadsAndStores : Prop :=
  (∀ (f : TldOp) x s s1, let w := s.begin.shapeWord f.t.val; let h := shapeOf w; let o := (x + f.off).toNat; let n := h.rows * h.cols * h.b
    shapeOk w = true → s.begin.tileFree f.t.val → Reads f.a s.begin x s1 → o % 64 = 0 → o + n ≤ spSize s.me →
    (f.take = true → s1.core.journals o n = false) → s1.core.allFull s.me o n = true →
    (∀ k ∈ kibs o n, (s1.core.seenTag k).toNat = h.layout) →
    exec (.tld f) s = .next (((s1.noteGone o n).modCore fun c =>
      { c.setTile f.t.val (writeBytes (c.tile f.t.val) 0 (c.spBytes o n)) with tilePoison := loadedPoison c f.t.val o h }).taken f.take o n)) ∧
  (∀ (f : TldOp) x s s1, let o := (x + f.off).toNat
    s.begin.tileFree f.t.val → Reads f.a s.begin x s1 → o % 64 = 0 → o + 64 ≤ spSize s.me →
    (f.take = true → s1.core.journals o 64 = false) → s1.core.allFull s.me o 64 = true →
    exec (.texp f) s = .next (((s1.noteGone o 64).modCore fun c => c.setExpVec f.t.val (BitVec.ofNat 512 (c.spNat o 64))).taken f.take o 64)) ∧
  (∀ a (t : Fin 8) off fill x s s1, let w := s.begin.shapeWord t.val; let h := shapeOf w; let o := (x + off).toNat; let n := h.rows * h.cols * h.b
    shapeOk w = true → s.begin.tileFree t.val → Reads a s.begin x s1 → o % 64 = 0 → o + n ≤ spSize s.me → s1.core.journals o n = false →
    inImage s.me o = false → inImage s.me (o + n - 1) = false →
    ∃ t', exec (.tst ⟨a, .tile t, off, fill⟩) s = .next t' ∧ t'.took = none ∧ t'.blocked = false ∧
      t'.core.sp = (s1.core.spStore s.me o (readBytes (s1.core.tile t.val) 0 n) fill (some (BitVec.ofNat 4 h.layout)) false).sp ∧
      t'.core.spTag = (s1.core.setTags o n (BitVec.ofNat 4 h.layout)).spTag ∧
      t'.core.spFull = (if fill then (s1.core.setFull o n true).spFull else s1.core.spFull)) ∧
  (∀ a (k : Fin 2) off fill x s s1, let o := (x + off).toNat
    s.begin.rowsFree [64 * k.val] → Reads a s.begin x s1 → o % 64 = 0 → o + 32768 ≤ spSize s.me → s1.core.journals o 32768 = false →
    inImage s.me o = false → inImage s.me (o + 32767) = false →
    ∃ t, exec (.tst ⟨a, .acc k, off, fill⟩) s = .next t ∧ t.took = none ∧ t.blocked = false ∧
      t.core.sp = (s1.core.spStore s.me o (((List.range 64).map fun r => leBytes 512 (s1.core.row s.me (64 * k.val + r)).toNat).flatten)
        fill (some 0) false).sp ∧
      t.core.spTag = (s1.core.setTags o 32768 0).spTag ∧
      t.core.spFull = (if fill then (s1.core.setFull o 32768 true).spFull else s1.core.spFull)) ∧
  (∀ (f : TldOp) x s s1, let w := s.begin.shapeWord f.t.val; let h := shapeOf w; let o := (x + f.off).toNat; let n := h.rows * h.cols * h.b
    shapeOk w = true → s.begin.tileFree f.t.val → Reads f.a s.begin x s1 → o % 64 = 0 → o + n ≤ spSize s.me → s1.core.journals o n = false →
    (s1.core.allFull s.me o n = false → exec (.tld f) s = .next (s.waitWith id)) ∧
    (∀ k, s1.core.allFull s.me o n = true → k ∈ kibs o n → (s1.core.seenTag k).toNat ≠ h.layout →
      (∀ j ∈ kibs o n, j < k → (s1.core.seenTag j).toNat = h.layout) →
      exec (.tld f) s = .next (s.takeTrap .layout s.issue.pc (BitVec.ofNat 64 (1024 * k))))) ∧
  (∀ (t : Fin 8) a off fill s, shapeOk (s.begin.shapeWord t.val) = false →
    ∀ i ∈ [Instr.tld ⟨t, a, off, fill⟩, .tst ⟨a, .tile t, off, fill⟩], exec i s = .next (s.takeTrap .illop s.issue.pc s.issue.slotPc)) ∧
  (∀ i a off n take store s x s1, s.begin.tileMove i a off n take store → Reads a s.begin x s1 → let o := (x + off).toNat
    (o % 64 ≠ 0 → exec i s = .next (s.takeTrap .align s.issue.pc (BitVec.ofNat 64 o))) ∧
    (o % 64 = 0 → spSize s.me < o + n → exec i s = .next (s.takeTrap .bound s.issue.pc (BitVec.ofNat 64 o))) ∧
    (o % 64 = 0 → o + n ≤ spSize s.me → take = true ∨ store = true → s1.core.journals o n = true →
      exec i s = .next (s.takeTrap .prot s.issue.pc 0)) ∧
    (o % 64 = 0 → o + n ≤ spSize s.me → store = true → s1.core.journals o n = false → s1.core.cr.priv = false →
      inImage s.me o = true ∨ inImage s.me (o + n - 1) = true → exec i s = .next (s.takeTrap .prot s.issue.pc 0)))

/-- R158, R163 to R168, R178: `mwl`, `mma`, `mmt` and `mclr` on a markhor core with room in its queue: a command that
passes its checks goes to the tail with the shape, M and `k.acct` that it found; `mwl` also sets what `mma` is checked
against. R158, R160, R164, R168: on either kind of core, an `mma` or `mmt` before any `mwl` of the activation, of a bad shape, or
whose format, shape, block or `k.acct` does not fit raises ILLOP with the slot's PC, whatever M is; then M outside 1 to 64, or
beyond the tile's rows, raises BOUND with M, for `mmt` before TEAM (the model's choice: log entry 112); both queue nothing. (Beside an
`mwl` of the other half the check uses the `mwl` before the group: read by inference, log entry 104.) -/
def Obligations.MatrixCommands : Prop :=
  (∀ s : State, s.begin.core.mxu.cmds.length < 8 → let S := isSCore s.me; let acct := s.begin.acct
    (∀ f : MwlOp, let w := s.begin.shapeWord f.t.val; let h := shapeOf w
      shapeOk w = true → h.ty = fmtCode f.fmt → (if S then f.fmt = .ps8 else (f.fmt = .bf16 ∨ f.fmt = .f16) ∧ acct = false) →
      h.rows ≤ (if S then 128 else 64) → h.cols ≤ (if S then 128 else 32) →
      exec (.mwl f) s = .next ((s.begin.queued ⟨2, BitVec.ofNat 4 (fmtCode f.fmt), acct, f.tag, false, s.hind, 0, BitVec.ofNat 8 (0xA0 + f.t.val), 0,
        0, w, 0, 0⟩).modCore fun c => { c with mxu := { c.mxu with issued := some (BitVec.ofNat 4 (fmtCode f.fmt), w) } })) ∧
    (∀ f : MclrOp, (S = true ∨ acct = false) → exec (.mclr f) s = .next (s.begin.queued
      ⟨5, 0, acct, f.tag, false, s.hind, BitVec.ofNat 8 (0xB0 + f.acc.val), 0, 0, 0, 0, 0, 0⟩)) ∧
    (∀ (fmt : TFmt) (acc : Fin 2) (t : Fin 8) (msrc : Src) (block : Fin 4) (tag : Byte) lf lw v s1, let w := s.begin.shapeWord t.val
      let h := shapeOf w
      shapeOk w = true → s.begin.baseCore.mxu.issued = some (lf, lw) → h.ty = fmtCode fmt → h.cols = (shapeOf lw).rows →
      (if S then (fmt = .i8 ∨ fmt = .i16) ∧ block.val < 2 ∧ (block.val = 0 ∨ acct = true)
        else (fmt = .bf16 ∨ fmt = .f16) ∧ lf.toNat = fmtCode fmt ∧ acct = false) →
      Reads msrc s.begin v s1 → 1 ≤ v.toNat → v.toNat ≤ 64 → v.toNat ≤ h.rows → s1.core.mxu = s.begin.core.mxu → s1.acct = acct →
      exec (.mma ⟨fmt, acc, t, msrc, block, tag⟩) s = .next (s1.queued ⟨3, BitVec.ofNat 4 (fmtCode fmt), acct, tag, false, s.hind,
        BitVec.ofNat 8 (0xB0 + acc.val), BitVec.ofNat 8 (0xA0 + t.val), BitVec.ofNat 8 block.val, v.toNat, w, 0, 0⟩) ∧
      ∀ rx fwd, (∀ d, rx = some d ∨ fwd = some d → ∃ nb team, neighbour s.me d = some nb ∧ s1.base.teamOf s.me = some team ∧
          nb ∈ team.2.members (dieOf s.me)) →
        exec (.mmt ⟨fmt, acc, t, msrc, block, rx, fwd, tag⟩) s = .next (s1.queued ⟨4, BitVec.ofNat 4 (fmtCode fmt), acct, tag, false, s.hind,
          BitVec.ofNat 8 (0xB0 + acc.val), BitVec.ofNat 8 (0xA0 + t.val),
          BitVec.ofNat 8 (mmtX ⟨fmt, acc, t, msrc, block, rx, fwd, tag⟩), v.toNat, w, 0, 0⟩))) ∧
  (∀ (fmt : TFmt) (acc : Fin 2) (t : Fin 8) (msrc : Src) (block : Fin 4) (rx fwd : Option Dir) (tag : Byte) s,
    let w := s.begin.shapeWord t.val; let h := shapeOf w
    let fits (lf : BitVec 4) (lw : Word) : Prop := h.ty = fmtCode fmt ∧ h.cols = (shapeOf lw).rows ∧
      if isSCore s.me then (fmt = .i8 ∨ fmt = .i16) ∧ block.val < 2 ∧ (block.val = 0 ∨ s.begin.acct = true)
      else (fmt = .bf16 ∨ fmt = .f16) ∧ lf.toNat = fmtCode fmt ∧ s.begin.acct = false
    ∀ i ∈ ([.mma ⟨fmt, acc, t, msrc, block, tag⟩, .mmt ⟨fmt, acc, t, msrc, block, rx, fwd, tag⟩] : List Instr),
      (shapeOk w = false ∨ s.begin.baseCore.mxu.issued = none ∨
          (∃ lf lw, s.begin.baseCore.mxu.issued = some (lf, lw) ∧ ¬fits lf lw) →
        exec i s = .next (s.takeTrap .illop s.issue.pc s.issue.slotPc)) ∧
      (∀ lf lw v s1, shapeOk w = true → s.begin.baseCore.mxu.issued = some (lf, lw) → fits lf lw → Reads msrc s.begin v s1 →
        v.toNat = 0 ∨ 64 < v.toNat ∨ h.rows < v.toNat → exec i s = .next (s.takeTrap .bound s.issue.pc (v.setWidth 64))))

/-- R113, R158, R180: `mcvt` writes rows 0 to M − 1 of its destination: integers scaled by their row's exponent, or
FP32 converted; rows M to 63 stay. R160: a tile that it names has a shape, or ILLOP is raised with the slot's PC
(before BOUND of M: the model's choice, log entry 106). -/
def Obligations.AccumulatorConversion : Prop :=
  (∀ (f : McvtOp) t s, f.tile = some t → shapeOk (s.begin.shapeWord t.val) = false →
    exec (.mcvt f) s = .next (s.takeTrap .illop s.issue.pc s.issue.slotPc)) ∧
  ∀ (f : McvtOp) v s s1, let acct := s.begin.acct
    (acct = true → f.tile.isSome = true ∧ f.bf = true) → (∀ t, f.tile = some t → shapeOk (s.begin.shapeWord t.val) = true) → s.begin.rowsFree [64 * f.d.val, 64 * f.a.val] →
    (∀ t, f.tile = some t → s.begin.tileFree t.val) → Reads f.m s.begin v s1 → 1 ≤ v.toNat → v.toNat ≤ 64 →
    s1.acct = acct →
    let fmt := if f.bf then bf16 else fp32
    let m := s1.rmOf none
    let elem (j x : Nat) : FRes := match f.tile with
      | some t => intToFloat fmt m (signedOf (contW acct) x) (s1.baseCore.rowExp t.val j - 6)
      | none => convert fp32 fmt m x
    ∃ t, exec (.mcvt f) s = .next t ∧ t.took = none ∧ t.blocked = false ∧
      (∀ j, j < v.toNat → t.core.row s.me (64 * f.d.val + j) = rowOf acct ((containers acct (s1.baseCore.row s.me (64 * f.a.val + j))).map fun x =>
        heldIn acct (if f.bf then .bf16 else .f32) (elem j x).1)) ∧
      (∀ r, r < 64 * f.d.val ∨ 64 * f.d.val + v.toNat ≤ r → t.core.row s.me r = s1.core.row s.me r)

/-- R118, R182: `bacc.i32` applies one arrival to the running value in three registers, and `bacc.f32` and `bacc.bf16` round it;
an exponent outside −1,024 to 1,023 raises BOUND. R181: `bsum` on an S-core sends one block sum on the request network: the
element that G[n] selects, its exponent, and G[n] as the key. R160: a tile that it names has a shape, or ILLOP is raised with the
slot's PC (before the other causes: the model's choice, log entry 106). (That the running exponent is kept modulo 2^32 is the
model's choice: log entry 100.) -/
def Obligations.BlockSums : Prop :=
  (∀ (f : BaccIOp) x y s s1 s2, Reads f.a s.begin x s1 → Reads f.b s1 y s2 → let n := 2 * f.n.val
    (y.toInt < -1024 ∨ 1023 < y.toInt → exec (.baccI32 f) s = .next (s.takeTrap .bound s.issue.pc (y.setWidth 64))) ∧
    (-1024 ≤ y.toInt → y.toInt ≤ 1023 →
      let r := align (s2.baseStream.reg (n + 1) ++ s2.baseStream.reg n : DWord).toInt (s2.baseStream.reg (n + 2)).toInt x.toInt y.toInt
      exec (.baccI32 f) s = .next (((((s2.putG n ((BitVec.ofInt 64 r.1).extractLsb' 0 32)).putG (n + 1)
        ((BitVec.ofInt 64 r.1).extractLsb' 32 32)).putG (n + 2) (BitVec.ofInt 32 r.2.1)).raise (if r.2.2 then flagNX else 0))))) ∧
  (∀ (f : BaccFOp) s t, let n := 2 * f.n.val; let b := s.begin.baseStream
    let r := intToFloat (if f.bf then bf16 else fp32) (s.begin.rmOf none) (b.reg (n + 1) ++ b.reg n : DWord).toInt
      (max (-4000) (min 4000 (b.reg (n + 2)).toInt))
    Stores f.d (BitVec.ofNat 32 r.1) (s.begin.raise r.2) t → exec (.baccFloat f) s = .next t) ∧
  (∀ (f : BsumOp) t s, f.tile = some t → shapeOk (s.begin.shapeWord t.val) = false →
    exec (.bsum f) s = .next (s.takeTrap .illop s.issue.pc s.issue.slotPc)) ∧
  (∀ (f : BsumOp) s, isSCore s.me = true → isMoraine s.me = false → let b := s.begin.baseStream
    let g := b.reg (2 * f.b.val); let h := b.reg (2 * f.b.val + 1); let j := g.toNat % 64; let c := g.toNat / 256 % 256
    let row := 64 * f.a.val + j
    c < contN s.begin.acct → s.begin.rowsFree [row] →
    (∀ t, f.tile = some t → shapeOk (s.begin.shapeWord t.val) = true ∧ s.begin.tileFree t.val) → s.begin.baseCore.rowBad row = false → s.begin.mayRequest →
    isCore (h.toNat % 65536) = true → s.begin.mayName (h.toNat % 65536) → (s.begin.core.netQueue 0).length < 8 →
    let e : Int := match f.tile with
      | some t => s.begin.core.rowExp t.val j - 6
      | none => -6
    exec (.bsum f) s = .next (s.begin.enqueued 0 ⟨.record, lineOfWords [recWord0 (h.toNat / 65536 % 256) 0 2 false s.begin.coreId, g, 0,
      BitVec.ofInt 32 (signedOf (contW s.begin.acct) (((s.begin.rowVals row)[c]?).getD 0)), BitVec.ofInt 32 e],
      [h.toNat % 65536], true, s.begin.core.susp.isSome, none, false, none⟩))

/-- R170, R171, R174: `msync` completes once the commands queued before it have; `mstat` writes the status word;
`tzero` clears and `tmov` copies a whole tile with its exponent vector, also beside a command on it that the other half queues (the
model's choice: log entry 111). -/
def Obligations.MatrixSyncStatusAndTiles : Prop :=
  (∀ s : State, let m := s.begin.baseCore.mxu
    (s.begin.stream.syncAt = none → m.cmds = [] → exec .msync s = .next s.begin) ∧
    (s.begin.stream.syncAt = none → m.cmds ≠ [] → exec .msync s = .next (s.waitWith fun d => d.modCore s.me fun c =>
      c.modStream s.hind fun t => { t with syncAt := some m.queued })) ∧
    (∀ n, s.begin.stream.syncAt = some n →
      (n ≤ m.queued - m.cmds.length → exec .msync s = .next (s.begin.modStream fun t => { t with syncAt := none })) ∧
      (m.queued - m.cmds.length < n → exec .msync s = .next (s.waitWith id)))) ∧
  (∀ d s t, Stores d (mstatWord s.begin.baseCore.mxu (s.begin.dev.cyclesOf (dieOf s.me)) (s.begin.base.budgetOf s.me == 0)) s.begin t → exec (.mstat d) s = .next t) ∧
  (∀ (t : Fin 8) s, s.begin.tileFree t.val → ∃ t', exec (.tzero t) s = .next t' ∧ t'.took = none ∧ t'.blocked = false ∧
    (∀ a, readByte (t'.core.tile t.val) a = 0) ∧ t'.core.expVec t.val = 0) ∧
  (∀ f s, s.pair = none → s.begin.tileFree f.t.val → s.begin.tileFree f.u.val → ∃ t', exec (.tmov f) s = .next t' ∧ t'.took = none ∧ t'.blocked = false ∧
    t'.core.tile f.t.val = s.begin.core.tile f.u.val ∧ t'.core.expVec f.t.val = s.begin.core.expVec f.u.val)

/-! ## Class 8 -/

/-- R215, R220, R223 to R225, R232: `pbeg` opens an empty region once the stream's stores are performed; `pabt` closes
one with outcome 5; `psta` and `pcap` write the status and the room left. -/
def Obligations.ProposalRegions : Prop :=
  ∀ s : State, let r := s.begin.stream.region
    (r.st = .closed → s.begin.core.storesDone s.hind = true →
      exec .pbeg s = .next (s.begin.withRegion ⟨.opened, [], [], none, none, r.last, none⟩)) ∧
    (r.st = .closed → s.begin.core.storesDone s.hind = false → exec .pbeg s = .next (s.waitWith id)) ∧
    (r.st = .opened ∨ r.st = .failed → exec .pbeg s = .next (s.takeTrap .pregion s.issue.pc 0) ∧
      exec .pabt s = .next (s.begin.withRegion (closedWith 5))) ∧
    (r.st = .postDraw → exec .pbeg s = .next (s.takeTrap .pregion s.issue.pc 1) ∧ exec .pabt s = .next (s.takeTrap .pregion s.issue.pc 1)) ∧
    (r.st = .closed → exec .pabt s = .next s.begin) ∧
    (∀ d t, Stores d r.status s.begin t → exec (.psta d) s = .next t) ∧
    (∀ d t, Stores d (match r.st with
        | .closed => 0x00400100
        | .opened => BitVec.ofNat 32 ((256 - r.rs.length) + 65536 * (64 - r.ws.length))
        | _ => 0) s.begin t → exec (.pcap d) s = .next t)

/-- R120, R152, R217, R219, R222, R224: `pcom`, turn by turn. 3 for a failed region; PREGION with none open; else a lock pass over
the lines; 2 where a line of the read set has a newer version; else one draw, of the generator or of the tape, decides by `Accept`
and is kept with the decision, BOUND where the tape has no word for it; then the write set is published one line at a time in
ascending address (0) or dropped (1), and the locks are released. In post-draw state, and after the trap that has led to it, it goes on
from the line it had reached, without A, another lock, check or draw; PAGE and PROT of a line leave that state. The locks are
released and the region closes before D is written: where D is a full queue register, or the other half of a pair has yet to complete,
the group waits with both done and the outcome owed, and D is written at a later turn (how a turn that waits or traps at D stands is
the model's choice: log entry 125). R310: on a member moved from another package NOPATH
comes before the locks. (That a turn makes one step, and where that NOPATH is raised, is the model's choice: log entry 26; that a
line's message waits for an idle pair of dies: log entry 61.) -/
def Obligations.ProposalCommit : Prop :=
  (∀ (f : DA) (s : State), let reg := s.begin.stream.region
    let ends (u : State) (outcome : Word) (last : Nat) (fl : Flags) (reads : Bool) : Prop :=
      (s.issue.paired = false → ∀ t, Stores f.d outcome (u.committed last fl) t → exec (.pcom f) s = .next t) ∧
      (s.issue.paired = true ∨ (∃ n, f.d = .q n ∧ 4 ≤ (u.core.queue n.val).length) → exec (.pcom f) s = .next (s.waitWith fun d =>
        (d.releaseLocks (d.lockName s.me s.hind)).modRegion s.me s.hind fun _ =>
          { closedWith last with owed := some ⟨outcome, fl, reads, s.issue.pc⟩ }))
    (∀ o u t, reg.owed = some o → (o.reads = true ∧ (∃ x, Reads f.a s.begin x u)) ∨ (o.reads = false ∧ u = s.begin) →
      Stores f.d o.outcome ((u.modStream fun t => { t with region := { t.region with owed := none } }).raise o.flags) t →
      exec (.pcom f) s = .next t) ∧
    (reg.owed = none →
    (reg.st = .closed → exec (.pcom f) s = .next (s.takeTrap .pregion s.issue.pc 0)) ∧
    (∀ x s1, reg.st = .failed → Reads f.a s.begin x s1 → ends s1 3 4 0 (reg.post.all fun p => !p.resumed)) ∧
    (∀ x s1, reg.st = .opened → reg.post = none → Reads f.a s.begin x s1 →
      (s.begin.core.loadsDone s.hind = false → exec (.pcom f) s = .next (s.waitWith id)) ∧
      (s.begin.core.loadsDone s.hind = true → s1.core.home.isSome = true → ∀ pa l, reg.lines = pa :: l →
        exec (.pcom f) s = .next (s.takeTrap .nopath s.issue.pc (lineVa (reg.vaAt pa)))) ∧
      (s.begin.core.loadsDone s.hind = true → s1.core.home = none ∨ reg.lines = [] →
        (reg.pass = none → reg.lines ≠ [] → exec (.pcom f) s = .next (s.waitWith fun d => d.modRegion s.me s.hind fun r => { r with pass := some 0 })) ∧
        (∀ k, reg.pass = some k → k < reg.lines.length → exec (.pcom f) s = .next (s.waitWith id)) ∧
        (reg.pass = some reg.lines.length → s.begin.dev.stale reg = true → ends s1 2 3 0 true) ∧
        (reg.pass = none ∧ reg.lines = [] ∨ reg.pass = some reg.lines.length ∧ s.begin.dev.stale reg = false →
          let c := s1.baseCore; let g := c.gen s.hind
          let draws (dv : Word) : State := s.waitWith fun d => (d.modCore s.me fun c => c.setGen s.hind { g with ctr := g.ctr + 1, idx := g.idx + 1 }).modRegion
            s.me s.hind fun r => { r with pass := none, post := some ⟨dv, g.idx, (accept dv x).1, (accept dv x).2, 0, s.issue.pc, false⟩ }
          (c.cr.rngmode = false → exec (.pcom f) s = .next (draws (genOut g.key g.ctr))) ∧
          (c.cr.rngmode = true → c.tapeHolds g.idx = false → exec (.pcom f) s = .next (s.takeTrap .bound s.issue.pc (g.idx.setWidth 64))) ∧
          (∀ a, c.cr.rngmode = true → c.tapeArea = some a → 4 * g.idx.toNat + 4 ≤ a.len →
            exec (.pcom f) s = .next (draws (BitVec.ofNat 32 (c.spNat (a.base + 4 * g.idx.toNat) 4))))))) ∧
    (∀ p (u : State), reg.post = some p → (reg.st = .opened ∧ p.resumed = false ∧ (∃ x, Reads f.a s.begin x u)) ∨
        ((reg.st = .opened ∧ p.resumed = true ∨ reg.st = .postDraw) ∧ u = s.begin) →
      let todo := if p.accept then reg.writes.drop p.progress else []
      (todo = [] → ends u (if p.accept then 0 else 1) (if p.accept then 1 else 2) p.flags (!p.resumed && reg.st != .postDraw)) ∧
      (∀ l ls, todo = l :: ls → u.core.home = none → let va := lineVa l.va
        let fails (c : Cause) : Prop := exec (.pcom f) s = .next (if reg.st = .postDraw then s.takeTrap c s.issue.pc va
          else s.waitWith fun d => d.modRegion s.me s.hind fun r => if r.post.isSome then { r with st := .postDraw } else r)
        (∀ e, u.core.tlbFind (va52 va) = some e →
          (e.w = false → fails .prot) ∧
          (e.w = true → exec (.pcom f) s = .next (s.waitWith fun d => if u.dev.linkIdle (dieOf s.me) l.pa then
            ((d.modCore s.me fun c => { c with tlb := (u.core.tlbUse e).tlb }).publish s.me l).modRegion s.me s.hind fun r =>
              if r.post.isSome then { r with st := .opened, post := r.post.map fun p => { p with progress := p.progress + 1 } } else r else d))) ∧
        (u.core.tlbFind (va52 va) = none →
          (va52 va / 32768 ∈ u.core.walkFail → fails .page) ∧
          (va52 va / 32768 ∉ u.core.walkFail → exec (.pcom f) s = .next (s.waitWith fun d => d.startWalk s.me (va52 va)))))))) ∧
  (∀ (d : Device) id (l : WsLine), ∃ e : Device, d.publish id l = e.afterHome id l.pa ∧ ∀ i, i < 64 → l.mask.getLsbD i = true →
    d.isEgressE (64 * (l.pa / 64) + i) = false → readByte e.mem (64 * (l.pa / 64) + i) = l.data.extractLsb' (8 * i) 8)

/-- R120: the acceptance test compares a draw d, read as d × 2^−32, with an FP32 ratio m × 2^e exactly (both sides
times 2^149). -/
def Obligations.AcceptanceIsExact : Prop :=
  ∀ (d r : Word), (isNanWord r → accept d r = (false, flagNV)) ∧
    (¬isNanWord r → r.getLsbD 31 = true ∨ r = 0 → accept d r = (false, 0)) ∧
    (0x3F800000 ≤ r.toNat → r.toNat ≤ 0x7F800000 → accept d r = (true, 0)) ∧
    (∀ (m : Nat) (e : Int), f32 r = .fin false m e → 0 < r.toNat → r.toNat < 0x3F800000 →
      ((accept d r).1 = true ↔ d.toNat * 2 ^ 117 < m * 2 ^ (e + 149).toNat) ∧ (accept d r).2 = 0)

/-! ## Class 9 -/

/-- R240, R241, R247, R250, R251, R260, R263: `send`, `sendm`, `repl` and `dcnt` put one held entry behind the others of their
network's queue: the record in its sixteen registers with its network and source stamped and the words beyond its count zero; for
`repl`, addressed as the activation's record asks. Into a full queue, each of the four: `.b` answers 1, `.t` raises SENDFULL with
the network, and the plain form waits for room, or raises SENDFULL where every entry is held for this activation itself, which no
wait would free (with the network as its value too: the model's choice, log entry 115); nothing enters. -/
def Obligations.RecordsSent : Prop :=
  (∀ (f : SendOp) b s s1, let reg (k : Nat) : Word := s.begin.baseStream.reg (16 * f.regs.val + k); let count := bits (reg 0) 21 17
    let n := f.net.val
    s.begin.stream.region.st = .closed → (n = 2 → s.begin.baseCore.cr.priv = true) → count ≤ 13 → bits (reg 2) 31 24 = 0 →
    Reads f.b s.begin b s1 → isCore b.toNat = true → s1.mayName b.toNat → (n = 0 → s1.mayRequest) →
    ∃ m : Line, lineWord m 0 = recWord0 (bits (reg 0) 31 24) n count ((reg 0).getLsbD 16) s1.coreId ∧
      (∀ k, 0 < k → k < 16 → lineWord m k = if k < 3 + count then reg k else 0) ∧
      ((s1.core.netQueue n).length < 8 → ∀ t, Answers f.full 0 (s1.enqueued n (s1.heldEntry .record m [b.toNat] none)) t →
        exec (.send f) s = .next t) ∧
      FullQueue f.full n (.send f) s s1) ∧
  (∀ (f : SendmOp) b c s s1 s2, let reg (k : Nat) : Word := s.begin.baseStream.reg (16 * f.regs.val + k)
    let count := bits (reg 0) 21 17; let n := f.net.val
    s.begin.stream.region.st = .closed → (n = 2 → s.begin.baseCore.cr.priv = true) → count ≤ 13 → bits (reg 2) 31 24 = 0 →
    Reads f.b s.begin b s1 → Reads f.c s1 c s2 → bits c 31 23 = 0 → (∃ i, i < 32 ∧ b.getLsbD i = true) → (∃ j, j < 16 ∧ c.getLsbD j = true) →
    s2.mayName (markhorId (bits c 18 16) 0 0) → (n = 0 → s2.mayRequest) →
    ∃ (m : Line) (dsts : List Nat), lineWord m 0 = recWord0 (bits (reg 0) 31 24) n count ((reg 0).getLsbD 16) s2.coreId ∧
      (∀ k, 0 < k → k < 16 → lineWord m k = if k < 3 + count then reg k else 0) ∧
      (∀ id, id ∈ dsts ↔ ∃ i j, i < 32 ∧ j < 16 ∧ b.getLsbD i = true ∧ c.getLsbD j = true ∧ id = markhorId (bits c 18 16) i j) ∧
      ((s2.core.netQueue n).length < 8 →
        ∀ t, Answers f.full 0 (s2.enqueued n (s2.heldEntry .record m dsts (if c.getLsbD 19 then some (bits c 22 20) else none))) t →
        exec (.sendm f) s = .next t) ∧
      FullQueue f.full n (.sendm f) s s2) ∧
  (∀ (f : ReplOp) a s, let reg (k : Nat) : Word := s.begin.baseStream.reg (16 * f.regs.val + k); let count := bits (reg 0) 21 17
    let w2 := lineWord a.r 2; let dst := bits w2 15 0
    s.begin.stream.region.st = .closed → count ≤ 13 → s.begin.core.act = some a → recReply a.r = true → bits w2 31 24 = 0 →
    isCore dst = true → s.begin.mayName dst →
    ∃ m : Line, lineWord m 0 = recWord0 (bits w2 23 16) 1 count ((reg 0).getLsbD 16) s.begin.coreId ∧ lineWord m 2 = 0 ∧
      (∀ k, 0 < k → k ≠ 2 → k < 16 → lineWord m k = if k < 3 + count then reg k else 0) ∧
      ((s.begin.core.netQueue 1).length < 8 →
        ∀ t, Answers f.full 0 (s.begin.enqueued 1 (s.begin.heldEntry .record m [dst] none)) t → exec (.repl f) s = .next t) ∧
      FullQueue f.full 1 (.repl f) s s.begin) ∧
  (∀ (f : DcntOp) a b s s1 s2, s.begin.stream.region.st = .closed → Reads f.a s.begin a s1 → Reads f.b s1 b s2 →
    isMarkhor a.toNat = true → s2.mayName a.toNat → s2.mayRequest →
    ((s2.core.netQueue 0).length < 8 → ∀ t,
      Answers f.full 0 (s2.enqueued 0 (s2.heldEntry .decrement (lineOfWords [b, BitVec.ofNat 32 s2.coreId]) [a.toNat] none)) t →
      exec (.dcnt f) s = .next t) ∧
    FullQueue f.full 0 (.dcnt f) s s2)

/-- R243, R253, R254, R261, R273 to R275: `hdef` writes one entry of the handler table, whose PC keeps 52 bits of the
pair (the model's choice: log entry 34); `dqctl` sets the queue's limit
and its spill mode and reads its state; `mack` adds a token for a mailbox; `mbx` subtracts from a mailbox that holds
enough and waits otherwise; `evx` configures a counter or a term; `evw` takes a wake and waits while there is none. -/
def Obligations.HandlersQueuesAndMailboxes : Prop :=
  ∀ s : State, s.begin.stream.region.st = .closed →
    (∀ (f : HdefOp) a c s1 s2, let p := s1.pairOf f.b
      Reads f.a s.begin a s1 → Reads f.c s1 c s2 → a.toNat < 256 → bits c 3 3 = 0 → bits c 31 21 = 0 → bits c 7 4 ≤ 13 →
      bits p 5 3 = 0 → bits p 2 0 ≤ 4 → (a.toNat = 255 → s2.baseCore.cr.priv = true) →
      exec (.hdef f) s = .next (s2.modCore fun k => { k with handlers := FMap.set k.handlers a.toNat ⟨p.setWidth 52,
        BitVec.ofNat 2 (bits c 1 0), BitVec.ofNat 4 (bits c 7 4), BitVec.ofNat 13 (bits c 20 8), c.getLsbD 2⟩ })) ∧
    (∀ d t, let c := s.begin.core
      Stores d (BitVec.ofNat 32 (c.dq.waiting.length % 128 + (if c.dq.spill then 128 else 0) + 256 * ((c.netQueue 0).length % 16) +
        4096 * ((c.netQueue 1).length % 16) + 65536 * ((c.netQueue 2).length % 16) + 2 ^ 20 * (c.dq.ringCount % 4096))) s.begin t →
      exec (.dqctlStat d) s = .next t) ∧
    (∀ a v s1, Reads a s.begin v s1 → 1 ≤ v.toNat → v.toNat ≤ 64 →
      exec (.dqctlLim a) s = .next (s1.modCore fun c => { c with dq := { c.dq with limit := v.toNat } })) ∧
    (∀ a v s1 x, isMoraine s.me = false → Reads a s.begin v s1 → v.toNat < 16 → s1.baseCore.area v.toNat = some x → x.len % 64 = 0 →
      (s1.core.dq.spill = true → exec (.dqctlSpill a) s = .next (s1.modCore id)) ∧
      (s1.core.dq.spill = false → s1.core.dq.ringCount = 0 → exec (.dqctlSpill a) s = .next (s1.modCore fun c => { c with dq :=
        { c.dq with spill := true, ringBase := x.base, ringLen := x.len, ringHead := 0, nextRing := none } })) ∧
      (s1.core.dq.spill = false → s1.core.dq.ringCount ≠ 0 → exec (.dqctlSpill a) s = .next (s1.modCore fun c => { c with dq :=
        { c.dq with spill := true, nextRing := some (x.base, x.len) } }))) ∧
    exec .dqctlUnspill s = .next (s.begin.modCore fun c => { c with dq := { c.dq with spill := false } }) ∧
    (∀ (f : AB) a b s1 s2, Reads f.a s.begin a s1 → Reads f.b s1 b s2 → b.toNat < 8 → isCore a.toNat = true →
      s2.mayName a.toNat → let bt := s2.core.susp.isSome
      (∀ l k r, s2.core.tokens = l ++ k :: r → (∀ x ∈ l, ¬(x.core = a.toNat ∧ x.mbox = b.toNat ∧ x.byTrap = bt)) →
        k.core = a.toNat → k.mbox = b.toNat → k.byTrap = bt →
        exec (.mack f) s = .next (s2.modCore fun c => { c with tokens := l ++ { k with n := k.n + 1 } :: r })) ∧
      ((∀ x ∈ s2.core.tokens, ¬(x.core = a.toNat ∧ x.mbox = b.toNat ∧ x.byTrap = bt)) →
        (s2.core.tokens.filter fun t => t.byTrap == bt).length < 8 →
        exec (.mack f) s = .next (s2.modCore fun c => { c with tokens := c.tokens ++ [⟨a.toNat, b.toNat, 1, bt⟩] }))) ∧
    (∀ (f : MbxOp) n k s1 s2, Reads f.a s.begin n s1 → Reads f.b s1 k s2 → n.toNat < 8 → let v := s2.core.mbox n.toNat
      (k.toNat ≤ v.toNat → ∀ t, Stores f.d v (s2.modCore fun c => c.setMbox n.toNat (v - k)) t → exec (.mbx f) s = .next t) ∧
      (v.toNat < k.toNat → exec (.mbx f) s = .next (s.waitWith id))) ∧
    (∀ (f : AB) a w s1 s2, isMoraine s.me = false → Reads f.a s.begin a s1 → Reads f.b s1 w s2 → a.toNat < 32 →
      (if a.getLsbD 3 then bits w 18 16 ≤ 4 ∧ bits w 31 27 = 0
        else bits w 2 0 ≠ 5 ∧ bits w 2 0 ≠ 6 ∧ bits w 23 12 ≠ 0 ∧ bits w 31 24 = 0) → let k := bits a 2 0
      (a.getLsbD 3 = false → exec (.evx f) s = .next (s2.modCore fun c =>
        { c with xcount := FMap.set c.xcount k ⟨w, if a.getLsbD 4 then 0 else (c.counter k).count⟩ })) ∧
      (a.getLsbD 3 = true → exec (.evx f) s = .next (s2.modCore fun c =>
        { c with xterm := FMap.set c.xterm k ⟨w, if a.getLsbD 4 then 0 else (c.term k).credits, if a.getLsbD 4 then 0 else (c.term k).wakes,
          (c.term k).holding⟩ }))) ∧
    (∀ (f : DA) a s1, isMoraine s.me = false → Reads f.a s.begin a s1 → a.toNat < 8 → let x := s1.core.term a.toNat
      bits x.cfg 18 16 = 3 →
      (x.wakes ≠ 0 → ∀ t, Stores f.d (BitVec.ofNat 32 (x.wakes - 1)) (s1.modCore fun c =>
          { c with xterm := FMap.set c.xterm a.toNat ⟨x.cfg, x.credits, x.wakes - 1, x.holding⟩ }) t → exec (.evw f) s = .next t) ∧
      (x.wakes = 0 → exec (.evw f) s = .next (s.waitWith id)))

/-- R265 to R267, R269, R271: `cpq`, `gath` and `coll` on a markhor core with valid operands put their card behind the
others of the command FIFO; their descriptors are read at issue. (The address check of a gather's table of 2^32 bytes or more is
the model's reading: log entry 47.) -/
def Obligations.EngineCards : Prop :=
  (∀ (f : CpqOp) s t, let b := s.begin.baseStream; let n := 8 * f.n.val
    let src : DWord := b.reg (n + 1) ++ b.reg n; let dst : DWord := b.reg (n + 3) ++ b.reg (n + 2)
    let len := (b.reg (n + 4)).toNat; let fl := b.reg (n + 5); let owner := (b.reg (n + 6)).toNat
    isMoraine s.me = false → s.begin.stream.region.st = .closed → cardFlagsOk fl 2 = true → len % 16 = 0 → 16 ≤ len → len ≤ 2 ^ 24 →
    s.begin.placeOk (bits fl 1 0) src len → s.begin.placeOk (bits fl 3 2) dst len →
    (fl.getLsbD 5 = true → isMarkhor owner = true ∧ s.begin.mayName owner) → s.begin.core.fifo.length < 8 →
    let x := s.begin.footOf (bits fl 1 0) src len; let y := s.begin.footOf (bits fl 3 2) dst len
    Answers f.full 0 (s.begin.modCore fun k => { k with fifo := k.fifo ++ [⟨s.me, s.hind, f.tag, s.begin.baseCore.cr.ptbr.toNat,
      .copy x.space x.base y.space y.base len, fl.getLsbD 4, BitVec.ofNat 4 (bits fl 11 8),
      if fl.getLsbD 5 then some (owner, (b.reg (n + 7)).toNat) else none, [x], [y], s.begin.dev.before s.me s.hind⟩] }) t →
    exec (.cpq f) s = .next t) ∧
  (∀ (f : CardOp) a s s1 t, let o := (a + f.off).toNat; let w (k : Nat) : Word := lineWord (BitVec.ofNat 512 (s1.core.spNat o 64)) k
    let table : DWord := w 1 ++ w 0; let dst : DWord := w 7 ++ w 6; let entries := (w 2).toNat; let size := (w 3).toNat; let fl := w 8
    let count := (w 5).toNat; let sc := bits fl 1 0
    isMoraine s.me = false → s.begin.stream.region.st = .closed → Reads f.a s.begin a s1 → o % 64 = 0 → o + 64 ≤ spSize s.me →
    s1.core.ownBad o 64 = none → cardFlagsOk fl 1 = true → size % 16 = 0 → 16 ≤ size → size ≤ 4096 → (w 4).toNat % 4 = 0 → 1 ≤ count →
    count ≤ 4096 → w 12 = 0 → w 13 = 0 → w 14 = 0 → (w 4).toNat + 4 * count ≤ spSize s.me →
    let len := if entries * size < 2 ^ 32 then entries * size
      else (if sc = 1 then spSize (bits table 47 32) else 2 ^ 64) - (if sc = 1 then bits table 17 0 else table.toNat)
    s1.placeOk sc table (if sc = 2 ∧ 2 ^ 32 ≤ entries * size then 1 else len) → s1.placeOk (bits fl 3 2) dst (count * size) →
    (fl.getLsbD 5 = true → isMarkhor (w 10).toNat = true ∧ s1.mayName (w 10).toNat) → s1.core.fifo.length < 8 →
    let x := s1.footOf sc table len; let y := s1.footOf (bits fl 3 2) dst (count * size)
    Answers f.full 0 ((s1.noteGone o 64).modCore fun k => { k with fifo := k.fifo ++ [⟨s.me, s.hind, f.tag, s1.baseCore.cr.ptbr.toNat,
      .gather x.space x.base entries size (w 4).toNat count y.space y.base (w 9) o, fl.getLsbD 4, BitVec.ofNat 4 (bits fl 11 8),
      if fl.getLsbD 5 then some ((w 10).toNat, (w 11).toNat) else none,
      [⟨.sp s.me, (w 4).toNat, 4 * count⟩, x], [y, ⟨.sp s.me, o + 48, 16⟩], s1.dev.before s.me s.hind⟩] }) t →
    exec (.gath f) s = .next t) ∧
  (∀ (f : CardOp) a s s1 t, let o := (a + f.off).toNat; let w (k : Nat) : Word := lineWord (BitVec.ofNat 512 (s1.core.spNat o 64)) k
    let kind := bits (w 0) 3 0; let op := bits (w 0) 7 4; let m := bits (w 0) 15 8; let rank := bits (w 0) 23 16; let fl := w 5
    let n := (w 4).toNat; let out := if kind = 2 then 4 * n * m else 4 * n
    isMoraine s.me = false → s.begin.stream.region.st = .closed → Reads f.a s.begin a s1 → o % 64 = 0 → o + 64 ≤ spSize s.me →
    s1.core.ownBad o 64 = none → kind ≤ 2 → op ≤ 3 → (op = 0 ∨ kind = 1) → 2 ≤ m → m ≤ 32 → rank < m → bits (w 0) 31 24 = 0 →
    (w 2).toNat % 16 = 0 → (w 3).toNat % 16 = 0 → 1 ≤ n → n ≤ 4096 → bits fl 3 0 = 0 → bits fl 7 6 = 0 → bits fl 31 12 = 0 →
    (∀ k, k < 7 → w (8 + k) = 0) → (w 2).toNat + 4 * n ≤ spSize s.me → (w 3).toNat + out ≤ spSize s.me →
    (fl.getLsbD 5 = true → isMarkhor (w 6).toNat = true ∧ s1.mayName (w 6).toNat) → s1.core.fifo.length < 8 →
    Answers f.full 0 ((s1.noteGone o 64).modCore fun k => { k with fifo := k.fifo ++ [⟨s.me, s.hind, f.tag, s1.baseCore.cr.ptbr.toNat,
      .coll kind op m rank (w 1) (w 2).toNat (w 3).toNat n o, fl.getLsbD 4, BitVec.ofNat 4 (bits fl 11 8),
      if fl.getLsbD 5 then some ((w 6).toNat, (w 7).toNat) else none,
      [⟨.sp s.me, (w 2).toNat, 4 * n⟩], [⟨.sp s.me, (w 3).toNat, out⟩, ⟨.sp s.me, o + 48, 16⟩], s1.dev.before s.me s.hind⟩] }) t →
    exec (.coll f) s = .next t)

/-! ## Classes A and B -/

/-- R156, R195 to R205: class A on a moraine core, for a row of its own channel: lines are read from and written to the rows, a
write waiting at its controller while that holds 64 (the wait's order is the model's choice: log entry 80), `dpush` sends granules
to a scratchpad, behind those of other moraine cores (the model's choice: log entry 109), and rows are promoted to the lowest free
slot or the oldest unpinned one, demoted, pinned and unpinned, each with its status word (that a row which another partition has
pinned stays pinned and answers 0 is its reading: log entry 50; the slot field 0 of a fixed row, its choice: log entry 110). -/
def Obligations.DramForms : Prop :=
  ∀ s : State, isMoraine s.me = true →
    (∀ (f : DlineOp) r, let pa := (s.begin.globAddr f.a f.off).toNat
      pa % 64 = 0 → ownRow s.me pa = some r → s.begin.dev.bankFree r.bank = true → s.begin.dev.homeBad pa 64 = none →
      ∀ t, LoadsInto (.line f.n) false (readLE s.begin.dev.mem pa 64) s.begin t → exec (.dldL f) s = .next t) ∧
    (∀ (f : DlineOp) r, let pa := (s.begin.globAddr f.a f.off).toNat
      let die := bankDie r.bank; let ch := bankChannel r.bank; let d := s.begin.dev
      pa % 64 = 0 → ownRow s.me pa = some r → ∃ t, exec (.dstL f) s = .next t ∧ t.took = none ∧ t.blocked = false ∧ t.dev.mem = d.mem ∧
        (∀ i, i ≠ r.bank → t.dev.bankOps i = d.bankOps i) ∧
        (d.waitLines die ch = [] → d.heldLines die ch < 64 →
          t.dev.bankOps r.bank = d.bankOps r.bank ++ [⟨pa, s.begin.recordOf f.n.val, 0⟩] ∧ t.dev.linesWait = d.linesWait) ∧
        ((d.waitLines die ch ≠ [] ∨ 64 ≤ d.heldLines die ch) → t.dev.bankOps r.bank = d.bankOps r.bank ∧
          t.dev.waitLines die ch = d.waitLines die ch ++ [⟨s.me, r.bank, ⟨pa, s.begin.recordOf f.n.val, 0⟩⟩])) ∧
    (∀ (f : DpushOp) b c s1 s2, let a := (s.begin.pairOf f.a).toNat; let n := f.len.toNat
      Reads f.b s.begin b s1 → Reads f.c s1 c s2 → a % 64 = 0 → c.toNat % 64 = 0 → n % 64 = 0 → 64 ≤ n → n ≤ 65536 →
      c.toNat + n ≤ 196608 → isMarkhor b.toNat = true → dieOf b.toNat = dieOf s.me →
      (∀ k, k < n / 64 → ∃ r, ownRow s.me (a + 64 * k) = some r ∧ s2.dev.bankFree r.bank = true) →
      ∃ t, exec (.dpush f) s = .next t ∧ t.took = none ∧ t.blocked = false ∧ t.dev.mem = s2.dev.mem ∧
        ∀ id, (t.dev.core id).portq = (s2.dev.core id).portq ++
          if id = b.toNat then (List.range (n / 16)).map fun k => ⟨s.me, c.toNat + 16 * k,
            BitVec.ofNat 128 (readLE s2.dev.mem (a + 16 * k) 16), f.tag, (s2.dev.homeBad (a + 16 * k) 16).isSome⟩ else []) ∧
    (∀ (f : DrowOp) r, ownRow s.me (s.begin.pairOf f.a).toNat = some r → r.fixed = true →
      (∀ t, Stores f.d 0xC0000000 s.begin t → exec (.dpro f) s = .next t ∧ exec (.ddem f) s = .next t ∧ exec (.dpin f) s = .next t ∧
        (s.begin.baseCore.cr.priv = true → exec (.dpinClr f) s = .next t)) ∧
      (∀ t, Stores f.d (0xC0000000 + BitVec.ofNat 32 (1024 * (r.bank % 48))) s.begin t → exec (.dstat f) s = .next t)) ∧
    (∀ (f : DrowOp) r, ownRow s.me (s.begin.pairOf f.a).toNat = some r → r.fixed = false →
      let b := s.begin.dev.bank r.bank
      let after (b' : Bank) : State := s.begin.setDev (s.begin.dev.setBank r.bank b')
      let filled (k : Nat) : Bank := ⟨FMap.set b.slots k ⟨r.row, b.counter, false, s.begin.part⟩, b.counter + 1⟩
      (s.begin.dev.bankFree r.bank = true →
        (∀ k t, b.slotOf r.row = some k → Stores f.d (BitVec.ofNat 32 (2 ^ 30 + k)) (after b) t → exec (.dpro f) s = .next t) ∧
        (∀ k, b.slotOf r.row = none → (b.freeSlot = some k ∨ (b.freeSlot = none ∧ ∃ p, oldest b.slots = some (k, p))) →
          (∀ t, Stores f.d (BitVec.ofNat 32 k) (after (filled k)) t → exec (.dpro f) s = .next t) ∧
          (∀ t, Stores f.d (BitVec.ofNat 32 k) (after ((filled k).pin k true s.begin.part)) t → exec (.dpin f) s = .next t)) ∧
        (b.slotOf r.row = none → b.freeSlot = none → oldest b.slots = none →
          (∀ t, Stores f.d 0x80000000 (after b) t → exec (.dpro f) s = .next t) ∧
          (∀ t, Stores f.d 0x80000000 s.begin t → exec (.dpin f) s = .next t)) ∧
        (∀ k t, b.slotOf r.row = some k → Stores f.d (BitVec.ofNat 32 k) (after (b.pin k true s.begin.part)) t →
          exec (.dpin f) s = .next t) ∧
        (∀ t, b.slotOf r.row = none → Stores f.d 0x40000000 s.begin t → exec (.ddem f) s = .next t) ∧
        (∀ k p t, b.slotOf r.row = some k → FMap.find b.slots k = some p → p.pinned = true → Stores f.d 0x80000000 s.begin t →
          exec (.ddem f) s = .next t) ∧
        (∀ k p t, b.slotOf r.row = some k → FMap.find b.slots k = some p → p.pinned = false →
          Stores f.d 0 (after { b with slots := FMap.erase b.slots k }) t → exec (.ddem f) s = .next t)) ∧
      (s.begin.baseCore.cr.priv = true →
        (∀ t, b.slotOf r.row = none → Stores f.d 0x40000000 s.begin t → exec (.dpinClr f) s = .next t) ∧
        (∀ k t, b.slotOf r.row = some k → Stores f.d 0 (after (b.pin k false s.begin.part)) t → exec (.dpinClr f) s = .next t)) ∧
      (∀ t, b.slotOf r.row = none → Stores f.d (BitVec.ofNat 32 (1024 * (r.bank % 48))) s.begin t → exec (.dstat f) s = .next t) ∧
      (∀ k p t, b.slotOf r.row = some k → FMap.find b.slots k = some p →
        Stores f.d (BitVec.ofNat 32 (2 ^ 30 + (if p.pinned then 2 ^ 29 else 0) + 1024 * (r.bank % 48) + k)) s.begin t →
        exec (.dstat f) s = .next t))

/-- R95 to R99, R208, R217, R221, R328, R329: `rett` continues the trapped stream at `k.epc` and the other where it stopped, a
`pcom` that has drawn as one that is resumed (that it waits for the handler's loads is the model's choice: log entry 66; that it
ends the handler's other stream, once that does not publish, abandoning its query and releasing its locks: log entry 97; that an
outcome owed by a `pcom` goes with `k.epc`: log entry 125); `tlbinv` and `tlbinva` empty the TLBs of the partition of a page (that
of the low 52 bits of its pair, whatever the others are: log entry 84) or of all; `tlbprb` answers the translation that the TLB or
a walk gives, leaving the TLB as it is (that a hit is no use of the entry is the model's choice: log entry 96), and waits where
its walk has to cross to a die that other messages are on their way to (log entry 61); `rdcyc` reads the cycles since the die's
reset (also in a stream that has come to a die with a later one: the model's choice, log entry 119), and `rdtime` the device's
time with the die's skew, a free value below 5 (the model's choice: log entry 3). -/
def Obligations.SystemForms : Prop :=
  (∀ s p, let b := s.begin.baseCore; b.cr.priv = true → b.susp = some p → let c := s.begin.core; let h := p.trapped
    ((if h then p.hind else p.fore).region.st = .postDraw → ∀ q, (if h then p.hind else p.fore).region.post = some q → q.pc = b.cr.epc) →
    let free := (∀ a ∈ b.fore.acc ++ b.hind.acc, a.kind.isStore = true) ∧ b.fore.struck = none ∧ b.hind.struck = none ∧
      ¬((b.stream (!s.hind)).region.st = .opened ∧ (b.stream (!s.hind)).region.post.isSome = true)
    (¬free → exec .rett s = .next (s.waitWith id)) ∧
    (free → ∃ t, exec .rett s = .next t ∧ t.took = none ∧ t.blocked = false ∧ t.core.susp = none ∧ t.core.act = p.act ∧ t.core.cr.priv = false ∧
      (let back (r : Region) : Region := match r.post with
          | some q => { r with st := .opened, post := some { q with resumed := true } }
          | none => r
       (let x := if h then p.hind else p.fore;
        t.core.stream h = { x with
          pc := b.cr.epc, running := true, entering := some (s.issue.pc, false), acc := x.acc ++ (c.stream h).acc,
          region := { back x.region with owed := x.region.owed.filter fun o => o.pc == b.cr.epc } }) ∧
       (let x := if h then p.fore else p.hind;
        t.core.stream (!h) = { x with acc := x.acc ++ (c.stream (!h)).acc, region := back x.region })) ∧
      t.core.tokens = c.tokens.filter (fun x => !x.byTrap) ∧
      t.core.queries = (c.queries.filter fun q => !q.answered).map (fun q => { q with abandoned := true }) ∧
      (∀ ln, (t.dev.lock ln).writer ≠ some (s.begin.dev.lockName s.me (!s.hind))) ∧ t.dev.mem = s.begin.dev.mem)) ∧
  (∀ s, s.begin.baseCore.cr.priv = true → s.begin.baseCore.susp = none → exec .rett s = .next (s.takeTrap .stream s.issue.pc 0)) ∧
  (∀ a s, s.begin.baseCore.cr.priv = true → let va := va52 (s.begin.pairOf a)
    ∃ t, exec (.tlbinv a) s = .next t ∧ t.took = none ∧ t.blocked = false ∧ t.stream.fetched = none ∧ t.dev.mem = s.begin.dev.mem ∧
      (t.dev.walks = s.begin.dev.walks.map fun w => if s.begin.dev.partOf w.die = s.begin.part then { w with level := 0, table := w.ptbr } else w) ∧
      ∀ id, isCore id = true → (t.dev.core id).tlb = if s.begin.dev.partOfCore id = s.begin.part then
        (s.begin.dev.core id).tlb.filter fun e => !e.covers va else (s.begin.dev.core id).tlb) ∧
  (∀ s, s.begin.baseCore.cr.priv = true →
    ∃ t, exec .tlbinva s = .next t ∧ t.took = none ∧ t.blocked = false ∧ t.stream.fetched = none ∧ t.dev.mem = s.begin.dev.mem ∧
      ∀ id, isCore id = true → (t.dev.core id).tlb = if s.begin.dev.partOfCore id = s.begin.part then []
        else (s.begin.dev.core id).tlb) ∧
  (∀ (f : TlbprbOp) s, s.begin.baseCore.cr.priv = true → let va := s.begin.pairOf f.a
    (∀ e d, va = (va.extractLsb' 0 52).signExtend 64 → (s.begin.core.tlbFind (va52 va) = some e ∧ d = s.begin.dev ∨
        s.begin.core.tlbFind (va52 va) = none ∧ s.begin.dev.walkNow (dieOf s.me) s.begin.core.cr.ptbr.toNat (va52 va) = some (some e, d)) →
      exec (.tlbprb f) s = .next ((s.begin.setDev d).putPair (.even f.d) (BitVec.ofNat 64 ((e.pa + va52 va % pageBytes e.size) % 2 ^ 52 +
        (if e.r then 2 ^ 52 else 0) + (if e.w then 2 ^ 53 else 0) + (if e.x then 2 ^ 54 else 0) + 2 ^ 55 + 2 ^ 56 * (e.size % 4))))) ∧
    (va ≠ (va.extractLsb' 0 52).signExtend 64 → exec (.tlbprb f) s = .next (s.begin.putPair (.even f.d) 0)) ∧
    (∀ d, va = (va.extractLsb' 0 52).signExtend 64 → s.begin.core.tlbFind (va52 va) = none →
      s.begin.dev.walkNow (dieOf s.me) s.begin.core.cr.ptbr.toNat (va52 va) = some (none, d) →
      exec (.tlbprb f) s = .next ((s.begin.setDev d).putPair (.even f.d) 0)) ∧
    (va = (va.extractLsb' 0 52).signExtend 64 → s.begin.core.tlbFind (va52 va) = none →
      s.begin.dev.walkNow (dieOf s.me) s.begin.core.cr.ptbr.toNat (va52 va) = none → exec (.tlbprb f) s = .next (s.waitWith id))) ∧
  (∀ d s, exec (.rdcyc d) s = .next (s.begin.putPair (.even d) (BitVec.ofNat 64 (s.begin.dev.cycle - FMap.get s.begin.dev.dieEpoch (dieOf s.me) 0))) ∧
    exec (.rdtime d) s = .next (s.begin.putPair (.even d) (BitVec.ofNat 64 (s.begin.dev.cycle + Config.timeSkew (dieOf s.me) % 5))))

/-! ## Traps -/

/-- R54, R95, R327, R329: a trap's entry on a core that is not in a trap-handling activation and has a valid handler
255: `k.cause`, `k.epc` and `k.tval` are written, the activation is suspended with its streams' registers, and handler
255 starts privileged with every register zero; every other control register, the memory and every other core stay.
The trap's group has no effect; `trap` and `svc` complete first, and hold NextPC and I. R330: a trap in an activation
started for trap handling, or without a valid handler 255, stops the core: neither stream runs, its control registers
hold the cause, and it refuses every record from then on. (That the entry's PC keeps 52 bits, and bits [63:52] copy bit 51, is read by
inference: log entry 34.) -/
def Obligations.TrapEntry : Prop :=
  (∀ (s : State) (c : Cause) (epc tval : DWord) a, s.baseCore.act = some a → a.handling = false → (s.baseCore.handler 255).valid = true →
    Entered s.base (s.takeTrap c epc tval) s.me s.hind c epc tval) ∧
  (∀ (s : State) (i : Word) a, s.begin.core.act = some a → a.handling = false → (s.begin.core.handler 255).valid = true →
    (∃ t, exec (.trap i) s = .next t ∧ Entered s.begin.dev t s.me s.hind .trap s.issue.nextPc (i.setWidth 64)) ∧
    (∃ t, exec (.svc i) s = .next t ∧ Entered s.begin.dev t s.me s.hind .svc s.issue.nextPc (i.setWidth 64))) ∧
  (∀ (s : State) (c : Cause) (epc tval : DWord), ((∃ a, s.baseCore.act = some a ∧ a.handling = true) ∨ (s.baseCore.handler 255).valid = false) →
    let t := s.takeTrap c epc tval
    t.core.stopped = true ∧ t.core.fore.running = false ∧ t.core.hind.running = false ∧
    t.core.cr.cause = BitVec.ofNat 9 (causeCode c + 256 * s.hind.toNat) ∧ t.core.cr.epc = epc ∧ t.core.cr.tval = tval ∧
    ∀ now r claim, t.core.arrive s.me now r claim = none)

/-! ## Records and activations -/

/-- R242, R243, R255 to R258: a record that arrives at a core: refused by a stopped core; into the privileged queue,
of eight; folded into the oldest waiting record of its handler and key that takes it; else behind the waiting records
below the limit T; else spilled at the ring's tail, or refused. A record that enters gives the crossbar a pulse of
source 4. -/
def Obligations.DriftQueueArrivals : Prop :=
  ∀ (c : Core) (id now : Nat) (r : Line) (claim : Nat), let q := c.dq; let n := recNet r
    let pulsed (q : DriftQ) : Core := Core.pulse { c with dq := q } 4 (recHandler r)
    (c.stopped = true → c.arrive id now r claim = none) ∧
    (c.stopped = false → n = 2 → q.priv.length < 8 → c.arrive id now r claim = some (pulsed { q with priv := q.priv ++ [r] })) ∧
    (c.stopped = false → n = 2 → 8 ≤ q.priv.length → c.arrive id now r claim = none) ∧
    (c.stopped = false → n ≠ 2 → (q.ringCount = 0 ∨ q.limit ≤ q.waiting.length) →
      (∀ l w w' t, q.waiting = l ++ w :: t → (∀ x ∈ l, ¬x.takes (c.handler (recHandler r)) r) →
        w.takes (c.handler (recHandler r)) r → fold (c.handler (recHandler r)) w r = some w' →
        c.arrive id now r claim = some (pulsed { q with waiting := l ++ w' :: t })) ∧
      ((∀ x ∈ q.waiting, ¬x.takes (c.handler (recHandler r)) r) →
        (q.ringCount = 0 → q.waiting.length < q.limit →
          c.arrive id now r claim = some (pulsed { q with waiting := q.waiting ++ [newWaiting r now claim] })) ∧
        (q.limit ≤ q.waiting.length → (q.spill = false ∨ q.ringLen / 64 ≤ q.ringCount) → c.arrive id now r claim = none) ∧
        (q.limit ≤ q.waiting.length → q.spill = true → q.ringCount < q.ringLen / 64 →
          let at_ := q.ringBase + 64 * ((q.ringHead + q.ringCount) % (q.ringLen / 64))
          at_ + 64 ≤ spSize id → ∃ c', c.arrive id now r claim = some c' ∧ c'.dq = { q with ringCount := q.ringCount + 1 } ∧
          ∀ i, i < 64 → inImage id (at_ + i) = false → readByte c'.sp (at_ + i) = r.extractLsb' (8 * i) 8)))

/-- R54, R256, R258: `Fold` on the payload words that a handler's mask names, by the table of operators; `count` adds
1 to w3; `collect` appends, and does not fit beyond 13 words; `adds.w` saturates the exact sum of every arrival. -/
def Obligations.Folding : Prop :=
  ∀ (e : HEntry) (w : Waiting) (a : Line), let n := recCount w.r; let m := recCount a
    (∀ row ∈ ([(1, fun x y => x + y), (3, fun x y => BitVec.ofNat 32 (deliver fp32 .rne (addVal .rne (f32 x) (f32 y))).1),
        (4, fun x y => if x.toInt ≤ y.toInt then x else y), (5, fun x y => if x.toInt ≤ y.toInt then y else x),
        (6, fun x y => if x.toNat ≤ y.toNat then x else y), (7, fun x y => if x.toNat ≤ y.toNat then y else x),
        (8, fun x y => x ||| y), (9, fun x y => x &&& y), (10, fun x _ => x), (11, fun _ y => y)]
        : List (Nat × (Word → Word → Word))),
      e.op.toNat = row.1 → ∃ w', fold e w a = some w' ∧ recCount w'.r = max n m ∧ w'.folds = w.folds + 1 ∧ lineWord w'.r 1 = lineWord w.r 1 ∧
        lineWord w'.r 2 = lineWord w.r 2 ∧ recHandler w'.r = recHandler w.r ∧
        ∀ k, k < 13 → lineWord w'.r (3 + k) = if e.mask.getLsbD k then row.2 (lineWord w.r (3 + k)) (lineWord a (3 + k)) else lineWord w.r (3 + k)) ∧
    (e.op.toNat = 12 → ∃ w', fold e w a = some w' ∧ lineWord w'.r 3 = lineWord w.r 3 + 1 ∧ ∀ k, k < 16 → k ≠ 3 → lineWord w'.r k = lineWord w.r k) ∧
    (e.op.toNat = 13 → 13 < n + m → fold e w a = none) ∧
    (e.op.toNat = 13 → n + m ≤ 13 → ∃ w', fold e w a = some w' ∧ recCount w'.r = n + m ∧
      (∀ j, j < m → lineWord w'.r (3 + n + j) = lineWord a (3 + j)) ∧ ∀ k, 0 < k → k < 3 + n → lineWord w'.r k = lineWord w.r k) ∧
    (e.op.toNat = 2 → ∃ w', fold e w a = some w' ∧ recCount w'.r = max n m ∧ ∀ k, k < 13 → e.mask.getLsbD k = true →
      let x : Int := FMap.get w.sums (3 + k) (lineWord w.r (3 + k)).toInt + (lineWord a (3 + k)).toInt
      FMap.get w'.sums (3 + k) 0 = x ∧ lineWord w'.r (3 + k) = BitVec.ofInt 32 (max (-(2 ^ 31)) (min (2 ^ 31 - 1) x)))

/-- R35 to R37, R188, R244, R251: the start of an activation by a record with a valid handler: fore begins at the
entry's PC with the record in g0 to g15 and every other register zero, hind is idle, and the state that does not
survive an activation has its start value; the rest is kept. (That the entry's PC keeps 52 bits, and bits [63:52] copy bit 51, is read
by inference: log entry 34.) -/
def Obligations.ActivationStart : Prop :=
  ∀ (d : Device) (id : Nat) (r : Line) (redo : Bool) (claim : Nat), let c := d.core id
    (c.handler (recHandler r)).valid = true → let k := (d.startRecord id r redo claim).core id
    k.act = some ⟨r, none, false, claim⟩ ∧ k.fore.running = true ∧ k.fore.pc = (c.handler (recHandler r)).pc.signExtend 64 ∧
    k.fore.entering = some (0, true) ∧ k.hind.running = false ∧
    (∀ n, k.fore.reg n = if n < 16 then lineWord r n else 0) ∧ (∀ n, k.fore.opReg n = 0 ∧ k.fore.latch n = 0) ∧
    (∀ n, k.hind.reg n = 0 ∧ k.hind.opReg n = 0 ∧ k.hind.latch n = 0) ∧ (∀ n, k.queue n = []) ∧
    k.fore.region.st = .closed ∧ k.hind.region.st = .closed ∧ k.mxu.cmds = [] ∧ k.mxu.latch = none ∧ k.tiles = [] ∧ k.journal = [] ∧
    k.cr = { c.cr with
      fflags := 0, qdir := 0, mxsat := false, disc := false, redo := redo, cause := 0, epc := 0, tval := 0, tshp := [],
      priv := decide (recNet r = 2) } ∧
    k.sp = c.sp ∧ k.handlers = c.handlers ∧ k.lanes = c.lanes ∧ k.genFore = c.genFore ∧ k.genHind = c.genHind ∧ k.dq = c.dq ∧ k.mail = c.mail ∧
    (∀ g, g ∈ k.spFull ↔ g ∈ c.spFull ∧ (isMoraine id = true ∨
      ∃ n x, c.area n = some x ∧ n < 16 ∧ (x.persistent = true ∨ x.discardable = true) ∧ x.base ≤ 16 * g ∧ 16 * g < x.base + x.len)) ∧
    ∀ j, j ≠ id → (d.startRecord id r redo claim).core j = d.core j

/-! ## Events -/

/-- R251, R255, R264, R300, R307, R330, R342: what dispatch starts on a core that runs nothing: the oldest privileged record; else
the activation to be started again; else the waiting record of the highest effective priority, the oldest among
equals; else, with no record in the memory queue either, the newest record of the steal deque (the model's reading: log entry 43). A
record that cannot start, its handler's entry and handler 255 being invalid, stops the core, which keeps it. While trap handling
runs, nothing is dispatched (the model's reading: log entry 116). Taking back and ageing, by R242 and R255. -/
def Obligations.DispatchEvents : Prop :=
  ∀ (s : State) (id : Nat), let d := s.dev; let c := d.core id
    let starts (r : Line) : Prop := (c.handler (recHandler r)).valid = true ∨ (c.handler 255).valid = true
    let stops (r : Line) : Prop := ¬starts r → exec (.activationDispatch id) s = .next (s.after (d.halt id .handler)) ∧
      (d.halt id .handler).core id = { (d.halt id .handler).core id with dq := c.dq, redeliver := c.redeliver, deque := c.deque, stopped := true }
    (c.act = none → c.susp = none → c.stopped = false →
      (∀ r l, c.dq.priv = r :: l → stops r ∧ (starts r → exec (.activationDispatch id) s =
        .next (s.after ((d.setCore id { c with dq := { c.dq with priv := l } }).startRecord id r false 0)))) ∧
      (c.dq.priv = [] →
        (∀ a l, c.redeliver = a :: l → let d := d.modCore id fun c => { c with redeliver := l }
          (a.task = none → stops a.r ∧ (starts a.r → exec (.activationDispatch id) s = .next (s.after (d.startRecord id a.r true a.claim)))) ∧
          (∀ x, a.task = some x → exec (.activationDispatch id) s = .next (s.after (d.startTask id x true)))) ∧
        (c.redeliver = [] →
          (∀ l w t, c.dq.waiting = l ++ w :: t → (∀ x ∈ l, c.priority d.cycle x < c.priority d.cycle w) → (∀ x ∈ t, c.priority d.cycle x ≤ c.priority d.cycle w) →
            stops w.r ∧ (starts w.r → exec (.activationDispatch id) s =
              .next (s.after ((d.setCore id { c with dq := { c.dq with waiting := l ++ t } }).startRecord id w.r false w.claim)))) ∧
          (∀ x t, c.dq.waiting = [] → c.dq.ringCount = 0 → c.deque = x :: t →
            exec (.activationDispatch id) s = .next (s.after ((d.setCore id { c with deque := t }).startTask id x false))) ∧
          (c.dq.waiting = [] → c.deque = [] → exec (.activationDispatch id) s = .next (s.after d))))) ∧
    ((c.act ≠ none ∨ c.susp ≠ none ∨ c.stopped = true) → exec (.activationDispatch id) s = .next (s.after d)) ∧
    (c.dq.ringCount ≠ 0 → c.dq.waiting.length < c.dq.limit → let r : Line := BitVec.ofNat 512 (readLE c.sp (c.dq.place 0) 64)
      ∃ t, exec (.memoryQueueTakeBack id) s = .next t ∧ (t.dev.core id).dq.ringCount = c.dq.ringCount - 1 ∧ (t.dev.core id).sp = c.sp ∧
        ((∀ x ∈ c.dq.waiting, ¬x.takes (c.handler (recHandler r)) r) →
          (t.dev.core id).dq.waiting = c.dq.waiting ++ [newWaiting r d.cycle 0])) ∧
    (∀ k w, c.dq.waiting[k]? = some w → 8192 ≤ d.cycle - w.since → ∃ t, exec (.recordAging id k) s = .next t ∧
      (t.dev.core id).dq.waiting = c.dq.waiting.set k { w with aged := true })

/-- R241, R245, R249, R250, R260, R261, R263, R294, R310, R338: an entry leaves its queue as one message to each
destination, or over the fabric: under a number on a rail group that is up, again under that number on another after a
loss, and answered by the other package, which counts it or gives a LOST notice (when the answer comes, and that the
package gives it by a constant, is the model's choice: log entry 29); the links that it takes are noted for R347 (which they are:
the model's reading, log entry 60); messages arrive in order by source, destination and
network; acceptance frees the entry and counts the message, a refusal changes nothing, and a poisoned payload is
destroyed (the model's choice: log entry 94); acknowledgements and tokens raise mailboxes; a decrement counts its
descriptor down. -/
def Obligations.MessageEvents : Prop :=
  ∀ (s : State), let d := s.dev
    (∀ id net e l, (d.core id).netQueue net = e :: l → e.held = false → e.inFlight = false →
      ((e.kind ≠ .record ∨ recPackage e.r = 0) → (d.core id).home = none → exec (.sendQueueDepart id net) s = .next (s.after
        (let u : Device := e.dsts.foldl (fun u x => u.useDies (u.partOfCore id) (dieOf id) (dieOf (u.placeOf x))) d;
          { u.setCore id ((d.core id).setNetQueue net ({ e with inFlight := true } :: l)) with
          flights := d.flights ++ e.dsts.map fun x => ⟨e.kind, e.r, x, net, some id, d.partOfCore id, true, none, 0, 0, 0, 0, none⟩ })))) ∧
    (∀ id net e l pkg, (d.core id).netQueue net = e :: l → e.held = false →
      (e.kind = .record ∧ recPackage e.r = pkg ∧ pkg ≠ 0 ∨
        (e.kind ≠ .record ∨ recPackage e.r = 0) ∧ ∃ h, (d.core id).home = some (pkg, h)) →
      let head (x : SendEntry) : Device := d.setCore id ((d.core id).setNetQueue net (x :: l))
      let sent := FMap.get d.fabSent pkg 0
      (e.fab = none →
        (∀ g, d.fabricGroup pkg = some g → exec (.sendQueueDepart id net) s = .next (s.after
          (Device.useLink { head { e with inFlight := true, fab := some (sent, g) } with fabSent := FMap.set d.fabSent pkg (sent + 1) }
            (d.partOfCore id) (.group g)))) ∧
        ((∀ k, k < 3 → (d.link (.group k)).st ≠ .up) → exec (.sendQueueDepart id net) s = .next (s.after d))) ∧
      (∀ n g, e.fab = some (n, g) →
        ((d.link (.group g)).st = .up → ∀ x, e.dsts = [x] → e.ack = none →
          exec (.sendQueueDepart id net) s = .next (s.after (
            let gone := d.setCore id ((d.core id).setNetQueue net l)
            if Config.fabricAccepts d.tick then gone.modCore id fun c => { c with sent := c.sent + 1 }
            else gone.notice (d.partOfCore id) .lost id [BitVec.ofNat 32 id, lineWord e.r 0, lineWord e.r 1]))) ∧
        ((d.link (.group g)).st ≠ .up → ∀ h, d.fabricGroup pkg = some h → exec (.sendQueueDepart id net) s = .next (s.after
          (Device.useLink { head { e with inFlight := true, fab := some (n, h) } with fabSent := FMap.set d.fabSent pkg (max sent (n + 1)) }
            (d.partOfCore id) (.group h)))) ∧
        ((∀ k, k < 3 → (d.link (.group k)).st ≠ .up) → g < 3 → exec (.sendQueueDepart id net) s = .next (s.after d)))) ∧
    (∀ k f, Deliverable d k f → f.kind = .record → (∀ pkg, d.onward f = some pkg → exec (.recordArrival k) s = .next (s.after (d.forward k f pkg))) ∧
      (d.onward f = none → f.poison ≠ 0 → exec (.recordArrival k) s = .next (s.after (d.destroyFlight k f)))) ∧
    (∀ k f, Deliverable d k f → d.onward f = none → f.poison = 0 → f.kind = .record → d.claimPool (d.placeOf f.dst) f.r = none →
      (∀ e, d.offer (d.placeOf f.dst) f.r = some e → exec (.recordArrival k) s =
        .next (s.after ((if f.counts then e.modCore (d.placeOf f.dst) fun c => { c with recv := c.recv + 1 } else e).accepted k f))) ∧
      (d.offer (d.placeOf f.dst) f.r = none → exec (.recordArrival k) s = .next (s.after d))) ∧
    (∀ k f, Deliverable d k f → d.onward f = none → f.poison = 0 → f.kind = .token → exec (.mackTokenArrival k) s = .next (s.after
      ((d.receivers (d.placeOf f.dst)).foldl (fun d id => d.modCore id fun c => c.addMbox f.mbox f.n) { d with flights := d.flights.eraseIdx k }))) ∧
    (∀ k f, Deliverable d k f → d.onward f = none → f.poison = 0 → f.kind = .decrement → let id := d.placeOf f.dst
      let src := (lineWord f.r 1).toNat
      (∀ e, d.decrementAt id src (lineWord f.r 0).toNat = some e → exec (.dcntArrival k) s =
        .next (s.after ((e.modCore id fun c => { c with recv := c.recv + 1 }).accepted k f))) ∧
      (d.decrementAt id src (lineWord f.r 0).toNat = none → exec (.dcntArrival k) s = .next (s.after d))) ∧
    (∀ k a, d.acks[k]? = some a → exec (.multicastAckComplete k) s = .next (s.after
      { (d.receivers a.core).foldl (fun d id => d.modCore id fun c =>
          c.setMbox a.mbox (BitVec.ofNat 32 (min ((c.mbox a.mbox).toNat + 1) (2 ^ 32 - 1)))) d with acks := d.acks.eraseIdx k })) ∧
    (∀ id src off, (d.core id).stopped = false → off % 16 = 0 → off + 16 ≤ 196608 → let n := (readWord (d.core id).sp off).toNat
      (1 < n → d.decrement id src off = some (d.setCore id ((d.core id).setCounter id off (BitVec.ofNat 32 (n - 1))))) ∧
      (n = 0 → d.decrement id src off = d.arrive id (noticeRecord .codelet ((d.core id).homeId.getD id) [BitVec.ofNat 32 src, BitVec.ofNat 32 off]) 0))

/-- R245, R264, R273, R307, R311, R312, R346: a thief asks a victim that its LFSR picks, and takes the victim's oldest task, which
counts as sent and as received when the thief accepts it (the model's choice: log entry 29), and which both cores of a pair take,
or give up together (how a pair stands as a victim is the model's choice: log entry 20); claim records wait in the die's queue of
256 and go to the idle claimant that has been idle longest, where the delivery gives the pulse of source 4 (the model's choice:
log entry 42) and, in twin mode, of its secondary too; an evaluation goes through the terms in ascending number, and one whose
counters are satisfied fires by its action (what a term that holds a firing does is the model's choice: log entry 41). -/
def Obligations.StealClaimAndTermEvents : Prop :=
  ∀ (s : State), let d := s.dev
    (∀ id l, d.maySteal id = true → d.stealCandidates id = l → l ≠ [] → let x := (d.core id).lfsr
      let y : BitVec 16 := if x.getLsbD 0 then (x >>> 1) ^^^ 0xB400 else x >>> 1
      ∀ v, l[y.toNat % l.length]? = some v → v ≠ id →
        ((d.core v).deque = [] ∨ (∃ x ∈ d.twins, x.2 = v) → exec (.stealRequest id) s =
          .next (s.after (d.modCore id fun c => { c with lfsr := y, steal := .asked none }))) ∧
        (∀ ts t, (∀ x ∈ d.twins, x.2 ≠ v) → (∀ j ∈ d.receivers v, (d.core j).deque.getLast? = some t) → (d.core v).deque = ts ++ [t] →
          ∃ u, exec (.stealRequest id) s = .next u ∧ (u.dev.core v).deque = ts ∧
          ((d.receivers v).Nodup → ∀ j ∈ d.receivers v, (u.dev.core j).deque = (d.core j).deque.dropLast) ∧
          (u.dev.core v).sent = (d.core v).sent ∧ (u.dev.core id).lfsr = y ∧ (u.dev.core id).steal = .asked (some (v, t)))) ∧
    (∀ id, (∀ v t, (d.core id).steal = .asked (some (v, t)) → exec (.stealAnswer id) s = .next (s.after
        (((((d.receivers id).foldl (fun (e : Device) j => e.modCore j fun c => { c with deque := t :: c.deque }) d).modCore id fun c =>
          { c with steal := .ready }).modCore (d.placeOf v) fun c => { c with sent := c.sent + 1 }).modCore
          id fun c => { c with recv := c.recv + 1 }))) ∧
      ((d.core id).steal = .asked none → exec (.stealAnswer id) s = .next (s.after (d.setCore id { d.core id with steal := .backoff d.cycle }))) ∧
      (∀ t, (d.core id).steal = .backoff t → 256 ≤ d.cycle - t → exec (.stealBackoffExpiry id) s =
        .next (s.after (d.setCore id { d.core id with steal := .ready })))) ∧
    (∀ k f p, Deliverable d k f → d.onward f = none → f.poison = 0 → f.kind = .record → let id := d.placeOf f.dst
      d.claimPool id f.r = some p →
      ((d.claims (dieOf id)).length < 256 → exec (.claimRecordArrival k) s = .next (s.after
        ((Device.accepted { d with
          claimq := FMap.set d.claimq (dieOf id) (d.claims (dieOf id) ++ [⟨f.r, p⟩]),
          claimRecv := if f.counts then FMap.set d.claimRecv (dieOf id) (FMap.get d.claimRecv (dieOf id) 0 + 1) else d.claimRecv } k f).settlePools (dieOf id)))) ∧
      (256 ≤ (d.claims (dieOf id)).length → exec (.claimRecordArrival k) s = .next (s.after d))) ∧
    (∀ die pool l r t id, pool ≠ 0 → d.claims die = l ++ r :: t → (∀ x ∈ l, x.pool ≠ pool) → r.pool = pool →
      longestIdle d (d.idleClaimants die pool) = some id → exec (.claimDelivery die pool) s = .next (s.after
        (((d.receivers id).foldl (fun (e : Device) j => e.modCore j fun c =>
          Core.pulse { c with dq := { c.dq with waiting := c.dq.waiting ++ [newWaiting r.r d.cycle pool] } } 4 (recHandler r.r))
          { d with claimq := FMap.put d.claimq die (l ++ t) [] }).settlePools die))) ∧
    (∀ die pool, d.idleClaimants die pool = [] → exec (.claimDelivery die pool) s = .next (s.after d)) ∧
    (∀ id t, t < 8 → let c := d.core id
      (c.term t).holding = false →
      ((∀ j, j < t → (c.term j).holding = true ∨ c.termTrue j = false) → exec (.termFire id t) s =
        .next (s.after (((List.range 8).drop t).foldl (fun d j => d.fireTerm id j) d))) ∧
      ((∃ j, j < t ∧ (c.term j).holding = false ∧ c.termTrue j = true) → exec (.termFire id t) s = .next (s.after d))) ∧
    (∀ id t, t < 8 → ((d.core id).term t).holding = true → exec (.termFire id t) s = .next (s.after (d.termRecordArrives id t))) ∧
    (∀ id t, let c := d.core id; let x := c.term t
      (x.holding = true ∨ c.termTrue t = false → d.fireTerm id t = d) ∧
      (x.holding = false → c.termTrue t = true →
        (bits x.cfg 18 16 = 1 → d.fireTerm id t = d.setCore id ((c.consume t).setTerm t { x with credits := min (x.credits + 1) 255 })) ∧
        (bits x.cfg 18 16 = 2 → d.fireTerm id t = d.setCore id ((c.consume t).setTerm t { x with credits := x.credits + 1 })) ∧
        (bits x.cfg 18 16 = 3 → d.fireTerm id t = d.setCore id ((c.consume t).setTerm t { x with wakes := min (x.wakes + 1) 255 })) ∧
        (bits x.cfg 18 16 = 4 → let r := lineOfWords [recWord0 (bits x.cfg 26 19) 0 1 false (c.homeId.getD id), BitVec.ofNat 32 (0x100 + t), 0, 1]
          (∀ k, (c.consume t).arrive id d.cycle r 0 = some k →
            ((d.fireTerm id t).core id).dq = k.dq ∧ ((d.fireTerm id t).core id).term t = { k.term t with holding := false }) ∧
          ((c.consume t).arrive id d.cycle r 0 = none →
            ((d.fireTerm id t).core id).dq = c.dq ∧ ((d.fireTerm id t).core id).term t = { x with holding := true }))))

/-- R114, R115, R159, R164, R167, R172, R175 to R177, R273: the matrix unit at work: the head command starts where the
gate allows it; a row of an `mma` streams into its row of the accumulator, which takes its sums as the row streams (the
model's choice: log entry 72), where the budget of the window of 128 cycles allows one more; a row that the budget refuses
waits, and `k.mxstl` takes the cycles that it has waited, to the end of the window at most (how they are counted while the
budget changes is the model's choice: log entry 71); a command completes once its rows have streamed. On an S-core an
element is the old one plus the exact sum of the products, saturated. -/
def Obligations.MatrixEvents : Prop :=
  (∀ (s : State) (id : Nat) m l, (s.dev.core id).mxu.cmds = m :: l → let d := s.dev; let c := d.core id
    c.mxu.halted = false →
    (m.executing = false → (∀ t, t < 8 → bits (c.term t).cfg 18 16 ≠ 1) → ∃ t, exec (.mxuCommandStart id) s = .next t ∧
      (t.dev.core id).mxu.cmds = { m with executing := true } :: l ∧ (t.dev.core id).xterm = c.xterm) ∧
    (m.executing = false → (∃ t, t < 8 ∧ bits (c.term t).cfg 18 16 = 1) → (∀ t, t < 8 → bits (c.term t).cfg 18 16 = 1 → (c.term t).credits = 0) →
      ∃ t, exec (.mxuCommandStart id) s = .next t ∧ (t.dev.core id).mxu.cmds = m :: l) ∧
    (m.executing = true → (m.minor = 2 ∨ m.minor = 5 ∨ ((m.minor = 3 ∨ m.minor = 4) ∧ m.rows = m.m)) → ∃ t, exec (.mxuCommandComplete id) s = .next t ∧
      (t.dev.core id).mxu.cmds = l ∧ (t.dev.core id).mxu.lastTag = m.tag ∧
      (m.minor = 2 → ∃ x, (t.dev.core id).mxu.latch = some x ∧ x.fmt = m.fmt ∧ x.shape = m.shape ∧ x.bytes = c.tile (m.a.toNat % 16)) ∧
      (m.minor = 5 → ∀ i, i < 64 → (t.dev.core id).row id (64 * (m.d.toNat % 2) + i) = 0) ∧
      (m.minor ≠ 5 → (t.dev.core id).rows = c.rows)) ∧
    (∀ w, m.executing = true → m.minor = 3 → m.rows < m.m → c.mxu.latch = some w → let n := 64 * (m.d.toNat % 2) + m.rows
      let h := shapeOf m.shape; let budget := min c.cr.mxbud (d.governor (d.partOfCore id))
      let now := d.cycle - FMap.get d.dieEpoch (dieOf id) 0
      let used := if c.mxu.winNo = now / 128 then c.mxu.winRows else 0
      (∀ f, c.mxu.govFrom = some f → budget ≠ 0 → d.stalledOf id = min now ((f / 128 + 1) * 128) - f) ∧
      (used < budget → ∃ t, exec (.mxuRowStream id) s = .next t ∧
        (t.dev.core id).mxu.cmds = { m with rows := m.rows + 1 } :: l ∧ (t.dev.core id).mxu.winRows = used + 1 ∧
        (t.dev.core id).mxu.winNo = now / 128 ∧ (t.dev.core id).mxu.govFrom = none ∧
        (t.dev.core id).cr.mxstl = c.cr.mxstl + BitVec.ofNat 32 (d.stalledOf id) ∧
        (t.dev.core id).row id n = (mmaRow (isSCore id) m w (c.row id n) (rowElems h.cols h.b
          (c.tileRow (m.a.toNat % 16) h m.rows % 2 ^ 4096))).1 ∧
        ∀ r, r ≠ n → (t.dev.core id).row id r = c.row id r) ∧
      (budget ≤ used → ∃ t, exec (.mxuRowStream id) s = .next t ∧ (t.dev.core id).mxu.cmds = m :: l ∧ (t.dev.core id).rows = c.rows ∧
        (c.mxu.govFrom = none → (t.dev.core id).mxu.govFrom = some now ∧ (t.dev.core id).cr.mxstl = c.cr.mxstl) ∧
        (∀ f, c.mxu.govFrom = some f → (f / 128 = now / 128 → t.dev.core id = c) ∧
          (f / 128 ≠ now / 128 → (t.dev.core id).mxu.govFrom = some now ∧
            (t.dev.core id).cr.mxstl = c.cr.mxstl + BitVec.ofNat 32 (d.stalledOf id)))))) ∧
  (∀ (w acc : Nat) (ps : List (Nat × Int)), let x := signedOf w acc + (ps.map fun p => ps8Product p.1 p.2).sum
    let y := max (-(2 ^ (w - 1))) (min (2 ^ (w - 1) - 1) x)
    sSum w acc ps = (patternOf w y, decide (y ≠ x))) ∧
  (∀ (s : State) (die : Nat), let d := s.dev; let now := d.cycle - FMap.get d.dieEpoch die 0
    ∃ t, exec (.governorWindow die) s = .next t ∧ ∀ id, let c := d.core id
      (id ∈ d.listedOf die → c.mxu.winNo ≠ now / 128 → d.budgetOf id ≠ 0 →
        (t.dev.core id).mxu = { c.mxu with winNo := now / 128, winRows := 0, govFrom := none } ∧
        (t.dev.core id).cr.mxstl = c.cr.mxstl + BitVec.ofNat 32 (d.stalledOf id)) ∧
      (id ∉ d.listedOf die ∨ c.mxu.winNo = now / 128 → t.dev.core id = c)) ∧
  (∀ (s : State) (k : Nat) x, s.dev.linkFlights[k]? = some x →
    (∀ j y, j < k → s.dev.linkFlights[j]? = some y → ¬(y.dst = x.dst ∧ y.dir = x.dir)) →
    ∃ t, exec (.linkRowArrival k) s = .next t ∧ t.dev.linkFlights = s.dev.linkFlights.eraseIdx k ∧
      (t.dev.core x.dst).linkBuf x.dir = (s.dev.core x.dst).linkBuf x.dir ++ [x.row]) ∧
  (∀ (s : State) (id : Nat), (s.dev.core id).vecBusy ≠ 0 → exec (.vectorInstructionComplete id) s = .next (s.after
    (s.dev.setCore id (Core.pulse { s.dev.core id with vecBusy := (s.dev.core id).vecBusy - 1 } 2 0)))) ∧
  (∀ (s : State) (id : Nat), (s.dev.core id).vecBusy = 0 → (s.dev.core id).mxu.cmds = [] →
    (∃ t, exec (.vectorInstructionComplete id) s = .next t ∧ t.dev.core id = s.dev.core id) ∧
    (∃ t, exec (.mxuCommandComplete id) s = .next t ∧ t.dev.core id = s.dev.core id) ∧
    exec (.mxuRowStream id) s = .next (s.after s.dev))

/-- R84, R134, R156, R196, R198, R211, R217, R218, R280 to R286: accesses are performed at their places, in order by
stream and bank: a load's value goes to its registers; a store's bytes to its place, unless its line is locked; a
release query is answered once every slice has all of its round; a load whose answer is poisoned writes nothing and drops the loads
behind it, and its stream, which takes POISON at its next turn, or while suspended is kept at the load's group (R329; the model's
reading: log entry 10); a lock is granted unless another region excludes it;
writes reach scratchpad ports and rows oldest first (each pushed granule sets its KiB's tag, and the oldest waiting line enters:
the model's choices, log entries 102 and 80); a walk reads one level at a time, and its leaf fills the TLB whatever it permits (its
reading: log entry 15). An access whose home is on another
die goes there as a numbered message, and a store waits there for its line to be unlocked (R293; that an access at once
needs an idle pair of dies is the model's choice: log entry 61). -/
def Obligations.MemoryEvents : Prop :=
  ∀ s : State, let d := s.dev
    (∀ id hind k a, (d.core id).susp = none → ((d.core id).stream hind).acc[k]? = some a →
      (∀ j b, j < k → ((d.core id).stream hind).acc[j]? = some b → homeSlice b.pa ≠ homeSlice a.pa) →
      (a.seq = none → d.accessCrosses id a.kind a.pa = true → let src := dieOf id; let dst := homeDie a.pa
        let alt := !d.routeOpen (routeXY src dst); let round := (d.core id).round
        let back : List PacketBody := match (if isMarkhor id then d.copy (pkgCluster id) (a.pa / 64) else none) with
          | some l => if l.mask = 0 then [] else [.writeBack (64 * l.ln) l.data l.mask l.poison (some (id, round))]
          | none => []
        let n := d.sent src dst + back.length
        ∃ t, (if a.kind.isStore then exec (.accessAtHome id hind k) s else exec (.globalLoadReturn id hind k) s) = .next t ∧
          t.dev.packets src dst = d.packets src dst ++ back.map (⟨d.sent src dst, ·, alt, false⟩) ++ [⟨n, .access id hind, alt, false⟩] ∧
          t.dev.sent src dst = n + 1 ∧ ((t.dev.core id).stream hind).acc = ((d.core id).stream hind).acc.set k { a with seq := some n } ∧
          (back ≠ [] → (t.dev.core id).sentTo = bumpCount (d.core id).sentTo (homeSlice a.pa) round) ∧ t.dev.mem = d.mem) ∧
      (a.kind = .load ∨ a.kind = .volLoad → a.seq = none → d.accessCrosses id a.kind a.pa = false →
        let r := if a.kind = .volLoad then d.loadHome id a.pa a.n else d.loadPlain id a.pa a.n
        let x := (d.core id).stream hind; let va := (BitVec.ofNat 52 a.va).signExtend 64
        ∃ t, exec (.globalLoadReturn id hind k) s = .next t ∧ t.dev.mem = r.2.mem ∧ t.dev.caches = r.2.caches ∧
          (d.loadBad id a.pa a.n (a.kind == .volLoad) = none →
            (t.dev.core id).stream hind = { x.putLoad a.dst a.signed r.1 with acc := x.acc.eraseIdx k }) ∧
          (∀ b, d.loadBad id a.pa a.n (a.kind == .volLoad) = some b → (t.dev.core id).stream hind = { x with
            acc := x.acc.take k ++ (x.acc.drop (k + 1)).filter (fun y => y.kind.isStore), struck := some (a.pc, besideVa va a.pa b) })) ∧
      (a.kind = .store ∨ a.kind = .volStore →
        (d.locked a.pa = false → (a.seq = none ∧ d.accessCrosses id a.kind a.pa = false ∨ a.seq.isSome = true ∧ a.arrived = true) →
          let e := if a.kind = .volStore then
            (d.storeHome id a.pa (leBytes a.n a.data.toNat)).scopeClear (a.pa / 64) else d.storePlain id a.pa (leBytes a.n a.data.toNat)
          let e := e.taintStore id a (a.kind == .store && d.storesAtCopy id a.pa)
          ∃ t, exec (.accessAtHome id hind k) s = .next t ∧ t.dev.mem = e.mem ∧ t.dev.caches = e.caches ∧ t.dev.versions = e.versions ∧
            t.dev.memPoison = e.memPoison ∧ ((t.dev.core id).stream hind).acc = ((d.core id).stream hind).acc.eraseIdx k ∧
            (t.dev.core id).counted = bumpCount (d.core id).counted a.slice a.round) ∧
        (a.seq = none → d.accessCrosses id a.kind a.pa = false → d.locked a.pa = true → exec (.accessAtHome id hind k) s = .next (s.after d)) ∧
        (a.seq.isSome = true → a.arrived = false ∨ d.locked a.pa = true → exec (.accessAtHome id hind k) s = .next (s.after d)))) ∧
    (∀ id hind k a p, (d.core id).susp = some p → let x := if hind then p.hind else p.fore
      x.acc[k]? = some a → (∀ j b, j < k → x.acc[j]? = some b → homeSlice b.pa ≠ homeSlice a.pa) →
      a.kind = .load ∨ a.kind = .volLoad → a.seq = none → d.accessCrosses id a.kind a.pa = false →
      (d.loadBad id a.pa a.n (a.kind == .volLoad)).isSome = true → ∃ t q, exec (.globalLoadReturn id hind k) s = .next t ∧
        (t.dev.core id).susp = some q ∧ (t.dev.core id).stream hind = (d.core id).stream hind ∧
        (if hind then q.hind else q.fore) = { x with
          pc := a.pc, entering := none, ending := false, struck := none,
          acc := x.acc.take k ++ (x.acc.drop (k + 1)).filter (fun y => y.kind.isStore) }) ∧
    (∀ id l q r, (d.core id).queries = l ++ q :: r → (∀ x ∈ l, x.answered = true) → q.answered = false → q.abandoned = false →
      ((∀ x ∈ (d.core id).sentTo, x.round = q.round → q.inst.hasSlice x.slice = true →
          countAt (d.core id).counted x.slice x.round = x.n) →
        ∃ t, exec (.releaseQueryReply id) s = .next t ∧
          (t.dev.core id).queries = l ++ r.filter (fun x => x.answered) ++ [{ q with answered := true }]) ∧
      ((∃ x ∈ (d.core id).sentTo, x.round = q.round ∧ q.inst.hasSlice x.slice = true ∧
          countAt (d.core id).counted x.slice x.round ≠ x.n) → exec (.releaseQueryReply id) s = .next (s.after d))) ∧
    (∀ id hind k pa, let r := ((d.core id).stream hind).region; let me := d.lockName id hind; let l := d.lock (pa / 64)
      r.pass = some k → r.lines[k]? = some pa → let writes := r.ws.any fun x => x.pa == pa
      let free := d.linkIdle (dieOf id) pa = true ∧ (d.core id).home = none ∧ (l.writer = none ∨ l.writer = some me) ∧ (writes = true → ∀ x ∈ l.readers, x = me)
      (free → ∃ t, exec (.proposalLockGrant id hind) s = .next t ∧ ((t.dev.core id).stream hind).region = { r with pass := some (k + 1) } ∧
        t.dev.lock (pa / 64) = if writes then { l with writer := some me } else { l with readers := l.readers ++ [me] }) ∧
      (¬free → exec (.proposalLockGrant id hind) s = .next (s.after d))) ∧
    (∀ id w l, (d.core id).nbq = w :: l → exec (.neighbourWriteArrival id) s = .next (s.after (d.setCore id
      { (d.core id).spStore id w.off (leBytes w.n w.data.toNat) w.fill (some 0) w.poison with nbq := l } |>.modCore w.src
        fun c => c.passNb w.hind id))) ∧
    (∀ id g l, (d.core id).portq = g :: l → exec (.dpushGranuleArrival id) s = .next (s.after ((d.receivers id).foldl (fun e j =>
      e.modCore j fun c => c.spStore j g.off (leBytes 16 g.data.toNat) true (some g.tag) g.poison)
      (d.modCore id fun c => { c with portq := l })))) ∧
    (∀ i op l, d.bankOps i = op :: l → let die := bankDie i; let ch := bankChannel i
      let e : Device := { d with bankq := FMap.put d.bankq i l [] }
      ∃ t, exec (.bankOperation i) s = .next t ∧
      (d.waitLines die ch = [] ∨ 64 ≤ e.heldLines die ch → t.dev.bankOps i = l ∧ t.dev.waitLines die ch = d.waitLines die ch) ∧
      (∀ w ws, d.waitLines die ch = w :: ws → e.heldLines die ch < 64 →
        t.dev.bankOps w.bank = (if w.bank = i then l else d.bankOps w.bank) ++ [w.op] ∧ t.dev.waitLines die ch = ws) ∧
      t.dev.mem = writeBytes d.mem op.pa (leBytes 64 op.data.toNat) ∧ t.dev.cores = d.cores) ∧
    (∀ k w, d.walks[k]? = some w → let va := 32768 * w.page; let at_ := w.table + 8 * walkIndex w.level va
      (d.linkIdle w.die at_ = false → exec (.pageWalkLevel k) s = .next (s.after d)) ∧
      (d.linkIdle w.die at_ = true →
      let d := (d.countCross w.die at_).touchHome at_
      (∀ x, d.walkLevel w.level w.table va = .pointer x → exec (.pageWalkLevel k) s = .next (s.after
        { d with walks := d.walks.set k { w with level := w.level + 1, table := x } })) ∧
      (∀ e, d.walkLevel w.level w.table va = .leaf e → ∃ t, exec (.pageWalkLevel k) s = .next t ∧ t.dev.walks = d.walks.eraseIdx k ∧
        ∀ id, id ∈ w.reqs → (d.core id).cr.ptbr.toNat = w.ptbr → (t.dev.core id).tlb.head? = some e) ∧
      (d.walkLevel w.level w.table va = .fail → ∃ t, exec (.pageWalkLevel k) s = .next t ∧ t.dev.walks = d.walks.eraseIdx k ∧
        ∀ id, id ∈ w.reqs → (d.core id).cr.ptbr.toNat = w.ptbr → w.page ∈ (t.dev.core id).walkFail)))

/-- R263, R266, R268, R270 to R273, R295, R296, R333, R337: a card enters its die's unit once what its stream sent before it is
done (its die's write-backs too: the model's reading, log entry 44), then an inbox once nothing before it overlaps; copies move a
granule at a time and gathers an element of any size, with the poison of the index word in what the element writes (the model's
choice: log entry 47); a fault suspends the job with a JOBFAULT notice and a retry after its service moves the same granule; a
complete group of collective cards, of any kind, operator and member count, executes at once; a finished job writes its status
once, with the card's tag (the model's reading: log entry 49), counts its counter down over the links to it (R347: which it uses
is the model's reading, log entry 60), gives its pulse to both cores of a pair (R346) and leaves. -/
def Obligations.EngineEvents : Prop :=
  (∀ s : State, let d := s.dev
    (∀ id x l, (d.core id).fifo = x :: l → (d.jobs.filter fun j => j.die == dieOf id).length < 512 →
      (d.passed id x.hind x.before = true → (∀ t, t < 8 → bits ((d.core id).term t).cfg 18 16 ≠ 2) → exec (.cardLeavesFifo id) s = .next (s.after
        { d.setCore id { d.core id with fifo := l } with
          jobs := d.jobs ++ [⟨dieOf id, x, .unit, 0, none, none, none, [], false, false, false, false, 0⟩] })) ∧
      (d.passed id x.hind x.before = false → exec (.cardLeavesFifo id) s = .next (s.after d))) ∧
    (∀ k j, d.jobs[k]? = some j → j.stage = .unit → d.inboxRoom j.card = true →
      ((∀ i e, i < k → d.jobs[i]? = some e → e.die = j.die → j.behind e = false) →
        exec (.jobEntersInbox k) s = .next (s.after { d with jobs := d.jobs.set k { j with stage := .inbox } })) ∧
      ((∃ i e, i < k ∧ d.jobs[i]? = some e ∧ e.die = j.die ∧ j.behind e = true) → exec (.jobEntersInbox k) s = .next (s.after d))) ∧
    (∀ k j sp sa dp da n, d.jobs[k]? = some j → j.card.work = .copy sp sa dp da n → (j.stage = .inbox ∧ j.fault = none) →
      let moved := d.moveGran k j.card sp (sa + 16 * j.progress) dp (da + 16 * j.progress)
      (∀ e, moved = .ok e → exec (.copyGranule k) s = .next (s.after
        { e with jobs := e.jobs.modify k fun j =>
          { j with progress := j.progress + 1, stage := if n ≤ 16 * (j.progress + 1) then .done else .inbox } })) ∧
      (∀ e c x, moved = .fault e c x → let r := noticeRecord .jobfault j.card.core [BitVec.ofNat 32 (causeCode c), BitVec.ofNat 32 x,
            BitVec.ofNat 32 (x / 2 ^ 32), BitVec.ofNat 32 j.progress, BitVec.ofNat 32 (j.card.tag.toNat + j.card.core * 65536)]
        exec (.copyGranule k) s = .next (s.after (Device.notify { e with jobs := e.jobs.modify k fun j =>
          { j with fault := some c, notice := some r, served := false } } (d.partOf j.die) ⟨false, r⟩))) ∧
      (∀ e, moved = .wait e → exec (.copyGranule k) s = .next (s.after e))) ∧
    (∀ k j c, d.jobs[k]? = some j → j.stage = .inbox → j.fault = some c →
      (j.served = true → let e : State := s.setDev { d with jobs := d.jobs.set k { j with fault := none, notice := none, served := false } }
        (∀ sp sa dp da n, j.card.work = .copy sp sa dp da n → exec (.jobRetry k) s = exec (.copyGranule k) e) ∧
        (∀ sp ba es sz li n dp da w o, j.card.work = .gather sp ba es sz li n dp da w o → exec (.jobRetry k) s = exec (.gatherElement k) e)) ∧
      (j.served = false → exec (.jobRetry k) s = .next (s.after d))) ∧
    (∀ k j src base entries size list count dst da fill o, d.jobs[k]? = some j →
      j.card.work = .gather src base entries size list count dst da fill o → j.stage = .inbox → j.fault = none → 16 ≤ size →
      let c := d.core j.card.core; let per := size / 16; let p := j.progress; let i := p / per
      let idx := j.index.getD (readWord c.sp (list + 4 * i)); let bad := (c.spBad (list + 4 * i) 4).isSome
      let start : Device := { d with jobs := d.jobs.modify k fun j =>
        { j with index := some idx, outOfRange := j.outOfRange || decide (entries ≤ idx.toNat) } }
      let step (e : Device) : Device := { e with jobs := e.jobs.modify k fun j => { j with progress := j.progress + 1 } }
      let read (e : Device) (q : Nat) : Gran ((Nat × Bool) × Device) := if idx.toNat < entries
        then e.readGran k j.card src (base + idx.toNat * size + 16 * (q % per)) else .ok ((fill.toNat * (1 + 2 ^ 32 + 2 ^ 64 + 2 ^ 96), false), e)
      ∀ (e : Nat → Device) n, e 0 = start → n ≤ per - p % per →
        (∀ g, g < n → ∃ v b x y, read (e g) (p + g) = .ok ((v, b), x) ∧ x.writeGran k j.card dst (da + 16 * (p + g)) v (b || bad) = .ok y ∧
          e (g + 1) = step y) →
        (n = per - p % per → exec (.gatherElement k) s = .next (s.after { e n with jobs := (e n).jobs.modify k fun j =>
          { j with index := none, stage := if j.progress = count * per then .done else j.stage } })) ∧
        (n < per - p % per → p < count * per → let stops (g : Gran Device) : Prop :=
            (∀ x cause addr, g = .fault x cause addr → exec (.gatherElement k) s = .next (s.after (x.suspendJob k cause addr))) ∧
            (∀ x, g = .wait x → exec (.gatherElement k) s = .next (s.after x))
          (∀ x cause addr, read (e n) (p + n) = .fault x cause addr → stops (.fault x cause addr)) ∧
          (∀ x, read (e n) (p + n) = .wait x → stops (.wait x)) ∧
          (∀ v b x, read (e n) (p + n) = .ok ((v, b), x) → stops (x.writeGran k j.card dst (da + 16 * (p + n)) v (b || bad))))) ∧
    (∀ k mem c rest, d.collGroup k = some mem → (mem.filterMap fun i => (d.jobs[i]?).map (·.card)) = c :: rest → let cards := c :: rest
      let ordered := (List.range c.members).filterMap fun r => cards.find? fun x => x.rank == r
      (¬(cards.all c.agrees = true ∧ (cards.map Card.rank).Nodup) → ∃ t, exec (.collectiveGroupExecute k) s = .next t ∧ t.dev.cores = d.cores ∧
        ∀ i, t.dev.jobs[i]? = (d.jobs[i]?).map fun j => if i ∈ mem then { j with stage := .done, groupError := true } else j) ∧
      (cards.all c.agrees = true → (cards.map Card.rank).Nodup → ∀ kind op m rk key sa da n o, c.work = .coll kind op m rk key sa da n o →
        let r := collResult kind op (ordered.map d.collSource); let bytes := r.1.flatMap fun e => leBytes 4 e.1.toNat
        ∃ t, exec (.collectiveGroupExecute k) s = .next t ∧ t.dev.mem = d.mem ∧
          (∀ i, t.dev.jobs[i]? = (d.jobs[i]?).map fun j => if i ∈ mem then { j with stage := .done, flags := r.2 } else j) ∧
          ((cards.map (·.core)).Nodup → d.twins = [] → ∀ x ∈ ordered, ∀ b, inImage x.core b = false →
            x.collDst + bytes.length ≤ spSize x.core → readByte (t.dev.core x.core).sp b =
              if x.collDst ≤ b ∧ b < x.collDst + bytes.length then (bytes[b - x.collDst]?).getD 0 else readByte (d.core x.core).sp b))) ∧
    (∀ k j, d.jobs[k]? = some j → j.stage = .done → let id := j.card.core
      let e : Device := match (if j.reported then none else j.card.desc) with
        | some o => { d.portWrite id (o + 60) (leBytes 4 (1 + 2 * j.outOfRange.toNat + 4 * j.groupError.toNat + 256 * j.flags.toNat))
            false j.card.layout false with jobs := d.jobs.modify k fun j => { j with reported := true } }
        | none => d
      let left (x : Device) : Device :=
        { (x.receivers id).foldl (fun (y : Device) i => y.modCore i fun c => c.pulse 1 j.card.tag.toNat) x with jobs := x.jobs.eraseIdx k }
      (j.card.counter = none → exec (.jobComplete k) s = .next (s.after (left e))) ∧
      (∀ owner off, j.card.counter = some (owner, off) →
        (∀ at_, e.ownerOf id owner = .inl at_ → let src := (e.core id).homeId.getD id; let u := e.useDies (e.partOfCore id) (dieOf id) (dieOf at_)
          (∀ x, u.decrementAt at_ src off = some x → exec (.jobComplete k) s = .next (s.after (left x))) ∧
          (u.decrementAt at_ src off = none → exec (.jobComplete k) s = .next (s.after u))) ∧
        (∀ pkg, e.ownerOf id owner = .inr pkg → let u : Device := match e.fabricGroup pkg with
            | some g => e.useLink (e.partOfCore id) (.group g)
            | none => e
          ((e.fabricGroup pkg).isSome && Config.fabricAccepts e.tick) = false → exec (.jobComplete k) s = .next (s.after u))))) ∧
  (∀ op a l, (collResult 0 op (a :: l)).1 = a ∧ (collResult 2 op (a :: l)).1 = (a :: l).flatten ∧
    ((∀ b ∈ l, b.length = a.length) → ∀ i, i < a.length → ((collResult 1 op (a :: l)).1[i]?).map (·.1) =
      (a[i]?).map fun x => l.foldl (fun acc b => (collOp op acc ((b[i]?).getD (0, false)).1).1) x.1)) ∧
  (∀ x y : Word, collOp 0 x y = (x + y, 0) ∧ (collOp 1 x y).1 = BitVec.ofNat 32 (deliver fp32 .rne (addVal .rne (f32 x) (f32 y))).1 ∧
    collOp 2 x y = (if x.toInt < y.toInt then x else y, 0) ∧ collOp 3 x y = (if x.toInt < y.toInt then y else x, 0))

/-- R302 to R310, R314, R346: a bind record written by its die's management core with its valid bit binds the team, unless a code
rejects it: the entry handler takes its priority on every member, and a member with an empty queue gets its start record with its
rank. A valid record takes a new priority or pool alone; one cleared unbinds once every member is idle; a second binding in twin
mode pairs the members by rank (how a pair is made is the model's choice: log entry 20). A team whose members wait for their start
moves to the die of its partition with the most free slots, at the lowest cluster that is vacant there, and messages for its
members follow (which members qualify, what is a free slot and where a team lands are the model's choice: log entry 57); a
portable one leaves for the slots that another package lends, with what is sent to any id of its members going on there, and one
that comes is bound with its home and the page table lent with the slots (log entry 31). -/
def Obligations.TeamEvents : Prop :=
  (∀ (s : State) (ac : RegAccess) (die team : Nat) (w0 w1 w2 : Word), let d := s.dev; let old := d.slot die team; let b : BindRec := ⟨w0, w1, w2, 0, true, false⟩
    d.boot = .running → die < 8 → team < 256 →
    ((ac.bytes ≠ 4 ∨ ac.agent ≠ .management die) → ∀ x, exec (.bindRecordWrite ac die team ⟨w0, w1, w2⟩ x) s = .next (s.after d)) ∧
    (ac.bytes = 4 → ac.agent = .management die →
    (old.valid = false → w0.getLsbD 17 = true →
      (d.bindCode die team b = 0 → ∃ t, exec (.bindRecordWrite ac die team ⟨w0, w1, w2⟩ none) s = .next t ∧ t.dev.slot die team = b ∧
        ∀ id, id ∈ b.members die → ((t.dev.core id).handler (bits w0 7 0)).prio = BitVec.ofNat 2 (bits w0 9 8) ∧
          ((t.dev.core id).handler (bits w0 7 0)).pc = ((d.core id).handler (bits w0 7 0)).pc ∧
          ∀ k, (b.members die)[k]? = some id → (d.core id).stopped = false → (d.core id).dq.waiting = [] → (d.core id).dq.ringCount = 0 →
            0 < (d.core id).dq.limit → ∃ w, (t.dev.core id).dq.waiting = [w] ∧ w.r = lineOfWords [recWord0 (bits w0 7 0) 0 3 false
              ((d.core id).homeId.getD id), BitVec.ofNat 32 team, 0, BitVec.ofNat 32 k, BitVec.ofNat 32 (b.members die).length,
              BitVec.ofNat 32 team]) ∧
      (d.bindCode die team b ≠ 0 → exec (.bindRecordWrite ac die team ⟨w0, w1, w2⟩ none) s = .next (s.after
        (d.setSlot die team { old with status := BitVec.ofNat 32 (d.bindCode die team b) })))) ∧
    (old.valid = false → w0.getLsbD 17 = false →
      exec (.bindRecordWrite ac die team ⟨w0, w1, w2⟩ none) s = .next (s.after (d.setSlot die team ⟨w0, w1, w2, 0, false, false⟩))) ∧
    (old.valid = true → w0.getLsbD 17 = false → exec (.bindRecordWrite ac die team ⟨w0, w1, w2⟩ none) s = .next (s.after
      (d.setSlot die team { old with status := 0, clearing := true }))) ∧
    (old.valid = true → w0.getLsbD 17 = true → (w1 ≠ old.w1 ∨ w2 ≠ old.w2 ∨ bits w0 7 0 ≠ bits old.w0 7 0) →
      exec (.bindRecordWrite ac die team ⟨w0, w1, w2⟩ none) s = .next (s.after (d.setSlot die team { old with status := 1 }))) ∧
    (old.valid = true → w1 = old.w1 → w2 = old.w2 → (∀ i, i ≠ 8 → i ≠ 9 → i ≠ 15 → i ≠ 16 → w0.getLsbD i = old.w0.getLsbD i) →
      w0.getLsbD 17 = true → (bits w0 16 15 = 0 ∨ w1.getLsbD 5 = false) → ∃ t, exec (.bindRecordWrite ac die team ⟨w0, w1, w2⟩ none) s = .next t ∧
        t.dev.slot die team = { old with w0 := w0, status := 0 } ∧ ∀ id, id ∈ b.members die →
          ((t.dev.core id).handler (bits w0 7 0)).prio = BitVec.ofNat 2 (bits w0 9 8)) ∧
    (∀ primary, let p := d.slot die primary; let pairs := (p.members die).zip (b.members die)
      old.valid = false → w0.getLsbD 17 = true → d.bindCode die team b = 0 →
      (d.pairable die primary b = true → ∃ t, exec (.bindRecordWrite ac die team ⟨w0, w1, w2⟩ (some primary)) s = .next t ∧
        t.dev.slot die team = b ∧ t.dev.twins = d.twins ++ pairs ∧ ∀ x ∈ pairs, (t.dev.core x.2).homeId = some x.1) ∧
      (d.pairable die primary b = false → exec (.bindRecordWrite ac die team ⟨w0, w1, w2⟩ (some primary)) s = .next (s.after d)))) ∧
    (old.valid = true → old.clearing = true →
      ((∀ id, id ∈ old.members die → (d.core id).idle = true) → ∃ t, exec (.teamUnbind die team) s = .next t ∧
        (t.dev.slot die team).valid = false ∧ ∀ k, (t.dev.core k).handlers = (d.core k).handlers) ∧
      ((∃ id, id ∈ old.members die ∧ (d.core id).idle = false) → exec (.teamUnbind die team) s = .next (s.after d))) ∧
    (∀ k, d.target old die = some k → k ∈ d.diesOf (d.partOf die) ∧ k ≠ die ∧ 0 < d.freeSlots old.isS k ∧
      ∀ j ∈ d.diesOf (d.partOf die), j ≠ die → d.freeSlots old.isS j < d.freeSlots old.isS k ∨ d.freeSlots old.isS j = d.freeSlots old.isS k ∧ k ≤ j) ∧
    (∀ toDie toTeam, toDie < 8 → toTeam < 256 → old.valid = true → let here (k : Nat) : DieAt := ⟨d.pkgNum, k⟩
      (d.target old die ≠ some toDie ∨ old.clearing = true ∨ old.pool ≠ 0 ∨ (d.slot toDie toTeam).valid = true →
        exec (.teamMigration (here die) team (here toDie) toTeam) s = .next (s.after d)) ∧
      (∀ a, d.target old die = some toDie → old.clearing = false → old.pool = 0 → (d.slot toDie toTeam).valid = false →
        (∀ id ∈ old.members die, d.movable old.handler id = true ∧ (d.core id).pool = 0 ∧ (d.core id).home = none) →
        d.landing old toDie = some a → let new : BindRec := { old with w1 := setBits old.w1 0 5 a, status := 0, clearing := false }
        ∃ t, exec (.teamMigration (here die) team (here toDie) toTeam) s = .next t ∧ t.dev.slot toDie toTeam = new ∧ t.dev.slot die team = BindRec.reset ∧
          ∀ (k old' new' : Nat), (old.members die)[k]? = some old' → (new.members toDie)[k]? = some new' → t.dev.placeOf old' = new' ∧
            (t.dev.core new').handlers = (d.core old').handlers ∧ (t.dev.core new').dq.waiting = (d.core old').dq.waiting)) ∧
    (∀ (dst : DieAt) toTeam x ids, dst.pkg ≠ d.pkgNum → dst.die < 8 → toTeam < 256 → old.valid = true → old.clearing = false → old.pool = 0 → old.members die = x :: ids → old.portable = true →
      (∀ id ∈ x :: ids, d.movable old.handler id = true ∧ (d.core id).pool = 0) → let launch := d.launchOf x
      (d.lender old launch = some dst → d.packable (x :: ids) = true → ∃ t m js, exec (.teamMigration ⟨d.pkgNum, die⟩ team dst toTeam) s = .next t ∧
        t.dev.slot die team = BindRec.reset ∧ t.dev.travel = d.travel ++ [⟨launch.1, launch.2, ⟨d.pkgNum, die⟩, team, dst, toTeam, old, m, js⟩] ∧
        t.dev.jobs = d.jobs.filter (fun j => !(x :: ids).contains j.card.core) ∧ js.length + t.dev.jobs.length = d.jobs.length ∧
        m.map (·.1) = (x :: ids).map (fun id => (d.core id).homeId.getD id) ∧ (∀ id ∈ x :: ids, t.dev.core id = Core.reset id) ∧
        (∀ id ∈ x :: ids, ∀ j, d.placeOf j = id → d.partOfCore j = d.partOf die →
          launch.1 = d.pkgNum ∨ FMap.find d.away (65536 * d.partOf die + id) = none → t.dev.awayOf j = some dst.pkg)) ∧
      (d.lender old launch ≠ some dst ∨ d.packable (x :: ids) = false → exec (.teamMigration ⟨d.pkgNum, die⟩ team dst toTeam) s = .next (s.after d)))) ∧
  (∀ (s : State) (a : Nat) (x : MovedTeam) (l : Lent), let d := s.dev; let die := x.dst.die
    d.boot = .running → x.src.die < 8 → x.team < 256 → die < 8 → x.toTeam < 256 → d.travel = [x] → x.src.pkg ≠ d.pkgNum →
    x.dst.pkg = d.pkgNum → (d.slot die x.toTeam).valid = false →
    d.lent.find? (fun l => l.pkg == x.home && l.part == x.part && l.die == die && l.isS == x.bind.isS) = some l →
    d.landing x.bind die = some a → x.home ≠ d.pkgNum ∨ d.partOf die = x.part →
    ∃ t, exec (.teamMigration x.src x.team x.dst x.toTeam) s = .next t ∧ t.dev.travel = [] ∧
      t.dev.slot die x.toTeam = { x.bind.at a with w0 := setBits x.bind.w0 10 3 (d.partOf die) } ∧
      ∀ m id, (m, id) ∈ x.members.zip ((x.bind.at a).members die) → let c := t.dev.core id
        c.cr.ptbr = l.ptbr ∧ c.handlers = m.2.handlers ∧ c.home = (if x.home = d.pkgNum then none else some (x.home, x.part)) ∧
        c.homeId = (if x.home = d.pkgNum then none else some m.1))

/-- R309, R310, R319 to R324: the launch interface takes the entry at its head by its kind, or stops there with the lowest
error code that applies and an interrupt (that the lowest of several counts, and that kinds 7 to 15 stop with code 1, is
the model's choice: log entry 51; a handler PC keeps 52 bits: log entry 34); a batch ends once the partition is quiescent
after its records: two idle sweeps in a row with equal sums (when a sweep starts and ends within its cycles, and that a
report of a member in another package serves one sweep, is the model's choice: log entry 52). -/
def Obligations.LaunchEvents : Prop :=
  (∀ (s : State) (p : Nat) (e : Entry), let d := s.dev; let done (x : Device) : State := s.after (x.setLaunch p (x.launch p).advance)
    let stop (code : Nat) : State := s.after
      { d.setLaunch p { d.launch p with stopped := true, err := code } with appIrqs := d.appIrqs ++ [.launchStop p] }
    d.nextEntry p = some e → let kind := bits e.e0 3 0; let id := bits e.e0 31 16; let mine := isCore id = true ∧ d.partOfCore id = p
    let none_ := bits e.e0 15 4 = 0 ∧ e.clear = true
    (kind = 0 → (none_ ∧ id = 0 ∧ e.e1 = 0 ∧ e.e2 = 0 ∧ e.e3 = 0 ∧ e.data = 0 → exec (.launchEntrySkip p) s = .next (done d)) ∧
      (¬none_ → exec (.launchEntrySkip p) s = .next (stop 1))) ∧
    (kind = 1 → none_ → e.e1 = 0 → e.e2 = 0 → e.e3 = 0 →
      (¬mine → exec (.launchEntryRecord p) s = .next (stop 2)) ∧
      (mine → (13 < recCount e.data ∨ recNet e.data % 2 = 1 ∨ recPackage e.data ≠ 0) → exec (.launchEntryRecord p) s = .next (stop 7)) ∧
      (mine → recCount e.data ≤ 13 → recNet e.data % 2 = 0 → recPackage e.data = 0 → ∃ t, exec (.launchEntryRecord p) s = .next t ∧
        t.dev.flights = d.flights ++ [⟨.record, e.data, id, recNet e.data, none, p, false, some p, 0, 0, 0, 0, none⟩] ∧
        (t.dev.launch p).launchOpen = true ∧ (t.dev.launch p).batchOpen = true ∧ (t.dev.launch p).head = (d.launch p).head ∧
        ((d.launch p).launchOpen = false → ∀ id ∈ d.coresIn p, (t.dev.core id).sent = 0 ∧ (t.dev.core id).recv = 0))) ∧
    (6 < kind → exec (.launchEntryRecord p) s = .next (stop 1)) ∧
    (kind = 2 → none_ → e.data = 0 → mine → bits e.e1 31 8 = 0 → bits e.e3 3 3 = 0 → bits e.e3 31 21 = 0 → bits e.e3 7 4 ≤ 13 →
      bits e.e2 5 3 = 0 → bits e.e2 2 0 ≤ 4 →
      ((d.core id).loadable = true → exec (.launchEntryHandler p) s = .next (done (d.setCore id { d.core id with
        handlers := FMap.set (d.core id).handlers (bits e.e1 7 0) ⟨e.e2.setWidth 52, BitVec.ofNat 2 (bits e.e3 1 0),
          BitVec.ofNat 4 (bits e.e3 7 4), BitVec.ofNat 13 (bits e.e3 20 8), e.e3.getLsbD 2⟩ }))) ∧
      ((d.core id).loadable = false → exec (.launchEntryHandler p) s = .next (s.after d))) ∧
    (kind = 3 → none_ → e.e3 = 0 → e.data = 0 → mine → bits e.e1 31 8 = 0 → (e.e1.getLsbD 7 = true → bits e.e1 6 0 = 9) →
      (d.core id).loadable = true → ∀ x, d.writeReg id (e.e1.getLsbD 7) (bits e.e1 6 0) e.e2 = some x →
      exec (.launchEntryControl p) s = .next (done x)) ∧
    (kind = 4 → none_ → e.e2 = 0 → mine → bits e.e1 31 18 = 0 → bits e.e3 7 4 = 0 → bits e.e3 31 13 = 0 → let o := bits e.e1 17 0
      bits e.e1 5 0 = 0 → o + 64 ≤ spSize id → (d.core id).loadable = true → ∃ t, exec (.launchEntryScratchpad p) s = .next t ∧
        (∀ i, i < 64 → readByte (t.dev.core id).sp (o + i) = e.data.extractLsb' (8 * i) 8) ∧
        (∀ a, (a < o ∨ o + 64 ≤ a) → readByte (t.dev.core id).sp a = readByte (d.core id).sp a) ∧
        (∀ g, g < 4 → inImage id (o + 16 * g) = false → ((t.dev.core id).full id (o / 16 + g) = e.e3.getLsbD g))) ∧
    (kind = 5 → none_ → id = 0 → e.e3 = 0 → let n := e.e1.toNat; let pa := e.e2.toNat
      n % 4 = 0 → 4 ≤ n → n ≤ 64 → pa % 4 = 0 → d.rowsIn p pa n = true →
      (∀ r, rowAt pa = some r ∨ rowAt (pa + n - 1) = some r → d.bankFree r.bank = true) → ∃ t, exec (.launchEntryDram p) s = .next t ∧
        t.dev.mem = writeBytes d.mem pa (leBytes n e.data.toNat) ∧ (t.dev.launch p).head = ((d.launch p).head + 1) % 4096) ∧
    (kind = 6 → none_ → id = 0 → e.e2 = 0 → e.e3 = 0 → e.data = 0 → bits e.e1 31 1 = 0 →
      ((d.launch p).batchOpen = false ∨ (d.launch p).quiet = true → ∃ t, exec (.launchEntryBatchEnd p) s = .next t ∧
        t.dev.appIrqs = d.appIrqs ++ [.batchEnd p] ∧ (t.dev.launch p).batchOpen = false ∧
        (t.dev.launch p).batches = ((d.launch p).batches + 1) % 65536 ∧
        (t.dev.launch p).launchOpen = ((d.launch p).launchOpen && !e.e1.getLsbD 0) ∧ (t.dev.launch p).head = ((d.launch p).head + 1) % 4096 ∧
        (e.e1.getLsbD 0 = true → ∀ x ∈ t.dev.moved, x.1 / 65536 ≠ p)) ∧
      ((d.launch p).batchOpen = true → (d.launch p).quiet = false → exec (.launchEntryBatchEnd p) s = .next (s.after d)))) ∧
  (∀ (s : State) (p : Nat), let d := s.dev; let l := d.launch p; s.dev.boot = .running →
    (l.stopped = true → exec (.lchStatRetry p) s = .next (s.after (d.setLaunch p { l with stopped := false, err := 0 })) ∧
      exec (.lchStatSkip p) s = .next (s.after (d.setLaunch p { l with stopped := false, err := 0, head := (l.head + 1) % 4096 }))) ∧
    ∀ v, exec (.lchTailWrite p v) s = .next (s.after (d.setLaunch p { l with tail := bits v 11 0 }))) ∧
  (∀ (s : State) (p : Nat), let d := s.dev; let l := d.launch p
    (l.launchOpen = true → l.sweep = none → (∃ k, k < 8 ∧ d.partOf k = p) → exec (.quiescenceSweep p) s = .next (s.after
      { d.setLaunch p { l with sweep := some (d.cycle, (d.sweepNow p).1, (d.sweepNow p).2.1, (d.sweepNow p).2.2) } with
        reports := d.reports.filter fun x => x.1 / 65536 != p })) ∧
    (∀ c n, l.sweep = some (c, true, n, n) → exec (.sweepResult p) s = .next (s.after
      (d.setLaunch p { l with sweep := none, last := some (n, n), quiet := l.last == some (n, n) }))) ∧
    (∀ c i n m, l.sweep = some (c, i, n, m) → (i = false ∨ n ≠ m) →
      exec (.sweepResult p) s = .next (s.after (d.setLaunch p { l with sweep := none, last := none, quiet := false })))) ∧
  (∀ (d : Device) (p : Nat), (d.sweepNow p).1 = true → (∀ k ∈ d.diesOf p, d.claims k = []) ∧
    ∀ id, isCore id = true → d.partOfCore id = p → (d.core id).home = none → let c := d.core id
    c.act = none ∧ c.redeliver = [] ∧ c.dq.waiting = [] ∧ c.dq.priv = [] ∧ c.deque = [] ∧ c.fifo = [] ∧ c.tokens = [] ∧ ∀ k ∈ c.sendq, k.2 = [])

/-- R315, R316, R332, R335, R347, R349, R350, R354 to R358, R360: writes of the partition registers and of registers without
behaviour of their own, notices held and injected, with the links that they use (which these are is the model's reading: log entry
60), a device's interrupt and DMA, and the egress window, from which a token leaves once released and written; an access of
another width than a word's, or by an agent that the register does not obey, is ignored. That a write of `part.qos` acts at once,
with the cycles that a row has waited added to `k.mxstl`, is the model's reading (log entries 33 and 71). The reserved bits of
`part.sup`, and that a rejected write clears the drop count, are the model's choice (log entry 53); so is that closing an egress
slot discards its tokens by E := W (log entry 55), and what the private memory of a management core and an address outside its
space do (log entry 79). -/
def Obligations.RegisterEvents : Prop :=
  (∀ s : State, s.dev.boot = .running → let d := s.dev
    (∀ (ac : RegAccess) p, ¬(ac.bytes = 4 ∧ (ac.agent = .application ∨ ∃ k, k < 8 ∧ ac.agent = .management k ∧ d.partOf k = p)) → ∀ v,
      exec (.partSupWrite ⟨ac, p⟩ v) s = .next (s.after d) ∧ exec (.partQosWrite ⟨ac, p⟩ v) s = .next (s.after d)) ∧
    (∀ (ac : RegAccess) p v, p < 8 → ac.bytes = 4 → (ac.agent = .application ∨ ∃ k, k < 8 ∧ ac.agent = .management k ∧ d.partOf k = p) →
      exec (.partSupWrite ⟨ac, p⟩ v) s = .next (s.after (d.setPart p { d.part p with
        sup := if v.getLsbD 16 = false ∨ (isMarkhor (bits v 15 0) = true ∧ d.partOfCore (bits v 15 0) = p) then BitVec.ofNat 32 (bits v 17 0) else (d.part p).sup,
        dropped := 0 }))) ∧
    (∀ (ac : RegAccess) p v, p < 8 → ac.bytes = 4 → (ac.agent = .application ∨ ∃ k, k < 8 ∧ ac.agent = .management k ∧ d.partOf k = p) →
      let total := ((List.range 8).map fun k => if k = p then bits v 14 8 else bits (d.part k).qos 14 8).sum
      (total ≤ 64 → ∃ t, exec (.partQosWrite ⟨ac, p⟩ v) s = .next t ∧ t.dev.part p = { d.part p with
          qos := BitVec.ofNat 32 ((if bits v 6 0 = 0 then 1 else min (bits v 6 0) 64) + bits v 14 8 * 2 ^ 8 + min (bits v 23 16) 128 * 2 ^ 16) } ∧
        ((d.cores.map (·.1)).Nodup → ∀ id, isCore id = true → let c := d.core id; let n := d.cyclesOf (dieOf id)
          let full := min c.cr.mxbud (t.dev.governor p) ≤ if c.mxu.winNo = n / 128 then c.mxu.winRows else 0
          (d.partOfCore id = p → c.mxu.govFrom.isSome = true → t.dev.core id = { c with
            cr := { c.cr with mxstl := c.cr.mxstl + BitVec.ofNat 32 (d.stalledOf id) },
            mxu := { c.mxu with govFrom := if full then some n else none } }) ∧
          (d.partOfCore id ≠ p ∨ c.mxu.govFrom = none → t.dev.core id = c))) ∧
      (64 < total → exec (.partQosWrite ⟨ac, p⟩ v) s = .next (s.after d))) ∧
    (∀ die v, die < 8 → d.dieFree die = true → ∃ t, exec (.diePartWrite ⟨.application, 4⟩ die v) s = .next t ∧ t.dev.partOf die = bits v 2 0 ∧
      (∀ k, k ≠ die → t.dev.partOf k = d.partOf k) ∧ t.dev.cores = d.cores ∧ t.dev.mem = d.mem) ∧
    (∀ (ac : RegAccess) die v, ac ≠ ⟨.application, 4⟩ → exec (.diePartWrite ac die v) s = .next (s.after d) ∧ ∀ p, exec (.partNinjSend ⟨ac, p⟩) s = .next (s.after d)) ∧
    (∀ p c, p < 8 → (c = .pagemap ∨ c = .irq) → bits (FMap.get d.regs (0x2001000800 + 32 * p) 0) 7 0 = causeCode c →
      exec (.partNinjSend ⟨⟨.application, 4⟩, p⟩) s = .next (s.after (d.noticeOwn p c ((List.range (if c = .irq then 1 else 4)).map fun i =>
        FMap.get d.regs (0x2001000804 + 32 * p + 4 * i) 0)))) ∧
    (∀ ag die k v, die < 8 → 1 ≤ k → k ≤ 3 → (ag = .application ∨ ag = .management die) → exec (.deviceRegisterWrite ⟨ag, 4⟩
      (0x2000001000 + 0x100000 * die + 4 * k) v) s = .next (s.after { d with regs := FMap.put d.regs (0x2000001000 + 0x100000 * die + 4 * k) (v &&& 0x1FF) 0 })) ∧
    (∀ n, 1 ≤ n → n ≤ 255 → (∀ p ∈ d.launches, p.2.launchOpen = false ∧ p.2.batches = 0) →
      exec (.packageNumberAssignment n) s = .next (s.after { d with pkgNum := n })) ∧
    (∀ slot v b, d.egressBase = some b → slot < 1024 → let w (i : Nat) : Word := readWord d.mem (b + 2048 * slot + i)
      ((w 12).getLsbD 0 = false ∨ v.getLsbD 0 = true → ∃ t, exec (.egressSlotControlWrite slot v) s = .next t ∧
        t.dev.mem = writeBytes d.mem (b + 2048 * slot + 12) (leBytes 4 (bits v 1 0))) ∧
      ((w 12).getLsbD 0 = true → v.getLsbD 0 = false → ∃ t, exec (.egressSlotControlWrite slot v) s = .next t ∧
        t.dev.mem = writeBytes (writeBytes d.mem (b + 2048 * slot + 8) (leBytes 4 (w 0).toNat)) (b + 2048 * slot + 12) (leBytes 4 (bits v 1 0))))) ∧
  (∀ (s : State) (p : Nat), p < 8 → let d := s.dev
    (∀ v, exec (.deviceInterrupt p v) s = .next (s.after (d.noticeOwn p .irq [v]))) ∧
    (∀ r l id x, (d.part p).held = r :: l → d.supervisor p = some id → d.give ((d.diesOf p).head?.getD 0) id r = some x →
      exec (.heldNoticeDelivery p) s = .next (s.after (x.setPart p { d.part p with held := l }))) ∧
    (d.supervisor p = none → exec (.heldNoticeDelivery p) s = .next (s.after d)) ∧
    (∀ c src ws, d.supervisor p = none → (d.part p).held.length < 64 →
      d.notice p c src ws = (d.useDies p (dieOf src) ((d.diesOf p).head?.getD 0)).setPart p
        { d.part p with held := (d.part p).held ++ [⟨false, noticeRecord c src ws⟩] } ∧
      d.noticeOwn p c ws = d.setPart p { d.part p with held := (d.part p).held ++ [⟨true, noticeRecord c 0 ws⟩] }) ∧
    (∀ c ws src id, d.awayOf id = none → d.give src id ⟨true, noticeRecord c 0 ws⟩ =
      (d.useDies (d.partOfCore id) src (dieOf (d.placeOf id))).offer (d.placeOf id) (setLineWord (noticeRecord c 0 ws) 0 (setBits (lineWord (noticeRecord c 0 ws) 0) 0 16 id))) ∧
    (∀ c src ws, d.supervisor p = none → 64 ≤ (d.part p).held.length →
      d.notice p c src ws = (d.useDies p (dieOf src) ((d.diesOf p).head?.getD 0)).setPart p
        { d.part p with dropped := min ((d.part p).dropped + 1) 255 })) ∧
  (∀ s : State, let d := s.dev
    (∀ pa n, 0x1000000000 ≤ pa → pa + n ≤ 0x2000000000 → exec (.deviceDma (.read pa n)) s =
      .next (s.after { d with dmaReply := some ((List.range n).map fun i => readByte d.mem (pa + i)) })) ∧
    (∀ pa bs, 0x1000000000 ≤ pa → pa + bs.length ≤ 0x2000000000 → ∃ t, exec (.deviceDma (.write pa bs)) s = .next t ∧
      t.dev.mem = writeBytes d.mem pa bs ∧ t.dev.cores = d.cores) ∧
    (∀ pa bs, (pa < 0x1000000000 ∨ 0x2000000000 < pa + bs.length) → exec (.deviceDma (.write pa bs)) s = .next (s.after { d with dmaReply := none })) ∧
    (∀ slot b, d.egressBase = some b → slot < 1024 → let w (i : Nat) : Word := readWord d.mem (b + 2048 * slot + i)
      let ring := bits (FMap.get d.regs 0x2002000014 0) 19 0 * 2 ^ 32 + (FMap.get d.regs 0x2002000010 0).toNat
      let e := (w 8).toNat
      ((w 12).getLsbD 0 = true → (w 12).getLsbD 1 = false → e < (w 0).toNat → e < (w 4).toNat →
        (d.ert + 1) % 4096 ≠ (FMap.get d.regs 0x200200001C 0).toNat → 0x1000000000 ≤ ring → ring + 65536 ≤ 0x2000000000 →
        ∃ t, exec (.egressSend slot) s = .next t ∧ t.dev.ert = (d.ert + 1) % 4096 ∧
          t.dev.mem = writeBytes (writeBytes d.mem (ring + 16 * d.ert) (leBytes 4 slot ++ leBytes 4 e ++
            leBytes 4 (w (0x40 + 4 * (e % 256))).toNat ++ leBytes 4 0)) (b + 2048 * slot + 8) (leBytes 4 (e + 1))) ∧
      (((w 12).getLsbD 0 = false ∨ (w 12).getLsbD 1 = true ∨ (w 0).toNat ≤ e ∨ (w 4).toNat ≤ e) →
        exec (.egressSend slot) s = .next (s.after d)))) ∧
  (∀ (d : Device) (die addr v : Nat), let mem := FMap.get d.mgmtMem die []
    (∀ n, addr + n ≤ 0x400000 → FMap.get (d.manage die addr n (.write v)).mgmtMem die [] = writeBytes mem addr (leBytes n v) ∧
      FMap.get (d.manage die addr n .read).mgmtReply die 0 = readLE mem addr n) ∧
    (∀ k, k < 0x100000 → d.manage die (0xF0000000 + k) 4 .read = { d with
      mgmtReply := FMap.set d.mgmtReply die (d.readRegister (0x2000000000 + 0x100000 * die + k)).toNat }) ∧
    (∀ k n, k < 0x100 → d.manage die (0xF0110000 + k) n (.write v) = d) ∧
    (∀ n op, 0x400000 ≤ addr → addr < 0xF0000000 → 0 < n → d.manage die addr n op = { d with
      mgmtFaults := FMap.set d.mgmtFaults die (FMap.get d.mgmtFaults die [] ++ [addr]) }))

/-- R235, R236, R280, R293, R294, R330, R334, R338, R341 to R348, R350, R361 to R364: poison, rollback, or the stop of a core in
trap handling, which wait for a publication to be completed line by line, and its locks to be released (by turns and in order: the
model's reading, log entry 26); records that an error destroys while they wait, as one rolled back that waits to start again and a
task of a steal deque (R341 names neither: the model's choice, log entry 94); a write-back, counted in its round where an access
has sent it ahead (log entry 44); the swap and reset of a partition once the module has booted, packets and fabric records in
sequence, rails, retraining and boundaries that go down, boot (that a bad signature is the cause whatever the image's version is
read from the boot section by inference: log entry 62) and attestation. A partition reset returns the partition's own cores to
their reset state; that it keeps vaults and DRAM rows is the model's choice (log entry 59), as are the swap in one step (log entry
58), the state of a retrained link (log entry 60), and which messages between dies are numbered (log entry 61). -/
def Obligations.DeviceEvents : Prop :=
  ∀ s : State, let d := s.dev
    (∀ id g, 16 * g < spSize id → ∃ t, exec (.uncorrectableError (.spGranule id g)) s = .next t ∧ g ∈ (t.dev.core id).spPoison ∧
      (t.dev.core id).sp = (d.core id).sp) ∧
    (∀ id code a, (d.core id).act = some a → a.handling = false → (d.core id).cr.redo = false → (d.core id).fore.region.post = none →
      (d.core id).hind.region.post = none → (d.core id).fore.region.pass = none → (d.core id).hind.region.pass = none →
      2 ≤ code.toNat → code.toNat ≤ 7 →
      ∃ t, exec (.uncorrectableError (.activation id code)) s = .next t ∧ (t.dev.core id).act = none ∧ (t.dev.core id).redeliver = a :: (d.core id).redeliver ∧
        (t.dev.core id).journal = [] ∧ (t.dev.core id).tokens = [] ∧ (t.dev.core id).fore.running = false ∧ (t.dev.core id).hind.running = false ∧
        (t.dev.core id).mxu.cmds = [] ∧ (∀ b, b < Config.imageBase → readByte (t.dev.core id).sp b = readByte (d.core id).sp b) ∧
        t.dev.mem = d.mem) ∧
    (∀ id code a, (d.core id).act = some a → a.handling = true → (d.core id).fore.region.post = none → (d.core id).hind.region.post = none →
      2 ≤ code.toNat → code.toNat ≤ 7 → ∃ t, exec (.uncorrectableError (.activation id code)) s = .next t ∧ (t.dev.core id).stopped = true ∧
        (t.dev.core id).fore.running = false ∧ (t.dev.core id).hind.running = false ∧ t.dev.mem = d.mem) ∧
    (∀ id code a, (d.core id).act = some a → (∀ x ∈ d.twins, x.2 ≠ id) →
      (d.core id).fore.region.post.isSome = true ∨ (d.core id).hind.region.post.isSome = true → 2 ≤ code.toNat → code.toNat ≤ 7 →
      exec (.uncorrectableError (.activation id code)) s = .next (s.after (d.setCore id { d.core id with
        dying := some ((d.core id).dying.getD ⟨code.toNat, 0, if a.handling then some .uncorr else none⟩) }))) ∧
    (∀ id hind e p, ((d.core id).stream hind).region.post = some p → let r := ((d.core id).stream hind).region
      (∀ l ls, p.accept = true → r.writes.drop p.progress = l :: ls →
        (d.linkIdle (dieOf id) l.pa = false → d.completes id hind e = d) ∧
        (d.linkIdle (dieOf id) l.pa = true → (d.completes id hind e).mem = (d.publish id l).mem ∧
          (((d.completes id hind e).core id).stream hind).region = { r with st := .opened, post := some { p with progress := p.progress + 1 } })) ∧
      (∀ a, (p.accept = true → r.writes.drop p.progress = []) → ((d.core id).stream !hind).region.post = none →
        ((d.core id).stream !hind).region.pass = none → r.pass = none → (d.core id).act = some a →
        let u := d.completes id hind e; let k := u.core id
        (∀ ln, (u.lock ln).writer ≠ some (d.lockName id hind)) ∧ k.dying = none ∧ k.fore.running = false ∧ k.hind.running = false ∧
        (e.halts = none → (d.core id).cr.redo = false → k.act = none ∧ k.redeliver = a :: (d.core id).redeliver) ∧
        (e.halts.isSome = true → k.stopped = true ∧ k.redeliver = (d.core id).redeliver))) ∧
    (∀ id k a, (d.core id).redeliver[k]? = some a → ∃ t, exec (.uncorrectableError (.redelivery id k)) s = .next t ∧
      (t.dev.core id).redeliver = (d.core id).redeliver.eraseIdx k) ∧
    (∀ id k x, (d.core id).deque[k]? = some x → ∃ t, exec (.uncorrectableError (.task id k)) s = .next t ∧
      (t.dev.core id).deque = (d.core id).deque.eraseIdx k) ∧
    (d.boot ≠ .running → ∀ p q, exec (.partitionReset p) s = .next (s.after d) ∧ exec (.partitionPreempt p q) s = .next (s.after d)) ∧
    (∀ p, d.boot = .running → p < 8 → ∃ t, exec (.partitionReset p) s = .next t ∧ t.dev.mem = d.mem ∧ t.dev.objs = d.objs.filter (fun o => o.part != p) ∧
      ∀ id, isCore id = true → (d.partOfCore id ≠ p → t.dev.core id = d.core id) ∧ (d.partOfCore id = p →
        ((d.part p).sup.getLsbD 16 = false ∨ bits (d.part p).sup 15 0 ≠ id → t.dev.core id = Core.reset id) ∧
        ∃ q x, t.dev.core id = { Core.reset id with dq := q, xcount := x } ∧ q.waiting = [] ∧ q.ringCount = 0)) ∧
    (∀ p q, d.boot = .running → p < 8 → q < 8 → p ≠ q → d.diesOf p ≠ [] → d.diesOf q = [] → d.drained (d.diesOf p) = true → FMap.find d.shadow q = none →
      ∃ t x, exec (.partitionPreempt p q) s = .next t ∧ FMap.find t.dev.shadow p = some x ∧ x.dies = d.diesOf p ∧
        (∀ k, k ∈ d.diesOf p → t.dev.partOf k = q) ∧ (∀ k, k < 8 → k ∉ d.diesOf p → t.dev.partOf k = d.partOf k) ∧
        (∀ id, dieOf id ∈ d.diesOf p → t.dev.core id = Core.reset id) ∧ ∀ id, dieOf id ∉ d.diesOf p → t.dev.core id = d.core id) ∧
    (∀ a b n, a < 8 → b < 8 → a ≠ b →
      (∀ body alt lost, n < d.expected a b ∨ 2 ≤ lost → exec (.dieLinkPacketArrival a b n body alt lost) s = .next (s.after d)) ∧
      (∀ p lost, d.packets a b = [p] → p.seqNo = n → p.arrived = false → lost ≤ 1 → let x : Packet := { p with arrived := true }
        (d.routeOpen (routeOf p.alt a b) = false → exec (.dieLinkPacketArrival a b n p.body p.alt lost) s = .next (s.after d)) ∧
        (d.routeOpen (routeOf p.alt a b) = true → n = d.expected a b → exec (.dieLinkPacketArrival a b n p.body p.alt lost) s = .next (s.after
          (Device.applyPacket { d.setPackets a b [] with nextSeq := FMap.set d.nextSeq (16 * a + b) (n + 1) } a b x))) ∧
        (d.routeOpen (routeOf p.alt a b) = true → d.expected a b < n → exec (.dieLinkPacketArrival a b n p.body p.alt lost) s =
          .next (s.after (d.setPackets a b [x]))))) ∧
    (∀ a b n pa data mask poison alt counted, let l : CacheLine := ⟨pa / 64, false, data, mask, poison⟩; let e := d.mergeHome (pa / 64) l
      d.applyPacket a b ⟨n, .writeBack pa data mask poison counted, alt, true⟩ = (match counted with
        | none => e.touchHome pa
        | some (id, round) => (e.touchHome pa).modCore id fun c =>
          if countAt c.counted (homeSlice pa) round < countAt c.sentTo (homeSlice pa) round then
            { c with counted := bumpCount c.counted (homeSlice pa) round } else c) ∧
      ∀ i, i < 64 → readByte e.mem (64 * (pa / 64) + i) =
        if mask.getLsbD i ∧ d.isEgressE (64 * (pa / 64) + i) = false then data.extractLsb' (8 * i) 8 else readByte d.mem (64 * (pa / 64) + i)) ∧
    (∀ dst pkg r counts, 1 ≤ pkg → pkg ≤ 255 → pkg ≠ d.pkgNum → FMap.get d.heldFab pkg [] = [] → isCore dst = true → (d.part (d.partOfCore dst)).sup.getLsbD 17 = true →
      ∃ t m, exec (.fabricRecordArrival dst pkg (.record r counts) (FMap.get d.fabSeq pkg 0)) s = .next t ∧
        (recPackage r ≠ 0 → bits (lineWord m 2) 31 24 = pkg) ∧ (recPackage r = 0 → m = r) ∧
        (∀ k, k < 16 → k ≠ 2 → lineWord m k = lineWord r k) ∧
        t.dev.flights = d.flights ++ [⟨.record, m, dst, recNet r, none, d.partOfCore dst, counts, none, 0, 0, 0, 0, none⟩]) ∧
    (∀ l, linkExists l = true →
      (let n := min ((d.link l).lost + 1) 5; ∃ t, exec (.railLoss l) s = .next t ∧ t.dev.link l = ⟨n,
        if (d.link l).st = .down ∨ 3 ≤ n then .down else if (d.link l).st = .up ∧ n = 1 then .up else .retraining⟩) ∧
      ((d.link l).st = .retraining → ∃ t, exec (.retrainComplete l) s = .next t ∧ t.dev.link l = ⟨1, .up⟩) ∧
      ((d.link l).st = .down → d.boot = .running → (∃ t, exec (.retrainRetry l true) s = .next t ∧ t.dev.link l = ⟨1, .up⟩) ∧
        exec (.retrainRetry l false) s = .next (s.after d)) ∧
      ((d.link l).st = .retraining → ∃ t, exec (.boundaryDown l) s = .next t ∧ t.dev.link l = ⟨(d.link l).lost, .down⟩)) ∧
    (∀ fw app, d.boot = .off →
      let good (i : Image) : Prop := ed448Verify (leBytes 57 d.rootKey.toNat) (leBytes 64 (digest i.bytes).toNat) i.signature = true
      (¬good fw → exec (.boot fw app) s =
        .next (s.after { d with boot := .failed 2 .signature, bootReports := d.bootReports ++ [(2, .signature)] })) ∧
      (good fw → fw.version < d.secVer → exec (.boot fw app) s =
        .next (s.after { d with boot := .failed 2 .version, bootReports := d.bootReports ++ [(2, .version)] })) ∧
      (good fw → d.secVer ≤ fw.version → (¬good app ∨ app.version < max d.secVer fw.version) → ∃ t c, exec (.boot fw app) s = .next t ∧
        t.dev.boot = .failed 4 c ∧ t.dev.bootReports = d.bootReports ++ [(4, c)] ∧ t.dev.cores = [] ∧ (good app → c = .version) ∧
        (¬good app → c = .signature)) ∧
      (good fw → d.secVer ≤ fw.version → good app → max d.secVer fw.version ≤ app.version →
        ∃ t, exec (.boot fw app) s = .next t ∧ t.dev.boot = .running ∧ t.dev.mlog = d.mlog ++ [digest fw.bytes, digest app.bytes] ∧
          t.dev.secVer = app.version ∧ t.dev.cores = [] ∧ (∀ a, (a < 0x1000000000 ∨ 0x2000000000 ≤ a) → readByte t.dev.mem a = 0) ∧
          (∀ a, 0x1000000000 ≤ a → a < 0x2000000000 → readByte t.dev.mem a = readByte d.mem a))) ∧
    (∀ nonce, d.boot = .running → ∃ q : BitVec 1744, exec (.attestationRequest nonce) s = .next (s.after { d with quotes := d.quotes ++ [q] }) ∧
      q.extractLsb' 0 256 = nonce ∧ q.extractLsb' 256 512 = digest (d.mlog.flatMap fun x => leBytes 64 x.toNat) ∧
      q.extractLsb' 768 32 = BitVec.ofNat 32 d.secVer ∧ q.extractLsb' 800 32 = BitVec.ofNat 32 d.pkgNum ∧
      q.extractLsb' 832 912 = BitVec.ofNat 912 (leValue (ed448Sign (leBytes 57 d.idSecret.toNat)
        (leBytes 64 (digest (leBytes 104 (q.extractLsb' 0 832).toNat)).toNat))))

/-! ## Steps -/

/-- R18, R26, R28, R30, R53: a stream that is offered the issue runs the instruction that the word at its PC decodes to, once
the line is fetched, passes its checks and the registers it names are free: `step` is `exec` of it, with the lane, the slot's
PC and NextPC of the group. A group of two runs one half after the other, the second from sources as they stood before the
group; a half that traps or waits leaves nothing of either. A trap waits, with no effect, for the stream's earlier loads and for the
other stream's publication (the model's reading: log entries 10 and 26). Beside a half that traps or waits, a `pcom` that has not drawn
neither locks nor draws (R217). (A stream to which a poisoned load has come back, and a core
whose publication an error has to complete, are GroupChecksTrap's.) -/
def Obligations.StepRunsTheDecodedGroup : Prop :=
  ∀ (s : State) (core : Nat) (hind : Bool) (rest : List Act) (l : Line) (u : State),
    let s0 := State.offer { s.advance with agenda := rest } core hind
    let pc := s0.issue.pc
    let inSlot (v : State) (h : Half) (two : Bool) : State :=
      { v with issue := { v.issue with lane1 := h.lane1, slotPc := h.pc, nextPc := nextPcOf l pc, paired := two } }
    let held (t : State) : State :=
      if t.took.isSome = true ∧ (s0.core.loadsDone hind = false ∨ s0.core.publishing (!hind) = true) then { s0 with blocked := true } else t
    s.agenda = .turn core hind :: rest → isCore core = true → (s.dev.core core).stopped = false → s0.stream.running = true →
    s0.stream.ending = false → s0.stream.struck = none → s0.core.dying = none → s.dev.twinOf core = none → bits pc 5 3 = 0 →
    bits pc 2 0 ≤ 4 → fetchLine pc s0 = .ok (l, u) → parityOk l = true → lineCause l = none →
    (∀ v, u.stream.entering = some (v, true) → targetBit l (bits pc 2 0) = true) →
    let a := halfAt l pc (bits pc 2 0)
    let b := halfAt l pc (bits pc 2 0 + 1)
    let fits (h : Half) (i : Instr) : Prop := decode h.code = .ok i ∧ h.placed = true ∧ i.preCause core u.core.cr.priv = none ∧ u.stream.held i = false
    (pairBit l (bits pc 2 0) = false → ∀ i, fits a i → ∀ t, exec i (inSlot u a false) = .next t → step s = .next (held t)) ∧
    (pairBit l (bits pc 2 0) = true → ∀ i j, fits a i → fits b j → (∀ r ∈ i.mainDests, r ∉ j.mainDests) → leaves i = false →
      (∀ t, exec i (u.at_ a) = .next t → t.took ≠ some .illop) → (∀ t, exec j (u.at_ b) = .next t → t.took ≠ some .illop) →
      let reg := u.stream.region; let undrawn := (∃ f, i = .pcom f) ∧ (reg.st = .opened ∨ reg.st = .failed) ∧ reg.post = none
      (undrawn → ∀ w, exec j (inSlot u b true) = .next w → w.blocked = true ∨ w.took ≠ none → step s = .next (held { w with pair := none })) ∧
      ((undrawn → ∃ w, exec j (inSlot u b true) = .next w ∧ w.blocked = false ∧ w.took = none) → ∀ t, exec i (inSlot u a true) = .next t →
        (t.blocked = true ∨ t.took ≠ none → step s = .next (held { t with pair := none })) ∧
        (t.blocked = false → t.took = none → ∀ w, exec j { t with
          issue := { t.issue with lane1 := b.lane1, slotPc := b.pc }, pair := some u.dev } = .next w → step s = .next (held { w with pair := none }))))

/-- R16, R25 to R29, R52, R53: what a line or a group raises before it executes: BTARGET at a malformed PC or a slot that is
entered without its target bit, with the PC it was entered from, at the turn of the group entered and before the line's own causes
(read from R26, R29 and R53 by inference: log entry 23); ILLLINE, ILLPAIR and ILLOP for a line word, a group or a word that the
encoding does not allow (that ILLPAIR is judged for a class that may not stand in its lane from the class bits alone, and the
order of the causes of a group, are read by inference: log entries 24 and 17); no half executes. R339: a stream to which a
poisoned load has come back takes POISON at its turn, at that load's group, whatever it would issue (that this group's later ones
have run by then: log entry 10). A trap waits for the stream's earlier loads (log entry 10) and while the core's other stream
publishes (log entry 26). R236: on a core whose publication an error has to complete, a turn of a stream does only that (log entry
26). -/
def Obligations.GroupChecksTrap : Prop :=
  (∀ (s : State) (core : Nat) (hind : Bool) (rest : List Act), let s0 := State.offer { s.advance with agenda := rest } core hind
    let pc := s0.issue.pc
    let trapped (t : State) : State :=
      if s0.core.loadsDone hind = false ∨ s0.core.publishing (!hind) = true then { s0 with blocked := true } else t
    s.agenda = .turn core hind :: rest → isCore core = true → (s.dev.core core).stopped = false → s0.stream.running = true →
    (∀ e, s0.core.dying = some e → step s = .next { s0 with dev := s0.dev.completes core hind e, blocked := true }) ∧
    (s0.core.dying = none → ∀ epc v, s0.stream.struck = some (epc, v) → step s = .next (trapped (State.takeTrap
      { s0.modStream fun t => { t with struck := none, ending := false } with issue := { s0.issue with pc := epc, slotPc := epc } } .poison epc v))) ∧
    (s0.core.dying = none → s0.stream.struck = none → s0.stream.ending = false → s.dev.twinOf core = none →
    ((bits pc 5 3 ≠ 0 ∨ 4 < bits pc 2 0) → step s = .next (trapped (s0.takeTrap .btarget pc (match s0.stream.entering with
      | some (v, _) => v
      | none => 0)))) ∧
    (bits pc 5 3 = 0 → bits pc 2 0 ≤ 4 → ∀ l u, fetchLine pc s0 = .ok (l, u) → parityOk l = true →
      (∀ v, u.stream.entering = some (v, true) → targetBit l (bits pc 2 0) = false → step s = .next (trapped (s0.takeTrap .btarget pc v))) ∧
      ((∀ v, u.stream.entering = some (v, true) → targetBit l (bits pc 2 0) = true) → let a := halfAt l pc (bits pc 2 0)
        (lineCause l = some .illline → step s = .next (trapped (s0.takeTrap .illline pc (pc &&& ~~~63)))) ∧
        (lineCause l = some .illpair → step s = .next (trapped (s0.takeTrap .illpair pc pc))) ∧
        (lineCause l = none → pairBit l (bits pc 2 0) = false → a.placed = false → step s = .next (trapped (s0.takeTrap .illpair pc pc))) ∧
        (lineCause l = none → pairBit l (bits pc 2 0) = false → a.placed = true → ∀ e, decode a.code = .error e →
          step s = .next (trapped (s0.takeTrap .illop pc a.pc))))))) ∧
  (∀ (c : Line), parityOk c = true ↔ ∀ k, k < 10 → (c.getLsbD (480 + k) = true ↔ (List.range 48).countP (fun i => c.getLsbD (48 * k + i)) % 2 = 1))

/-- R31 to R51: decoding what the encoder gives for a well-formed instruction gives that instruction back. -/
def Obligations.DecodeOfEncode : Prop := ∀ i : Instr, i.wf = true → isEvent i = false → ∃ w, encode i = some w ∧ decode w = .ok i

/-- R31 to R34, R38, R40 to R51, R75, R127, R165, R240: words written out from the encoding tables, digit by digit (class,
minor, Q, D, A, B, C, X, I), and what they decode to; and words that R52 makes ILLOP: a reserved class, an unassigned
minor, a code that the form does not define, an unused field that is not zero. -/
def Obligations.DecodedWords : Prop :=
  decode 0x000000000000000000000000 = .ok .nop ∧
  decode 0x001101020000000000000005 = .ok (.add (.w (.reg (.g 1)) (.g 2) (.imm 5))) ∧
  decode 0x002204060800000000000000 = .ok (.sub (.d (.even 2) (.even 3) (.reg (.even 4)))) ∧
  decode 0x0300D3050000000000000008 = .ok (.mov (.w (.win .e 3 8) (.reg (.g 5)))) ∧
  decode 0x01B001020000040700000000 = .ok (.bfx ⟨.reg (.g 1), .g 2, 4, 7⟩) ∧
  decode 0x032005000000000F00000000 = .ok (.kget (.w (.reg (.g 5)) 15)) ∧
  decode 0x1020030000000000FFFFFFC1 = .ok (.bdec ⟨3, ⟨-1, 1⟩⟩) ∧
  decode 0x200001020000025100000000 = .ok (.ldAcq ⟨.sub .w (.g 1), .glob (.even 1), 0⟩ .die) ∧
  decode 0x300001020400022200000000 = .ok (.amoAdd ⟨.w (.g 1) (.even 1) (.g 4), .rel, .team⟩) ∧
  decode 0x40050102000000003F800000 = .ok (.fadd ⟨.reg (.g 1), .g 2, .imm 0x3F800000, some .rtz⟩) ∧
  decode 0x500101028300850000000000 = .ok (.vadd ⟨.f32, .v 1, .v 2, .s (.g 3), some 5, 0⟩) ∧
  decode 0x600101020003000000000000 = .ok (.vcvt ⟨.f32, .bf16, .v 1, 2, none, 0⟩) ∧
  decode 0x7045B0A10300007C00000000 = .ok (.mmt ⟨.i8, 0, 1, .g 3, 0, some .w, some .e, 0⟩) ∧
  decode 0x801001020000000000000000 = .ok (.pcom ⟨.g 1, .g 2⟩) ∧
  decode 0x900105100300000100000000 = .ok (.send ⟨.busy (.g 5), 1, .g 3, 1⟩) ∧
  decode 0xA05101020000000000000000 = .ok (.dpinClr ⟨.g 1, .even 1⟩) ∧
  decode 0xB05004060000000000000000 = .ok (.tlbprb ⟨2, .even 3⟩) ∧
  decode 0xC00000000000000000000000 = .error .reservedClass ∧
  decode 0x033000000000000000000000 = .error .unassignedMinor ∧
  decode 0x200001020000025B00000000 = .error .undefinedCode ∧
  decode 0x000000000000000000000001 = .error .unusedField

/-- The canonical form of every byte memory is kept by every step, of instructions and events (log entry 4 names what a
byte that nothing has written reads as). -/
def Obligations.StepsKeepTheMemoriesCanonical : Prop := ∀ s t : State, s.dev.wf → step s = .next t → t.dev.wf

/-- R35 to R37, R146, R150, R242, R253, R264, R361: the values that the manual gives for reset, on every core; the
memories are canonical. (That a byte which nothing has written reads zero outside vaults and DRAM rows is log entry 4.) -/
def Obligations.ResetState : Prop :=
  State.reset.dev.wf ∧ State.reset.pair = none ∧
  (∀ id, isCore id = true → let c := State.reset.dev.core id
    (∀ k, k < 43 → State.readK { State.reset with issue := { State.reset.issue with core := id } } k =
      if k = 4 then 128 else if k = 15 then BitVec.ofNat 64 id else 0) ∧
    (∀ i, i < 128 → c.lane id i = ⟨BitVec.ofNat 64 (256 * id + i), 0, 0⟩) ∧ c.genFore = ⟨BitVec.ofNat 64 (256 * id + 128), 0, 0⟩ ∧
    c.genHind = ⟨BitVec.ofNat 64 (256 * id + 129), 0, 0⟩ ∧ c.dq.limit = 64 ∧ c.dq.spill = false ∧ c.dq.waiting = [] ∧
    (∀ n, (c.handler n).valid = false) ∧ c.act = none ∧ c.fore.running = false ∧ c.hind.running = false ∧
    c.lfsr = (if id = 0 then 0xACE1 else BitVec.ofNat 16 id)) ∧
  ∀ pa, readByte State.reset.dev.mem pa = 0

/-! ## Frames -/

/-- R16, R18, R54, R58, R65: what a form of classes 0 and 4 other than `kmov` leaves as it is when it completes: every
register but its destinations, the other latch, the other stream, every control register but `k.fflags`, every row, tile, full
bit, tag and unit of its core, every scratchpad, every byte of memory, and every other core, but that a form with a window
destination queues one write behind those at that neighbour's port. -/
def Obligations.RegisterFormsFrame : Prop :=
  ∀ (i : Instr) (s t : State), wordForm i = true → exec i s = .next t → t.took = none → t.blocked = false →
    (∀ n, n < 64 → n ∉ i.uses.wr → t.stream.reg n = s.begin.stream.reg n) ∧
    (∀ n, 64 + n ∉ i.uses.wr → t.stream.opReg n = s.begin.stream.opReg n) ∧
    (∀ n, n ≠ s.issue.lane1.toNat → t.stream.latch n = s.begin.stream.latch n) ∧
    { t.stream with g := [], o := [], x := [] } = { s.begin.stream with g := [], o := [], x := [] } ∧
    t.core.stream (!s.hind) = s.begin.core.stream (!s.hind) ∧
    (let bare (c : Core) : Core := { c with fore := Stream.reset, hind := Stream.reset, queues := [], xcount := [], cr := { c.cr with fflags := 0 } };
      bare t.core = bare s.begin.core) ∧
    (∀ id, id ≠ s.me → (∀ dir, windowOfForm i = some dir → neighbour s.me dir ≠ some id) → t.dev.core id = s.begin.dev.core id) ∧
    (∀ dir id, windowOfForm i = some dir → neighbour s.me dir = some id → ∃ q : NbWrite, q.src = s.me ∧ q.hind = s.hind ∧ q.n = 4 ∧
      t.dev.core id = { s.begin.dev.core id with nbq := (s.begin.dev.core id).nbq ++ [q] }) ∧
    t.dev.mem = s.begin.dev.mem ∧ ∀ a, readByte t.dev.mem a = readByte s.begin.dev.mem a

/-- R279 to R283: which instructions can change a byte at its home when they issue: loads and prefetches (a line that leaves a
cluster cache is written back), `.rel` stores, atomics, releases, acquires, ranges, objects and `pcom`. No other does: plain
and `.vol` stores change memory when they are performed. Every event completes, and acts on the device alone. -/
def Obligations.HomeBytesAndEvents : Prop :=
  (∀ (i : Instr) (s t : State), isEvent i = false → reachesHome i = false → exec i s = .next t →
    ∀ a, readByte t.dev.mem a = readByte s.dev.mem a ∨ readByte t.dev.mem a = readByte s.base.mem a) ∧
  (∀ (i : Instr) (s : State), isEvent i = true → ∃ d, exec i s = .next (s.after d))
end

