-- ==== Sys2Proof/Laws/Store.lean ====
section
/-!
SUPPORT. Sparse maps and byte memories: a read after a write, other keys left alone, and the canonical form that every
write keeps. None of the read laws needs the map to be sorted.
-/

namespace Sys2Proof.Machine

variable {α : Type}

/-! ## Find -/

@[simp] theorem FMap.find_nil (k : Nat) : FMap.find ([] : FMap α) k = none := rfl

@[simp] theorem FMap.find_set_self (m : FMap α) (k : Nat) (v : α) : FMap.find (FMap.set m k v) k = some v := by
  induction m with
  | nil => simp [FMap.set, FMap.find]
  | cons p t ih =>
    rcases p with ⟨a, w⟩
    unfold FMap.set
    split
    · simp [FMap.find]
    · split
      · simp [FMap.find]
      · rename_i h
        simp [FMap.find, Ne.symm h, ih]

theorem FMap.find_set_ne (m : FMap α) {k j : Nat} (v : α) (h : j ≠ k) : FMap.find (FMap.set m k v) j = FMap.find m j := by
  induction m with
  | nil => simp [FMap.set, FMap.find, Ne.symm h]
  | cons p t ih =>
    rcases p with ⟨a, w⟩
    unfold FMap.set
    split
    · simp [FMap.find, Ne.symm h]
    · split
      · rename_i hk
        simp [FMap.find, ← hk, Ne.symm h]
      · simp only [FMap.find, ih]

@[simp] theorem FMap.find_erase_self (m : FMap α) (k : Nat) : FMap.find (FMap.erase m k) k = none := by
  induction m with
  | nil => rfl
  | cons p t ih =>
    rcases p with ⟨a, w⟩
    by_cases h : a = k
    · subst h; simpa [FMap.erase] using ih
    · simpa [FMap.erase, h, FMap.find] using ih

theorem FMap.find_erase_ne (m : FMap α) {k j : Nat} (h : j ≠ k) : FMap.find (FMap.erase m k) j = FMap.find m j := by
  induction m with
  | nil => rfl
  | cons p t ih =>
    rcases p with ⟨a, w⟩
    by_cases hk : a = k
    · subst hk; simpa [FMap.erase, FMap.find, Ne.symm h] using ih
    · have hf : FMap.erase ((a, w) :: t) k = (a, w) :: FMap.erase t k := by simp [FMap.erase, hk]
      simp only [hf, FMap.find, ih]

/-! ## Get, set, put -/

@[simp] theorem FMap.get_nil (k : Nat) (d : α) : FMap.get ([] : FMap α) k d = d := rfl

@[simp] theorem FMap.get_set_self (m : FMap α) (k : Nat) (v d : α) : FMap.get (FMap.set m k v) k d = v := by
  simp [FMap.get]

theorem FMap.get_set_ne (m : FMap α) {k j : Nat} (v d : α) (h : j ≠ k) :
    FMap.get (FMap.set m k v) j d = FMap.get m j d := by
  simp only [FMap.get, FMap.find_set_ne m v h]

@[simp] theorem FMap.get_put_self [DecidableEq α] (m : FMap α) (k : Nat) (v d : α) :
    FMap.get (FMap.put m k v d) k d = v := by
  unfold FMap.put
  split <;> simp_all [FMap.get]

theorem FMap.get_put_ne [DecidableEq α] (m : FMap α) {k j : Nat} (v d e : α) (h : j ≠ k) :
    FMap.get (FMap.put m k v d) j e = FMap.get m j e := by
  unfold FMap.put
  split
  · simp only [FMap.get, FMap.find_erase_ne m h]
  · exact FMap.get_set_ne m v e h

theorem FMap.mem_set {m : FMap α} {k : Nat} {v : α} {p : Nat × α} (h : p ∈ FMap.set m k v) : p = (k, v) ∨ p ∈ m := by
  induction m with
  | nil => simpa [FMap.set] using h
  | cons q t ih =>
    rcases q with ⟨a, w⟩
    unfold FMap.set at h
    split at h
    · simpa using h
    · split at h
      · rcases List.mem_cons.mp h with h | h
        · exact .inl h
        · exact .inr (List.mem_cons_of_mem _ h)
      · rcases List.mem_cons.mp h with h | h
        · exact .inr (by rw [h]; exact List.mem_cons_self)
        · exact (ih h).imp id (List.mem_cons_of_mem _)

theorem FMap.mem_put [DecidableEq α] {m : FMap α} {k : Nat} {v d : α} {p : Nat × α} (h : p ∈ FMap.put m k v d) :
    p = (k, v) ∨ p ∈ m := by
  unfold FMap.put at h
  split at h
  · exact .inr (List.mem_filter.mp h).1
  · exact FMap.mem_set h

theorem FMap.mem_of_find {m : FMap α} {k : Nat} {v : α} (h : FMap.find m k = some v) : (k, v) ∈ m := by
  induction m with
  | nil => simp at h
  | cons p t ih =>
    rcases p with ⟨a, w⟩
    unfold FMap.find at h
    split at h
    · rename_i ha
      simp_all
    · exact List.mem_cons_of_mem _ (ih h)

/-! ## Sets of numbers -/

@[simp] theorem mem_insertNat {l : List Nat} {k j : Nat} : j ∈ insertNat l k ↔ j = k ∨ j ∈ l := by
  induction l with
  | nil => simp [insertNat]
  | cons a t ih =>
    unfold insertNat
    split
    · simp
    · split
      · rename_i h
        simp [h]
      · simp only [List.mem_cons, ih]
        tauto

@[simp] theorem mem_removeNat {l : List Nat} {k j : Nat} : j ∈ removeNat l k ↔ j ∈ l ∧ j ≠ k := by
  simp [removeNat]

theorem mem_markNat {l : List Nat} {k j : Nat} {b : Bool} : j ∈ markNat l k b ↔ if j = k then b = true else j ∈ l := by
  cases b
  · by_cases h : j = k <;> simp [markNat, h]
  · by_cases h : j = k <;> simp [markNat, h]

/-! ## Bytes -/

@[simp] theorem readByte_writeByte_self (m : FMap Byte) (a : Nat) (v : Byte) : readByte (writeByte m a v) a = v := by
  simp [readByte, writeByte]

theorem readByte_writeByte_ne (m : FMap Byte) {a b : Nat} (v : Byte) (h : b ≠ a) :
    readByte (writeByte m a v) b = readByte m b :=
  FMap.get_put_ne m v _ _ h

/-- Bytes outside a written span keep their values. -/
theorem readByte_writeBytes_of_outside (l : List Byte) (m : FMap Byte) (a b : Nat) (h : b < a ∨ a + l.length ≤ b) :
    readByte (writeBytes m a l) b = readByte m b := by
  induction l generalizing m a with
  | nil => rfl
  | cons x t ih =>
    simp only [List.length_cons] at h
    rw [writeBytes, ih _ _ (by omega), readByte_writeByte_ne _ _ (by omega)]

/-- Bytes inside a written span are what was written. -/
theorem readByte_writeBytes_of_inside (l : List Byte) (m : FMap Byte) (a i : Nat) (h : i < l.length) :
    readByte (writeBytes m a l) (a + i) = l[i] := by
  induction l generalizing m a i with
  | nil => simp at h
  | cons x t ih =>
    cases i with
    | zero => rw [writeBytes, Nat.add_zero, readByte_writeBytes_of_outside _ _ _ _ (by omega)]; simp
    | succ i =>
      rw [writeBytes, show a + (i + 1) = a + 1 + i by omega, ih _ _ _ (by simpa using h)]
      simp

/-! ## The canonical form -/

/-- Sortedness, as what every key is to those behind it. -/
theorem FMap.sorted_cons {m : FMap α} {a : Nat} {w : α} :
    FMap.sorted ((a, w) :: m) = true ↔ (∀ p ∈ m, a < p.1) ∧ FMap.sorted m = true := by
  induction m generalizing a w with
  | nil => simp [FMap.sorted]
  | cons q t ih =>
    rcases q with ⟨b, x⟩
    simp only [FMap.sorted, Bool.and_eq_true, decide_eq_true_eq, List.mem_cons, forall_eq_or_imp]
    refine ⟨fun h => ⟨⟨h.1, fun p hp => Nat.lt_trans h.1 ((ih.mp h.2).1 p hp)⟩, h.2⟩, fun h => ⟨h.1.1, h.2⟩⟩

theorem FMap.sorted_set {m : FMap α} (k : Nat) (v : α) (h : FMap.sorted m = true) : FMap.sorted (FMap.set m k v) = true := by
  induction m with
  | nil => rfl
  | cons p t ih =>
    rcases p with ⟨a, w⟩
    have hs := FMap.sorted_cons.mp h
    unfold FMap.set
    split
    · rename_i hk
      refine FMap.sorted_cons.mpr ⟨?_, h⟩
      intro p hp
      rcases List.mem_cons.mp hp with rfl | hp
      · exact hk
      · exact Nat.lt_trans hk (hs.1 p hp)
    · split
      · rename_i hk
        subst hk
        exact FMap.sorted_cons.mpr hs
      · refine FMap.sorted_cons.mpr ⟨?_, ih hs.2⟩
        intro p hp
        rcases FMap.mem_set hp with rfl | hp
        · simp only; omega
        · exact hs.1 p hp

theorem FMap.sorted_filter {m : FMap α} (f : Nat × α → Bool) (h : FMap.sorted m = true) : FMap.sorted (m.filter f) = true := by
  induction m with
  | nil => rfl
  | cons p t ih =>
    rcases p with ⟨a, w⟩
    have hs := FMap.sorted_cons.mp h
    rw [List.filter_cons]
    split
    · exact FMap.sorted_cons.mpr ⟨fun p hp => hs.1 p (List.mem_filter.mp hp).1, ih hs.2⟩
    · exact ih hs.2

theorem FMap.sorted_put [DecidableEq α] {m : FMap α} (k : Nat) (v d : α) (h : FMap.sorted m = true) :
    FMap.sorted (FMap.put m k v d) = true := by
  unfold FMap.put
  split
  · exact FMap.sorted_filter _ h
  · exact FMap.sorted_set k v h

theorem Memory.wf_iff {m : FMap Byte} : Memory.wf m = true ↔ FMap.sorted m = true ∧ ∀ p ∈ m, p.2 ≠ unlistedByte := by
  simp [Memory.wf, List.all_eq_true]

@[simp] theorem Memory.wf_nil : Memory.wf [] = true := rfl

theorem Memory.wf_filter {m : FMap Byte} (f : Nat × Byte → Bool) (h : Memory.wf m = true) : Memory.wf (m.filter f) = true := by
  rw [Memory.wf_iff] at *
  exact ⟨FMap.sorted_filter f h.1, fun p hp => h.2 p (List.mem_filter.mp hp).1⟩

theorem Memory.wf_writeByte {m : FMap Byte} (a : Nat) (v : Byte) (h : Memory.wf m = true) :
    Memory.wf (writeByte m a v) = true := by
  rw [Memory.wf_iff] at *
  refine ⟨FMap.sorted_put _ _ _ h.1, fun p hp => ?_⟩
  unfold writeByte FMap.put at hp
  split at hp
  · exact h.2 p (List.mem_filter.mp hp).1
  · rename_i hv
    rcases FMap.mem_set hp with rfl | hp
    · exact hv
    · exact h.2 p hp

theorem Memory.wf_writeBytes (l : List Byte) {m : FMap Byte} (a : Nat) (h : Memory.wf m = true) :
    Memory.wf (writeBytes m a l) = true := by
  induction l generalizing m a with
  | nil => exact h
  | cons b t ih => exact ih _ (Memory.wf_writeByte a b h)

theorem Memory.wf_writeLE {m : FMap Byte} (a n v : Nat) (h : Memory.wf m = true) : Memory.wf (writeLE m a n v) = true :=
  Memory.wf_writeBytes _ a h

theorem Memory.wf_foldl {β : Type} (f : FMap Byte → β → FMap Byte) (hf : ∀ m b, Memory.wf m = true → Memory.wf (f m b) = true)
    (l : List β) {m : FMap Byte} (h : Memory.wf m = true) : Memory.wf (l.foldl f m) = true := by
  induction l generalizing m with
  | nil => exact h
  | cons b t ih => exact ih (hf m b h)

theorem Memory.wf_writeMasked {m : FMap Byte} (pa : Nat) (data : Line) (mask : BitVec 64) (h : Memory.wf m = true) :
    Memory.wf (writeMasked m pa data mask) = true := by
  refine Memory.wf_foldl _ (fun m i hm => ?_) _ h
  split
  · exact Memory.wf_writeByte _ _ hm
  · exact hm

end Sys2Proof.Machine
end

