-- ==== Sys2Proof/Laws/State.lean ====
section
/-!
SUPPORT. What each update of the state changes, field by field.
-/

namespace Sys2Proof.Machine

/-! ## A core of the device -/

@[simp] theorem Device.core_setCore_self (d : Device) (id : Nat) (c : Core) : (d.setCore id c).core id = c := by
  simp [Device.core, Device.setCore]
theorem Device.core_setCore_ne (d : Device) {id j : Nat} (c : Core) (h : j ≠ id) : (d.setCore id c).core j = d.core j :=
  FMap.get_set_ne d.cores c _ h
@[simp] theorem Device.core_modCore_self (d : Device) (id : Nat) (f : Core → Core) : (d.modCore id f).core id = f (d.core id) := by
  simp [Device.modCore]
theorem Device.core_modCore_ne (d : Device) {id j : Nat} (f : Core → Core) (h : j ≠ id) : (d.modCore id f).core j = d.core j :=
  Device.core_setCore_ne d _ h
@[simp] theorem Device.setCore_cycle (d : Device) (id : Nat) (c : Core) : (d.setCore id c).cycle = d.cycle := rfl
@[simp] theorem Device.modCore_cycle (d : Device) (id : Nat) (f : Core → Core) : (d.modCore id f).cycle = d.cycle := rfl
@[simp] theorem Device.setCore_tick (d : Device) (id : Nat) (c : Core) : (d.setCore id c).tick = d.tick := rfl
@[simp] theorem Device.modCore_tick (d : Device) (id : Nat) (f : Core → Core) : (d.modCore id f).tick = d.tick := rfl
@[simp] theorem Device.setCore_mem (d : Device) (id : Nat) (c : Core) : (d.setCore id c).mem = d.mem := rfl
@[simp] theorem Device.modCore_mem (d : Device) (id : Nat) (f : Core → Core) : (d.modCore id f).mem = d.mem := rfl
@[simp] theorem Device.setCore_memPoison (d : Device) (id : Nat) (c : Core) : (d.setCore id c).memPoison = d.memPoison := rfl
@[simp] theorem Device.modCore_memPoison (d : Device) (id : Nat) (f : Core → Core) : (d.modCore id f).memPoison = d.memPoison := rfl
@[simp] theorem Device.setCore_caches (d : Device) (id : Nat) (c : Core) : (d.setCore id c).caches = d.caches := rfl
@[simp] theorem Device.modCore_caches (d : Device) (id : Nat) (f : Core → Core) : (d.modCore id f).caches = d.caches := rfl
@[simp] theorem Device.setCore_scopes (d : Device) (id : Nat) (c : Core) : (d.setCore id c).scopes = d.scopes := rfl
@[simp] theorem Device.modCore_scopes (d : Device) (id : Nat) (f : Core → Core) : (d.modCore id f).scopes = d.scopes := rfl
@[simp] theorem Device.setCore_versions (d : Device) (id : Nat) (c : Core) : (d.setCore id c).versions = d.versions := rfl
@[simp] theorem Device.modCore_versions (d : Device) (id : Nat) (f : Core → Core) : (d.modCore id f).versions = d.versions := rfl
@[simp] theorem Device.setCore_locks (d : Device) (id : Nat) (c : Core) : (d.setCore id c).locks = d.locks := rfl
@[simp] theorem Device.modCore_locks (d : Device) (id : Nat) (f : Core → Core) : (d.modCore id f).locks = d.locks := rfl
@[simp] theorem Device.setCore_objs (d : Device) (id : Nat) (c : Core) : (d.setCore id c).objs = d.objs := rfl
@[simp] theorem Device.modCore_objs (d : Device) (id : Nat) (f : Core → Core) : (d.modCore id f).objs = d.objs := rfl
@[simp] theorem Device.setCore_banks (d : Device) (id : Nat) (c : Core) : (d.setCore id c).banks = d.banks := rfl
@[simp] theorem Device.modCore_banks (d : Device) (id : Nat) (f : Core → Core) : (d.modCore id f).banks = d.banks := rfl
@[simp] theorem Device.setCore_bankq (d : Device) (id : Nat) (c : Core) : (d.setCore id c).bankq = d.bankq := rfl
@[simp] theorem Device.modCore_bankq (d : Device) (id : Nat) (f : Core → Core) : (d.modCore id f).bankq = d.bankq := rfl
@[simp] theorem Device.setCore_slots (d : Device) (id : Nat) (c : Core) : (d.setCore id c).slots = d.slots := rfl
@[simp] theorem Device.modCore_slots (d : Device) (id : Nat) (f : Core → Core) : (d.modCore id f).slots = d.slots := rfl
@[simp] theorem Device.setCore_claimq (d : Device) (id : Nat) (c : Core) : (d.setCore id c).claimq = d.claimq := rfl
@[simp] theorem Device.modCore_claimq (d : Device) (id : Nat) (f : Core → Core) : (d.modCore id f).claimq = d.claimq := rfl
@[simp] theorem Device.setCore_claimRecv (d : Device) (id : Nat) (c : Core) : (d.setCore id c).claimRecv = d.claimRecv := rfl
@[simp] theorem Device.modCore_claimRecv (d : Device) (id : Nat) (f : Core → Core) : (d.modCore id f).claimRecv = d.claimRecv := rfl
@[simp] theorem Device.setCore_drains (d : Device) (id : Nat) (c : Core) : (d.setCore id c).drains = d.drains := rfl
@[simp] theorem Device.modCore_drains (d : Device) (id : Nat) (f : Core → Core) : (d.modCore id f).drains = d.drains := rfl
@[simp] theorem Device.setCore_poolActive (d : Device) (id : Nat) (c : Core) : (d.setCore id c).poolActive = d.poolActive := rfl
@[simp] theorem Device.modCore_poolActive (d : Device) (id : Nat) (f : Core → Core) : (d.modCore id f).poolActive = d.poolActive := rfl
@[simp] theorem Device.setCore_walks (d : Device) (id : Nat) (c : Core) : (d.setCore id c).walks = d.walks := rfl
@[simp] theorem Device.modCore_walks (d : Device) (id : Nat) (f : Core → Core) : (d.modCore id f).walks = d.walks := rfl
@[simp] theorem Device.setCore_jobs (d : Device) (id : Nat) (c : Core) : (d.setCore id c).jobs = d.jobs := rfl
@[simp] theorem Device.setCore_linesWait (d : Device) (id : Nat) (c : Core) : (d.setCore id c).linesWait = d.linesWait := rfl
@[simp] theorem Device.setCore_claimSent (d : Device) (id : Nat) (c : Core) : (d.setCore id c).claimSent = d.claimSent := rfl
@[simp] theorem Device.setCore_sentSeq (d : Device) (id : Nat) (c : Core) : (d.setCore id c).sentSeq = d.sentSeq := rfl
@[simp] theorem Device.setCore_fabSent (d : Device) (id : Nat) (c : Core) : (d.setCore id c).fabSent = d.fabSent := rfl
@[simp] theorem Device.setCore_away (d : Device) (id : Nat) (c : Core) : (d.setCore id c).away = d.away := rfl
@[simp] theorem Device.setCore_reports (d : Device) (id : Nat) (c : Core) : (d.setCore id c).reports = d.reports := rfl
@[simp] theorem Device.setCore_offers (d : Device) (id : Nat) (c : Core) : (d.setCore id c).offers = d.offers := rfl
@[simp] theorem Device.setCore_lent (d : Device) (id : Nat) (c : Core) : (d.setCore id c).lent = d.lent := rfl
@[simp] theorem Device.setCore_travel (d : Device) (id : Nat) (c : Core) : (d.setCore id c).travel = d.travel := rfl
@[simp] theorem Device.setCore_bootReports (d : Device) (id : Nat) (c : Core) : (d.setCore id c).bootReports = d.bootReports := rfl
@[simp] theorem Device.setCore_rootKey (d : Device) (id : Nat) (c : Core) : (d.setCore id c).rootKey = d.rootKey := rfl
@[simp] theorem Device.setCore_idSecret (d : Device) (id : Nat) (c : Core) : (d.setCore id c).idSecret = d.idSecret := rfl
@[simp] theorem Device.setCore_idCert (d : Device) (id : Nat) (c : Core) : (d.setCore id c).idCert = d.idCert := rfl
@[simp] theorem Device.setCore_mgmtMem (d : Device) (id : Nat) (c : Core) : (d.setCore id c).mgmtMem = d.mgmtMem := rfl
@[simp] theorem Device.setCore_mgmtReply (d : Device) (id : Nat) (c : Core) : (d.setCore id c).mgmtReply = d.mgmtReply := rfl
@[simp] theorem Device.setCore_mgmtFaults (d : Device) (id : Nat) (c : Core) : (d.setCore id c).mgmtFaults = d.mgmtFaults := rfl
@[simp] theorem Device.modCore_jobs (d : Device) (id : Nat) (f : Core → Core) : (d.modCore id f).jobs = d.jobs := rfl
@[simp] theorem Device.modCore_linesWait (d : Device) (id : Nat) (f : Core → Core) : (d.modCore id f).linesWait = d.linesWait := rfl
@[simp] theorem Device.modCore_claimSent (d : Device) (id : Nat) (f : Core → Core) : (d.modCore id f).claimSent = d.claimSent := rfl
@[simp] theorem Device.modCore_sentSeq (d : Device) (id : Nat) (f : Core → Core) : (d.modCore id f).sentSeq = d.sentSeq := rfl
@[simp] theorem Device.modCore_fabSent (d : Device) (id : Nat) (f : Core → Core) : (d.modCore id f).fabSent = d.fabSent := rfl
@[simp] theorem Device.modCore_away (d : Device) (id : Nat) (f : Core → Core) : (d.modCore id f).away = d.away := rfl
@[simp] theorem Device.modCore_reports (d : Device) (id : Nat) (f : Core → Core) : (d.modCore id f).reports = d.reports := rfl
@[simp] theorem Device.modCore_offers (d : Device) (id : Nat) (f : Core → Core) : (d.modCore id f).offers = d.offers := rfl
@[simp] theorem Device.modCore_lent (d : Device) (id : Nat) (f : Core → Core) : (d.modCore id f).lent = d.lent := rfl
@[simp] theorem Device.modCore_travel (d : Device) (id : Nat) (f : Core → Core) : (d.modCore id f).travel = d.travel := rfl
@[simp] theorem Device.modCore_bootReports (d : Device) (id : Nat) (f : Core → Core) : (d.modCore id f).bootReports = d.bootReports := rfl
@[simp] theorem Device.modCore_rootKey (d : Device) (id : Nat) (f : Core → Core) : (d.modCore id f).rootKey = d.rootKey := rfl
@[simp] theorem Device.modCore_idSecret (d : Device) (id : Nat) (f : Core → Core) : (d.modCore id f).idSecret = d.idSecret := rfl
@[simp] theorem Device.modCore_idCert (d : Device) (id : Nat) (f : Core → Core) : (d.modCore id f).idCert = d.idCert := rfl
@[simp] theorem Device.modCore_mgmtMem (d : Device) (id : Nat) (f : Core → Core) : (d.modCore id f).mgmtMem = d.mgmtMem := rfl
@[simp] theorem Device.modCore_mgmtReply (d : Device) (id : Nat) (f : Core → Core) : (d.modCore id f).mgmtReply = d.mgmtReply := rfl
@[simp] theorem Device.modCore_mgmtFaults (d : Device) (id : Nat) (f : Core → Core) : (d.modCore id f).mgmtFaults = d.mgmtFaults := rfl
@[simp] theorem Device.setCore_flights (d : Device) (id : Nat) (c : Core) : (d.setCore id c).flights = d.flights := rfl
@[simp] theorem Device.modCore_flights (d : Device) (id : Nat) (f : Core → Core) : (d.modCore id f).flights = d.flights := rfl
@[simp] theorem Device.setCore_linkFlights (d : Device) (id : Nat) (c : Core) : (d.setCore id c).linkFlights = d.linkFlights := rfl
@[simp] theorem Device.modCore_linkFlights (d : Device) (id : Nat) (f : Core → Core) : (d.modCore id f).linkFlights = d.linkFlights := rfl
@[simp] theorem Device.setCore_passedOn (d : Device) (id : Nat) (c : Core) : (d.setCore id c).passedOn = d.passedOn := rfl
@[simp] theorem Device.modCore_passedOn (d : Device) (id : Nat) (f : Core → Core) : (d.modCore id f).passedOn = d.passedOn := rfl
@[simp] theorem Device.setCore_linkUse (d : Device) (id : Nat) (c : Core) : (d.setCore id c).linkUse = d.linkUse := rfl
@[simp] theorem Device.modCore_linkUse (d : Device) (id : Nat) (f : Core → Core) : (d.modCore id f).linkUse = d.linkUse := rfl
@[simp] theorem Device.setCore_acks (d : Device) (id : Nat) (c : Core) : (d.setCore id c).acks = d.acks := rfl
@[simp] theorem Device.modCore_acks (d : Device) (id : Nat) (f : Core → Core) : (d.modCore id f).acks = d.acks := rfl
@[simp] theorem Device.setCore_dieParts (d : Device) (id : Nat) (c : Core) : (d.setCore id c).dieParts = d.dieParts := rfl
@[simp] theorem Device.modCore_dieParts (d : Device) (id : Nat) (f : Core → Core) : (d.modCore id f).dieParts = d.dieParts := rfl
@[simp] theorem Device.setCore_dieEpoch (d : Device) (id : Nat) (c : Core) : (d.setCore id c).dieEpoch = d.dieEpoch := rfl
@[simp] theorem Device.modCore_dieEpoch (d : Device) (id : Nat) (f : Core → Core) : (d.modCore id f).dieEpoch = d.dieEpoch := rfl
@[simp] theorem Device.setCore_parts (d : Device) (id : Nat) (c : Core) : (d.setCore id c).parts = d.parts := rfl
@[simp] theorem Device.modCore_parts (d : Device) (id : Nat) (f : Core → Core) : (d.modCore id f).parts = d.parts := rfl
@[simp] theorem Device.setCore_launches (d : Device) (id : Nat) (c : Core) : (d.setCore id c).launches = d.launches := rfl
@[simp] theorem Device.modCore_launches (d : Device) (id : Nat) (f : Core → Core) : (d.modCore id f).launches = d.launches := rfl
@[simp] theorem Device.setCore_regs (d : Device) (id : Nat) (c : Core) : (d.setCore id c).regs = d.regs := rfl
@[simp] theorem Device.modCore_regs (d : Device) (id : Nat) (f : Core → Core) : (d.modCore id f).regs = d.regs := rfl
@[simp] theorem Device.setCore_ert (d : Device) (id : Nat) (c : Core) : (d.setCore id c).ert = d.ert := rfl
@[simp] theorem Device.modCore_ert (d : Device) (id : Nat) (f : Core → Core) : (d.modCore id f).ert = d.ert := rfl
@[simp] theorem Device.setCore_pkgNum (d : Device) (id : Nat) (c : Core) : (d.setCore id c).pkgNum = d.pkgNum := rfl
@[simp] theorem Device.modCore_pkgNum (d : Device) (id : Nat) (f : Core → Core) : (d.modCore id f).pkgNum = d.pkgNum := rfl
@[simp] theorem Device.setCore_links (d : Device) (id : Nat) (c : Core) : (d.setCore id c).links = d.links := rfl
@[simp] theorem Device.modCore_links (d : Device) (id : Nat) (f : Core → Core) : (d.modCore id f).links = d.links := rfl
@[simp] theorem Device.setCore_nextSeq (d : Device) (id : Nat) (c : Core) : (d.setCore id c).nextSeq = d.nextSeq := rfl
@[simp] theorem Device.modCore_nextSeq (d : Device) (id : Nat) (f : Core → Core) : (d.modCore id f).nextSeq = d.nextSeq := rfl
@[simp] theorem Device.setCore_heldPackets (d : Device) (id : Nat) (c : Core) : (d.setCore id c).heldPackets = d.heldPackets := rfl
@[simp] theorem Device.modCore_heldPackets (d : Device) (id : Nat) (f : Core → Core) : (d.modCore id f).heldPackets = d.heldPackets := rfl
@[simp] theorem Device.setCore_fabSeq (d : Device) (id : Nat) (c : Core) : (d.setCore id c).fabSeq = d.fabSeq := rfl
@[simp] theorem Device.modCore_fabSeq (d : Device) (id : Nat) (f : Core → Core) : (d.modCore id f).fabSeq = d.fabSeq := rfl
@[simp] theorem Device.setCore_heldFab (d : Device) (id : Nat) (c : Core) : (d.setCore id c).heldFab = d.heldFab := rfl
@[simp] theorem Device.modCore_heldFab (d : Device) (id : Nat) (f : Core → Core) : (d.modCore id f).heldFab = d.heldFab := rfl
@[simp] theorem Device.setCore_moved (d : Device) (id : Nat) (c : Core) : (d.setCore id c).moved = d.moved := rfl
@[simp] theorem Device.modCore_moved (d : Device) (id : Nat) (f : Core → Core) : (d.modCore id f).moved = d.moved := rfl
@[simp] theorem Device.setCore_shadow (d : Device) (id : Nat) (c : Core) : (d.setCore id c).shadow = d.shadow := rfl
@[simp] theorem Device.modCore_shadow (d : Device) (id : Nat) (f : Core → Core) : (d.modCore id f).shadow = d.shadow := rfl
@[simp] theorem Device.setCore_twins (d : Device) (id : Nat) (c : Core) : (d.setCore id c).twins = d.twins := rfl
@[simp] theorem Device.modCore_twins (d : Device) (id : Nat) (f : Core → Core) : (d.modCore id f).twins = d.twins := rfl
@[simp] theorem Device.setCore_boot (d : Device) (id : Nat) (c : Core) : (d.setCore id c).boot = d.boot := rfl
@[simp] theorem Device.modCore_boot (d : Device) (id : Nat) (f : Core → Core) : (d.modCore id f).boot = d.boot := rfl
@[simp] theorem Device.setCore_mlog (d : Device) (id : Nat) (c : Core) : (d.setCore id c).mlog = d.mlog := rfl
@[simp] theorem Device.modCore_mlog (d : Device) (id : Nat) (f : Core → Core) : (d.modCore id f).mlog = d.mlog := rfl
@[simp] theorem Device.setCore_secVer (d : Device) (id : Nat) (c : Core) : (d.setCore id c).secVer = d.secVer := rfl
@[simp] theorem Device.modCore_secVer (d : Device) (id : Nat) (f : Core → Core) : (d.modCore id f).secVer = d.secVer := rfl
@[simp] theorem Device.setCore_quotes (d : Device) (id : Nat) (c : Core) : (d.setCore id c).quotes = d.quotes := rfl
@[simp] theorem Device.modCore_quotes (d : Device) (id : Nat) (f : Core → Core) : (d.modCore id f).quotes = d.quotes := rfl
@[simp] theorem Device.setCore_appIrqs (d : Device) (id : Nat) (c : Core) : (d.setCore id c).appIrqs = d.appIrqs := rfl
@[simp] theorem Device.modCore_appIrqs (d : Device) (id : Nat) (f : Core → Core) : (d.modCore id f).appIrqs = d.appIrqs := rfl
@[simp] theorem Device.setCore_dmaReply (d : Device) (id : Nat) (c : Core) : (d.setCore id c).dmaReply = d.dmaReply := rfl
@[simp] theorem Device.modCore_dmaReply (d : Device) (id : Nat) (f : Core → Core) : (d.modCore id f).dmaReply = d.dmaReply := rfl

/-! ## A stream of a core -/

@[simp] theorem Core.stream_setStream_self (c : Core) (h : Bool) (t : Stream) : (c.setStream h t).stream h = t := by cases h <;> rfl
@[simp] theorem Core.stream_setStream_other (c : Core) (h : Bool) (t : Stream) : (c.setStream h t).stream (!h) = c.stream (!h) := by cases h <;> rfl
@[simp] theorem Core.stream_modStream_self (c : Core) (h : Bool) (f : Stream → Stream) : (c.modStream h f).stream h = f (c.stream h) := by cases h <;> rfl
@[simp] theorem Core.stream_modStream_other (c : Core) (h : Bool) (f : Stream → Stream) : (c.modStream h f).stream (!h) = c.stream (!h) := by
  cases h <;> rfl
@[simp] theorem Core.modStream_genFore (c : Core) (h : Bool) (f : Stream → Stream) : (c.modStream h f).genFore = c.genFore := by cases h <;> rfl
@[simp] theorem Core.modStream_genHind (c : Core) (h : Bool) (f : Stream → Stream) : (c.modStream h f).genHind = c.genHind := by cases h <;> rfl
@[simp] theorem Core.modStream_lanes (c : Core) (h : Bool) (f : Stream → Stream) : (c.modStream h f).lanes = c.lanes := by cases h <;> rfl
@[simp] theorem Core.modStream_queues (c : Core) (h : Bool) (f : Stream → Stream) : (c.modStream h f).queues = c.queues := by cases h <;> rfl
@[simp] theorem Core.modStream_rows (c : Core) (h : Bool) (f : Stream → Stream) : (c.modStream h f).rows = c.rows := by cases h <;> rfl
@[simp] theorem Core.modStream_starts (c : Core) (h : Bool) (f : Stream → Stream) : (c.modStream h f).starts = c.starts := by cases h <;> rfl
@[simp] theorem Core.modStream_home (c : Core) (h : Bool) (f : Stream → Stream) : (c.modStream h f).home = c.home := by cases h <;> rfl
@[simp] theorem Core.modStream_twinFailed (c : Core) (h : Bool) (f : Stream → Stream) : (c.modStream h f).twinFailed = c.twinFailed := by cases h <;> rfl
@[simp] theorem Core.modStream_presented (c : Core) (h : Bool) (f : Stream → Stream) : (c.modStream h f).presented = c.presented := by cases h <;> rfl
@[simp] theorem Core.modStream_dying (c : Core) (h : Bool) (f : Stream → Stream) : (c.modStream h f).dying = c.dying := by cases h <;> rfl
@[simp] theorem Core.modStream_rowPoison (c : Core) (h : Bool) (f : Stream → Stream) : (c.modStream h f).rowPoison = c.rowPoison := by cases h <;> rfl
@[simp] theorem Core.modStream_tiles (c : Core) (h : Bool) (f : Stream → Stream) : (c.modStream h f).tiles = c.tiles := by cases h <;> rfl
@[simp] theorem Core.modStream_tilePoison (c : Core) (h : Bool) (f : Stream → Stream) : (c.modStream h f).tilePoison = c.tilePoison := by cases h <;> rfl
@[simp] theorem Core.modStream_exps (c : Core) (h : Bool) (f : Stream → Stream) : (c.modStream h f).exps = c.exps := by cases h <;> rfl
@[simp] theorem Core.modStream_mxu (c : Core) (h : Bool) (f : Stream → Stream) : (c.modStream h f).mxu = c.mxu := by cases h <;> rfl
@[simp] theorem Core.modStream_vecBusy (c : Core) (h : Bool) (f : Stream → Stream) : (c.modStream h f).vecBusy = c.vecBusy := by cases h <;> rfl
@[simp] theorem Core.modStream_sp (c : Core) (h : Bool) (f : Stream → Stream) : (c.modStream h f).sp = c.sp := by cases h <;> rfl
@[simp] theorem Core.modStream_spFull (c : Core) (h : Bool) (f : Stream → Stream) : (c.modStream h f).spFull = c.spFull := by cases h <;> rfl
@[simp] theorem Core.modStream_spPoison (c : Core) (h : Bool) (f : Stream → Stream) : (c.modStream h f).spPoison = c.spPoison := by cases h <;> rfl
@[simp] theorem Core.modStream_spGone (c : Core) (h : Bool) (f : Stream → Stream) : (c.modStream h f).spGone = c.spGone := by cases h <;> rfl
@[simp] theorem Core.modStream_spTag (c : Core) (h : Bool) (f : Stream → Stream) : (c.modStream h f).spTag = c.spTag := by cases h <;> rfl
@[simp] theorem Core.modStream_journal (c : Core) (h : Bool) (f : Stream → Stream) : (c.modStream h f).journal = c.journal := by cases h <;> rfl
@[simp] theorem Core.modStream_handlers (c : Core) (h : Bool) (f : Stream → Stream) : (c.modStream h f).handlers = c.handlers := by cases h <;> rfl
@[simp] theorem Core.modStream_cr (c : Core) (h : Bool) (f : Stream → Stream) : (c.modStream h f).cr = c.cr := by cases h <;> rfl
@[simp] theorem Core.modStream_dq (c : Core) (h : Bool) (f : Stream → Stream) : (c.modStream h f).dq = c.dq := by cases h <;> rfl
@[simp] theorem Core.modStream_sendq (c : Core) (h : Bool) (f : Stream → Stream) : (c.modStream h f).sendq = c.sendq := by cases h <;> rfl
@[simp] theorem Core.modStream_tokens (c : Core) (h : Bool) (f : Stream → Stream) : (c.modStream h f).tokens = c.tokens := by cases h <;> rfl
@[simp] theorem Core.modStream_mail (c : Core) (h : Bool) (f : Stream → Stream) : (c.modStream h f).mail = c.mail := by cases h <;> rfl
@[simp] theorem Core.modStream_deque (c : Core) (h : Bool) (f : Stream → Stream) : (c.modStream h f).deque = c.deque := by cases h <;> rfl
@[simp] theorem Core.modStream_lfsr (c : Core) (h : Bool) (f : Stream → Stream) : (c.modStream h f).lfsr = c.lfsr := by cases h <;> rfl
@[simp] theorem Core.modStream_steal (c : Core) (h : Bool) (f : Stream → Stream) : (c.modStream h f).steal = c.steal := by cases h <;> rfl
@[simp] theorem Core.modStream_xcount (c : Core) (h : Bool) (f : Stream → Stream) : (c.modStream h f).xcount = c.xcount := by cases h <;> rfl
@[simp] theorem Core.modStream_xterm (c : Core) (h : Bool) (f : Stream → Stream) : (c.modStream h f).xterm = c.xterm := by cases h <;> rfl
@[simp] theorem Core.modStream_fifo (c : Core) (h : Bool) (f : Stream → Stream) : (c.modStream h f).fifo = c.fifo := by cases h <;> rfl
@[simp] theorem Core.modStream_nbq (c : Core) (h : Bool) (f : Stream → Stream) : (c.modStream h f).nbq = c.nbq := by cases h <;> rfl
@[simp] theorem Core.modStream_portq (c : Core) (h : Bool) (f : Stream → Stream) : (c.modStream h f).portq = c.portq := by cases h <;> rfl
@[simp] theorem Core.modStream_tlb (c : Core) (h : Bool) (f : Stream → Stream) : (c.modStream h f).tlb = c.tlb := by cases h <;> rfl
@[simp] theorem Core.modStream_walkFail (c : Core) (h : Bool) (f : Stream → Stream) : (c.modStream h f).walkFail = c.walkFail := by cases h <;> rfl
@[simp] theorem Core.modStream_round (c : Core) (h : Bool) (f : Stream → Stream) : (c.modStream h f).round = c.round := by cases h <;> rfl
@[simp] theorem Core.modStream_sentTo (c : Core) (h : Bool) (f : Stream → Stream) : (c.modStream h f).sentTo = c.sentTo := by cases h <;> rfl
@[simp] theorem Core.modStream_counted (c : Core) (h : Bool) (f : Stream → Stream) : (c.modStream h f).counted = c.counted := by cases h <;> rfl
@[simp] theorem Core.modStream_queries (c : Core) (h : Bool) (f : Stream → Stream) : (c.modStream h f).queries = c.queries := by cases h <;> rfl
@[simp] theorem Core.modStream_act (c : Core) (h : Bool) (f : Stream → Stream) : (c.modStream h f).act = c.act := by cases h <;> rfl
@[simp] theorem Core.modStream_susp (c : Core) (h : Bool) (f : Stream → Stream) : (c.modStream h f).susp = c.susp := by cases h <;> rfl
@[simp] theorem Core.modStream_stopped (c : Core) (h : Bool) (f : Stream → Stream) : (c.modStream h f).stopped = c.stopped := by cases h <;> rfl
@[simp] theorem Core.modStream_redeliver (c : Core) (h : Bool) (f : Stream → Stream) : (c.modStream h f).redeliver = c.redeliver := by cases h <;> rfl
@[simp] theorem Core.modStream_sent (c : Core) (h : Bool) (f : Stream → Stream) : (c.modStream h f).sent = c.sent := by cases h <;> rfl
@[simp] theorem Core.modStream_recv (c : Core) (h : Bool) (f : Stream → Stream) : (c.modStream h f).recv = c.recv := by cases h <;> rfl
@[simp] theorem Core.modStream_idleSince (c : Core) (h : Bool) (f : Stream → Stream) : (c.modStream h f).idleSince = c.idleSince := by cases h <;> rfl
@[simp] theorem Core.modStream_pool (c : Core) (h : Bool) (f : Stream → Stream) : (c.modStream h f).pool = c.pool := by cases h <;> rfl
@[simp] theorem Core.modStream_poolSince (c : Core) (h : Bool) (f : Stream → Stream) : (c.modStream h f).poolSince = c.poolSince := by cases h <;> rfl
@[simp] theorem Core.modStream_homeId (c : Core) (h : Bool) (f : Stream → Stream) : (c.modStream h f).homeId = c.homeId := by cases h <;> rfl

/-! ## Registers of a stream -/

@[simp] theorem Stream.setReg_running (t : Stream) (n : Nat) (v : Word) : (t.setReg n v).running = t.running := rfl
@[simp] theorem Stream.setReg_pc (t : Stream) (n : Nat) (v : Word) : (t.setReg n v).pc = t.pc := rfl
@[simp] theorem Stream.setReg_o (t : Stream) (n : Nat) (v : Word) : (t.setReg n v).o = t.o := rfl
@[simp] theorem Stream.setReg_x (t : Stream) (n : Nat) (v : Word) : (t.setReg n v).x = t.x := rfl
@[simp] theorem Stream.setReg_region (t : Stream) (n : Nat) (v : Word) : (t.setReg n v).region = t.region := rfl
@[simp] theorem Stream.setReg_ranged (t : Stream) (n : Nat) (v : Word) : (t.setReg n v).ranged = t.ranged := rfl
@[simp] theorem Stream.setReg_fenced (t : Stream) (n : Nat) (v : Word) : (t.setReg n v).fenced = t.fenced := rfl
@[simp] theorem Stream.setReg_ending (t : Stream) (n : Nat) (v : Word) : (t.setReg n v).ending = t.ending := rfl
@[simp] theorem Stream.setReg_acc (t : Stream) (n : Nat) (v : Word) : (t.setReg n v).acc = t.acc := rfl
@[simp] theorem Stream.setReg_fetched (t : Stream) (n : Nat) (v : Word) : (t.setReg n v).fetched = t.fetched := rfl
@[simp] theorem Stream.setReg_entering (t : Stream) (n : Nat) (v : Word) : (t.setReg n v).entering = t.entering := rfl
@[simp] theorem Stream.setReg_syncAt (t : Stream) (n : Nat) (v : Word) : (t.setReg n v).syncAt = t.syncAt := rfl
@[simp] theorem Stream.setReg_struck (t : Stream) (n : Nat) (v : Word) : (t.setReg n v).struck = t.struck := rfl
@[simp] theorem Stream.reg_setReg_self (t : Stream) (n : Nat) (v : Word) : (t.setReg n v).reg n = v := by simp [Stream.reg, Stream.setReg]
theorem Stream.reg_setReg_ne (t : Stream) {n k : Nat} (v : Word) (h : k ≠ n) : (t.setReg n v).reg k = t.reg k :=
  FMap.get_put_ne t.g v _ _ h
@[simp] theorem Stream.opReg_setReg (t : Stream) (n k : Nat) (v : Word) : (t.setReg n v).opReg k = t.opReg k := rfl
@[simp] theorem Stream.latch_setReg (t : Stream) (n k : Nat) (v : Word) : (t.setReg n v).latch k = t.latch k := rfl
@[simp] theorem Stream.setOpReg_running (t : Stream) (n : Nat) (v : Word) : (t.setOpReg n v).running = t.running := rfl
@[simp] theorem Stream.setOpReg_pc (t : Stream) (n : Nat) (v : Word) : (t.setOpReg n v).pc = t.pc := rfl
@[simp] theorem Stream.setOpReg_g (t : Stream) (n : Nat) (v : Word) : (t.setOpReg n v).g = t.g := rfl
@[simp] theorem Stream.setOpReg_x (t : Stream) (n : Nat) (v : Word) : (t.setOpReg n v).x = t.x := rfl
@[simp] theorem Stream.setOpReg_region (t : Stream) (n : Nat) (v : Word) : (t.setOpReg n v).region = t.region := rfl
@[simp] theorem Stream.setOpReg_ranged (t : Stream) (n : Nat) (v : Word) : (t.setOpReg n v).ranged = t.ranged := rfl
@[simp] theorem Stream.setOpReg_fenced (t : Stream) (n : Nat) (v : Word) : (t.setOpReg n v).fenced = t.fenced := rfl
@[simp] theorem Stream.setOpReg_ending (t : Stream) (n : Nat) (v : Word) : (t.setOpReg n v).ending = t.ending := rfl
@[simp] theorem Stream.setOpReg_acc (t : Stream) (n : Nat) (v : Word) : (t.setOpReg n v).acc = t.acc := rfl
@[simp] theorem Stream.setOpReg_fetched (t : Stream) (n : Nat) (v : Word) : (t.setOpReg n v).fetched = t.fetched := rfl
@[simp] theorem Stream.setOpReg_entering (t : Stream) (n : Nat) (v : Word) : (t.setOpReg n v).entering = t.entering := rfl
@[simp] theorem Stream.setOpReg_syncAt (t : Stream) (n : Nat) (v : Word) : (t.setOpReg n v).syncAt = t.syncAt := rfl
@[simp] theorem Stream.setOpReg_struck (t : Stream) (n : Nat) (v : Word) : (t.setOpReg n v).struck = t.struck := rfl
@[simp] theorem Stream.opReg_setOpReg_self (t : Stream) (n : Nat) (v : Word) : (t.setOpReg n v).opReg n = v := by simp [Stream.opReg, Stream.setOpReg]
theorem Stream.opReg_setOpReg_ne (t : Stream) {n k : Nat} (v : Word) (h : k ≠ n) : (t.setOpReg n v).opReg k = t.opReg k :=
  FMap.get_put_ne t.o v _ _ h
@[simp] theorem Stream.reg_setOpReg (t : Stream) (n k : Nat) (v : Word) : (t.setOpReg n v).reg k = t.reg k := rfl
@[simp] theorem Stream.latch_setOpReg (t : Stream) (n k : Nat) (v : Word) : (t.setOpReg n v).latch k = t.latch k := rfl
@[simp] theorem Stream.setLatch_running (t : Stream) (n : Nat) (v : Word) : (t.setLatch n v).running = t.running := rfl
@[simp] theorem Stream.setLatch_pc (t : Stream) (n : Nat) (v : Word) : (t.setLatch n v).pc = t.pc := rfl
@[simp] theorem Stream.setLatch_g (t : Stream) (n : Nat) (v : Word) : (t.setLatch n v).g = t.g := rfl
@[simp] theorem Stream.setLatch_o (t : Stream) (n : Nat) (v : Word) : (t.setLatch n v).o = t.o := rfl
@[simp] theorem Stream.setLatch_region (t : Stream) (n : Nat) (v : Word) : (t.setLatch n v).region = t.region := rfl
@[simp] theorem Stream.setLatch_ranged (t : Stream) (n : Nat) (v : Word) : (t.setLatch n v).ranged = t.ranged := rfl
@[simp] theorem Stream.setLatch_fenced (t : Stream) (n : Nat) (v : Word) : (t.setLatch n v).fenced = t.fenced := rfl
@[simp] theorem Stream.setLatch_ending (t : Stream) (n : Nat) (v : Word) : (t.setLatch n v).ending = t.ending := rfl
@[simp] theorem Stream.setLatch_acc (t : Stream) (n : Nat) (v : Word) : (t.setLatch n v).acc = t.acc := rfl
@[simp] theorem Stream.setLatch_fetched (t : Stream) (n : Nat) (v : Word) : (t.setLatch n v).fetched = t.fetched := rfl
@[simp] theorem Stream.setLatch_entering (t : Stream) (n : Nat) (v : Word) : (t.setLatch n v).entering = t.entering := rfl
@[simp] theorem Stream.setLatch_syncAt (t : Stream) (n : Nat) (v : Word) : (t.setLatch n v).syncAt = t.syncAt := rfl
@[simp] theorem Stream.setLatch_struck (t : Stream) (n : Nat) (v : Word) : (t.setLatch n v).struck = t.struck := rfl
@[simp] theorem Stream.latch_setLatch_self (t : Stream) (n : Nat) (v : Word) : (t.setLatch n v).latch n = v := by simp [Stream.latch, Stream.setLatch]
theorem Stream.latch_setLatch_ne (t : Stream) {n k : Nat} (v : Word) (h : k ≠ n) : (t.setLatch n v).latch k = t.latch k :=
  FMap.get_put_ne t.x v _ _ h
@[simp] theorem Stream.reg_setLatch (t : Stream) (n k : Nat) (v : Word) : (t.setLatch n v).reg k = t.reg k := rfl
@[simp] theorem Stream.opReg_setLatch (t : Stream) (n k : Nat) (v : Word) : (t.setLatch n v).opReg k = t.opReg k := rfl
@[simp] theorem Core.queue_setQueue_self (c : Core) (n : Nat) (l : List Word) : (c.setQueue n l).queue n = l := by simp [Core.queue, Core.setQueue]
theorem Core.queue_setQueue_ne (c : Core) {n k : Nat} (l : List Word) (h : k ≠ n) : (c.setQueue n l).queue k = c.queue k :=
  FMap.get_put_ne c.queues l _ _ h
@[simp] theorem Core.setQueue_fore (c : Core) (n : Nat) (l : List Word) : (c.setQueue n l).fore = c.fore := rfl
@[simp] theorem Core.setQueue_hind (c : Core) (n : Nat) (l : List Word) : (c.setQueue n l).hind = c.hind := rfl
@[simp] theorem Core.setQueue_genFore (c : Core) (n : Nat) (l : List Word) : (c.setQueue n l).genFore = c.genFore := rfl
@[simp] theorem Core.setQueue_genHind (c : Core) (n : Nat) (l : List Word) : (c.setQueue n l).genHind = c.genHind := rfl
@[simp] theorem Core.setQueue_lanes (c : Core) (n : Nat) (l : List Word) : (c.setQueue n l).lanes = c.lanes := rfl
@[simp] theorem Core.setQueue_rows (c : Core) (n : Nat) (l : List Word) : (c.setQueue n l).rows = c.rows := rfl
@[simp] theorem Core.setQueue_starts (c : Core) (n : Nat) (l : List Word) : (c.setQueue n l).starts = c.starts := rfl
@[simp] theorem Core.setQueue_home (c : Core) (n : Nat) (l : List Word) : (c.setQueue n l).home = c.home := rfl
@[simp] theorem Core.setQueue_twinFailed (c : Core) (n : Nat) (l : List Word) : (c.setQueue n l).twinFailed = c.twinFailed := rfl
@[simp] theorem Core.setQueue_presented (c : Core) (n : Nat) (l : List Word) : (c.setQueue n l).presented = c.presented := rfl
@[simp] theorem Core.setQueue_dying (c : Core) (n : Nat) (l : List Word) : (c.setQueue n l).dying = c.dying := rfl
@[simp] theorem Core.setQueue_rowPoison (c : Core) (n : Nat) (l : List Word) : (c.setQueue n l).rowPoison = c.rowPoison := rfl
@[simp] theorem Core.setQueue_tiles (c : Core) (n : Nat) (l : List Word) : (c.setQueue n l).tiles = c.tiles := rfl
@[simp] theorem Core.setQueue_tilePoison (c : Core) (n : Nat) (l : List Word) : (c.setQueue n l).tilePoison = c.tilePoison := rfl
@[simp] theorem Core.setQueue_exps (c : Core) (n : Nat) (l : List Word) : (c.setQueue n l).exps = c.exps := rfl
@[simp] theorem Core.setQueue_mxu (c : Core) (n : Nat) (l : List Word) : (c.setQueue n l).mxu = c.mxu := rfl
@[simp] theorem Core.setQueue_vecBusy (c : Core) (n : Nat) (l : List Word) : (c.setQueue n l).vecBusy = c.vecBusy := rfl
@[simp] theorem Core.setQueue_sp (c : Core) (n : Nat) (l : List Word) : (c.setQueue n l).sp = c.sp := rfl
@[simp] theorem Core.setQueue_spFull (c : Core) (n : Nat) (l : List Word) : (c.setQueue n l).spFull = c.spFull := rfl
@[simp] theorem Core.setQueue_spPoison (c : Core) (n : Nat) (l : List Word) : (c.setQueue n l).spPoison = c.spPoison := rfl
@[simp] theorem Core.setQueue_spGone (c : Core) (n : Nat) (l : List Word) : (c.setQueue n l).spGone = c.spGone := rfl
@[simp] theorem Core.setQueue_spTag (c : Core) (n : Nat) (l : List Word) : (c.setQueue n l).spTag = c.spTag := rfl
@[simp] theorem Core.setQueue_journal (c : Core) (n : Nat) (l : List Word) : (c.setQueue n l).journal = c.journal := rfl
@[simp] theorem Core.setQueue_handlers (c : Core) (n : Nat) (l : List Word) : (c.setQueue n l).handlers = c.handlers := rfl
@[simp] theorem Core.setQueue_cr (c : Core) (n : Nat) (l : List Word) : (c.setQueue n l).cr = c.cr := rfl
@[simp] theorem Core.setQueue_dq (c : Core) (n : Nat) (l : List Word) : (c.setQueue n l).dq = c.dq := rfl
@[simp] theorem Core.setQueue_sendq (c : Core) (n : Nat) (l : List Word) : (c.setQueue n l).sendq = c.sendq := rfl
@[simp] theorem Core.setQueue_tokens (c : Core) (n : Nat) (l : List Word) : (c.setQueue n l).tokens = c.tokens := rfl
@[simp] theorem Core.setQueue_mail (c : Core) (n : Nat) (l : List Word) : (c.setQueue n l).mail = c.mail := rfl
@[simp] theorem Core.setQueue_deque (c : Core) (n : Nat) (l : List Word) : (c.setQueue n l).deque = c.deque := rfl
@[simp] theorem Core.setQueue_lfsr (c : Core) (n : Nat) (l : List Word) : (c.setQueue n l).lfsr = c.lfsr := rfl
@[simp] theorem Core.setQueue_steal (c : Core) (n : Nat) (l : List Word) : (c.setQueue n l).steal = c.steal := rfl
@[simp] theorem Core.setQueue_xcount (c : Core) (n : Nat) (l : List Word) : (c.setQueue n l).xcount = c.xcount := rfl
@[simp] theorem Core.setQueue_xterm (c : Core) (n : Nat) (l : List Word) : (c.setQueue n l).xterm = c.xterm := rfl
@[simp] theorem Core.setQueue_fifo (c : Core) (n : Nat) (l : List Word) : (c.setQueue n l).fifo = c.fifo := rfl
@[simp] theorem Core.setQueue_nbq (c : Core) (n : Nat) (l : List Word) : (c.setQueue n l).nbq = c.nbq := rfl
@[simp] theorem Core.setQueue_portq (c : Core) (n : Nat) (l : List Word) : (c.setQueue n l).portq = c.portq := rfl
@[simp] theorem Core.setQueue_tlb (c : Core) (n : Nat) (l : List Word) : (c.setQueue n l).tlb = c.tlb := rfl
@[simp] theorem Core.setQueue_walkFail (c : Core) (n : Nat) (l : List Word) : (c.setQueue n l).walkFail = c.walkFail := rfl
@[simp] theorem Core.setQueue_round (c : Core) (n : Nat) (l : List Word) : (c.setQueue n l).round = c.round := rfl
@[simp] theorem Core.setQueue_sentTo (c : Core) (n : Nat) (l : List Word) : (c.setQueue n l).sentTo = c.sentTo := rfl
@[simp] theorem Core.setQueue_counted (c : Core) (n : Nat) (l : List Word) : (c.setQueue n l).counted = c.counted := rfl
@[simp] theorem Core.setQueue_queries (c : Core) (n : Nat) (l : List Word) : (c.setQueue n l).queries = c.queries := rfl
@[simp] theorem Core.setQueue_act (c : Core) (n : Nat) (l : List Word) : (c.setQueue n l).act = c.act := rfl
@[simp] theorem Core.setQueue_susp (c : Core) (n : Nat) (l : List Word) : (c.setQueue n l).susp = c.susp := rfl
@[simp] theorem Core.setQueue_stopped (c : Core) (n : Nat) (l : List Word) : (c.setQueue n l).stopped = c.stopped := rfl
@[simp] theorem Core.setQueue_redeliver (c : Core) (n : Nat) (l : List Word) : (c.setQueue n l).redeliver = c.redeliver := rfl
@[simp] theorem Core.setQueue_sent (c : Core) (n : Nat) (l : List Word) : (c.setQueue n l).sent = c.sent := rfl
@[simp] theorem Core.setQueue_recv (c : Core) (n : Nat) (l : List Word) : (c.setQueue n l).recv = c.recv := rfl
@[simp] theorem Core.setQueue_idleSince (c : Core) (n : Nat) (l : List Word) : (c.setQueue n l).idleSince = c.idleSince := rfl
@[simp] theorem Core.setQueue_pool (c : Core) (n : Nat) (l : List Word) : (c.setQueue n l).pool = c.pool := rfl
@[simp] theorem Core.setQueue_poolSince (c : Core) (n : Nat) (l : List Word) : (c.setQueue n l).poolSince = c.poolSince := rfl
@[simp] theorem Core.setQueue_homeId (c : Core) (n : Nat) (l : List Word) : (c.setQueue n l).homeId = c.homeId := rfl

/-! ## The whole state -/

@[simp] theorem State.setDev_pair (s : State) (d : Device) : (s.setDev d).pair = s.pair := rfl
@[simp] theorem State.setDev_issue (s : State) (d : Device) : (s.setDev d).issue = s.issue := rfl
@[simp] theorem State.setDev_agenda (s : State) (d : Device) : (s.setDev d).agenda = s.agenda := rfl
@[simp] theorem State.setDev_blocked (s : State) (d : Device) : (s.setDev d).blocked = s.blocked := rfl
@[simp] theorem State.setDev_took (s : State) (d : Device) : (s.setDev d).took = s.took := rfl
@[simp] theorem State.modCore_pair (s : State) (f : Core → Core) : (s.modCore f).pair = s.pair := rfl
@[simp] theorem State.modCore_issue (s : State) (f : Core → Core) : (s.modCore f).issue = s.issue := rfl
@[simp] theorem State.modCore_agenda (s : State) (f : Core → Core) : (s.modCore f).agenda = s.agenda := rfl
@[simp] theorem State.modCore_blocked (s : State) (f : Core → Core) : (s.modCore f).blocked = s.blocked := rfl
@[simp] theorem State.modCore_took (s : State) (f : Core → Core) : (s.modCore f).took = s.took := rfl
@[simp] theorem State.modStream_pair (s : State) (f : Stream → Stream) : (s.modStream f).pair = s.pair := rfl
@[simp] theorem State.modStream_issue (s : State) (f : Stream → Stream) : (s.modStream f).issue = s.issue := rfl
@[simp] theorem State.modStream_agenda (s : State) (f : Stream → Stream) : (s.modStream f).agenda = s.agenda := rfl
@[simp] theorem State.modStream_blocked (s : State) (f : Stream → Stream) : (s.modStream f).blocked = s.blocked := rfl
@[simp] theorem State.modStream_took (s : State) (f : Stream → Stream) : (s.modStream f).took = s.took := rfl
@[simp] theorem State.latched_pair (s : State) (v : Word) : (s.latched v).pair = s.pair := rfl
@[simp] theorem State.latched_issue (s : State) (v : Word) : (s.latched v).issue = s.issue := rfl
@[simp] theorem State.latched_agenda (s : State) (v : Word) : (s.latched v).agenda = s.agenda := rfl
@[simp] theorem State.latched_blocked (s : State) (v : Word) : (s.latched v).blocked = s.blocked := rfl
@[simp] theorem State.latched_took (s : State) (v : Word) : (s.latched v).took = s.took := rfl
@[simp] theorem State.putG_pair (s : State) (n : Nat) (v : Word) : (s.putG n v).pair = s.pair := rfl
@[simp] theorem State.putG_issue (s : State) (n : Nat) (v : Word) : (s.putG n v).issue = s.issue := rfl
@[simp] theorem State.putG_agenda (s : State) (n : Nat) (v : Word) : (s.putG n v).agenda = s.agenda := rfl
@[simp] theorem State.putG_blocked (s : State) (n : Nat) (v : Word) : (s.putG n v).blocked = s.blocked := rfl
@[simp] theorem State.putG_took (s : State) (n : Nat) (v : Word) : (s.putG n v).took = s.took := rfl
@[simp] theorem State.raise_pair (s : State) (f : Flags) : (s.raise f).pair = s.pair := rfl
@[simp] theorem State.raise_agenda (s : State) (f : Flags) : (s.raise f).agenda = s.agenda := rfl
@[simp] theorem State.raise_blocked (s : State) (f : Flags) : (s.raise f).blocked = s.blocked := rfl
@[simp] theorem State.raise_took (s : State) (f : Flags) : (s.raise f).took = s.took := rfl
@[simp] theorem State.setDev_dev (s : State) (d : Device) : (s.setDev d).dev = d := rfl
@[simp] theorem State.modCore_core (s : State) (f : Core → Core) : (s.modCore f).core = f s.core := Device.core_modCore_self _ _ _
theorem State.modCore_otherCore (s : State) (f : Core → Core) {id : Nat} (h : id ≠ s.issue.core) : (s.modCore f).dev.core id = s.dev.core id :=
  Device.core_modCore_ne _ _ h
@[simp] theorem State.modStream_stream (s : State) (f : Stream → Stream) : (s.modStream f).stream = f s.stream := by
  show ((s.dev.modCore s.issue.core _).core s.issue.core).stream s.issue.hind = _
  rw [Device.core_modCore_self, Core.stream_modStream_self]
@[simp] theorem State.modStream_otherStream (s : State) (f : Stream → Stream) : (s.modStream f).core.stream (!s.issue.hind) = s.core.stream (!s.issue.hind) := by
  show ((s.dev.modCore s.issue.core _).core s.issue.core).stream (!s.issue.hind) = _
  rw [Device.core_modCore_self, Core.stream_modStream_other]
theorem State.modStream_otherCore (s : State) (f : Stream → Stream) {id : Nat} (h : id ≠ s.issue.core) : (s.modStream f).dev.core id = s.dev.core id :=
  Device.core_modCore_ne _ _ h
@[simp] theorem State.modCore_dev_cycle (s : State) (f : Core → Core) : (s.modCore f).dev.cycle = s.dev.cycle := rfl
@[simp] theorem State.modStream_dev_cycle (s : State) (f : Stream → Stream) : (s.modStream f).dev.cycle = s.dev.cycle := rfl
@[simp] theorem State.modCore_dev_tick (s : State) (f : Core → Core) : (s.modCore f).dev.tick = s.dev.tick := rfl
@[simp] theorem State.modStream_dev_tick (s : State) (f : Stream → Stream) : (s.modStream f).dev.tick = s.dev.tick := rfl
@[simp] theorem State.modCore_dev_mem (s : State) (f : Core → Core) : (s.modCore f).dev.mem = s.dev.mem := rfl
@[simp] theorem State.modStream_dev_mem (s : State) (f : Stream → Stream) : (s.modStream f).dev.mem = s.dev.mem := rfl
@[simp] theorem State.modCore_dev_memPoison (s : State) (f : Core → Core) : (s.modCore f).dev.memPoison = s.dev.memPoison := rfl
@[simp] theorem State.modStream_dev_memPoison (s : State) (f : Stream → Stream) : (s.modStream f).dev.memPoison = s.dev.memPoison := rfl
@[simp] theorem State.modCore_dev_caches (s : State) (f : Core → Core) : (s.modCore f).dev.caches = s.dev.caches := rfl
@[simp] theorem State.modStream_dev_caches (s : State) (f : Stream → Stream) : (s.modStream f).dev.caches = s.dev.caches := rfl
@[simp] theorem State.modCore_dev_scopes (s : State) (f : Core → Core) : (s.modCore f).dev.scopes = s.dev.scopes := rfl
@[simp] theorem State.modStream_dev_scopes (s : State) (f : Stream → Stream) : (s.modStream f).dev.scopes = s.dev.scopes := rfl
@[simp] theorem State.modCore_dev_versions (s : State) (f : Core → Core) : (s.modCore f).dev.versions = s.dev.versions := rfl
@[simp] theorem State.modStream_dev_versions (s : State) (f : Stream → Stream) : (s.modStream f).dev.versions = s.dev.versions := rfl
@[simp] theorem State.modCore_dev_locks (s : State) (f : Core → Core) : (s.modCore f).dev.locks = s.dev.locks := rfl
@[simp] theorem State.modStream_dev_locks (s : State) (f : Stream → Stream) : (s.modStream f).dev.locks = s.dev.locks := rfl
@[simp] theorem State.modCore_dev_objs (s : State) (f : Core → Core) : (s.modCore f).dev.objs = s.dev.objs := rfl
@[simp] theorem State.modStream_dev_objs (s : State) (f : Stream → Stream) : (s.modStream f).dev.objs = s.dev.objs := rfl
@[simp] theorem State.modCore_dev_banks (s : State) (f : Core → Core) : (s.modCore f).dev.banks = s.dev.banks := rfl
@[simp] theorem State.modStream_dev_banks (s : State) (f : Stream → Stream) : (s.modStream f).dev.banks = s.dev.banks := rfl
@[simp] theorem State.modCore_dev_bankq (s : State) (f : Core → Core) : (s.modCore f).dev.bankq = s.dev.bankq := rfl
@[simp] theorem State.modStream_dev_bankq (s : State) (f : Stream → Stream) : (s.modStream f).dev.bankq = s.dev.bankq := rfl
@[simp] theorem State.modCore_dev_slots (s : State) (f : Core → Core) : (s.modCore f).dev.slots = s.dev.slots := rfl
@[simp] theorem State.modStream_dev_slots (s : State) (f : Stream → Stream) : (s.modStream f).dev.slots = s.dev.slots := rfl
@[simp] theorem State.modCore_dev_claimq (s : State) (f : Core → Core) : (s.modCore f).dev.claimq = s.dev.claimq := rfl
@[simp] theorem State.modStream_dev_claimq (s : State) (f : Stream → Stream) : (s.modStream f).dev.claimq = s.dev.claimq := rfl
@[simp] theorem State.modCore_dev_claimRecv (s : State) (f : Core → Core) : (s.modCore f).dev.claimRecv = s.dev.claimRecv := rfl
@[simp] theorem State.modStream_dev_claimRecv (s : State) (f : Stream → Stream) : (s.modStream f).dev.claimRecv = s.dev.claimRecv := rfl
@[simp] theorem State.modCore_dev_drains (s : State) (f : Core → Core) : (s.modCore f).dev.drains = s.dev.drains := rfl
@[simp] theorem State.modStream_dev_drains (s : State) (f : Stream → Stream) : (s.modStream f).dev.drains = s.dev.drains := rfl
@[simp] theorem State.modCore_dev_poolActive (s : State) (f : Core → Core) : (s.modCore f).dev.poolActive = s.dev.poolActive := rfl
@[simp] theorem State.modStream_dev_poolActive (s : State) (f : Stream → Stream) : (s.modStream f).dev.poolActive = s.dev.poolActive := rfl
@[simp] theorem State.modCore_dev_walks (s : State) (f : Core → Core) : (s.modCore f).dev.walks = s.dev.walks := rfl
@[simp] theorem State.modStream_dev_walks (s : State) (f : Stream → Stream) : (s.modStream f).dev.walks = s.dev.walks := rfl
@[simp] theorem State.modCore_dev_jobs (s : State) (f : Core → Core) : (s.modCore f).dev.jobs = s.dev.jobs := rfl
@[simp] theorem State.modStream_dev_jobs (s : State) (f : Stream → Stream) : (s.modStream f).dev.jobs = s.dev.jobs := rfl
@[simp] theorem State.modCore_dev_flights (s : State) (f : Core → Core) : (s.modCore f).dev.flights = s.dev.flights := rfl
@[simp] theorem State.modStream_dev_flights (s : State) (f : Stream → Stream) : (s.modStream f).dev.flights = s.dev.flights := rfl
@[simp] theorem State.modCore_dev_linkFlights (s : State) (f : Core → Core) : (s.modCore f).dev.linkFlights = s.dev.linkFlights := rfl
@[simp] theorem State.modStream_dev_linkFlights (s : State) (f : Stream → Stream) : (s.modStream f).dev.linkFlights = s.dev.linkFlights := rfl
@[simp] theorem State.modCore_dev_passedOn (s : State) (f : Core → Core) : (s.modCore f).dev.passedOn = s.dev.passedOn := rfl
@[simp] theorem State.modStream_dev_passedOn (s : State) (f : Stream → Stream) : (s.modStream f).dev.passedOn = s.dev.passedOn := rfl
@[simp] theorem State.modCore_dev_linkUse (s : State) (f : Core → Core) : (s.modCore f).dev.linkUse = s.dev.linkUse := rfl
@[simp] theorem State.modStream_dev_linkUse (s : State) (f : Stream → Stream) : (s.modStream f).dev.linkUse = s.dev.linkUse := rfl
@[simp] theorem State.modCore_dev_acks (s : State) (f : Core → Core) : (s.modCore f).dev.acks = s.dev.acks := rfl
@[simp] theorem State.modStream_dev_acks (s : State) (f : Stream → Stream) : (s.modStream f).dev.acks = s.dev.acks := rfl
@[simp] theorem State.modCore_dev_dieParts (s : State) (f : Core → Core) : (s.modCore f).dev.dieParts = s.dev.dieParts := rfl
@[simp] theorem State.modStream_dev_dieParts (s : State) (f : Stream → Stream) : (s.modStream f).dev.dieParts = s.dev.dieParts := rfl
@[simp] theorem State.modCore_dev_dieEpoch (s : State) (f : Core → Core) : (s.modCore f).dev.dieEpoch = s.dev.dieEpoch := rfl
@[simp] theorem State.modStream_dev_dieEpoch (s : State) (f : Stream → Stream) : (s.modStream f).dev.dieEpoch = s.dev.dieEpoch := rfl
@[simp] theorem State.modCore_dev_parts (s : State) (f : Core → Core) : (s.modCore f).dev.parts = s.dev.parts := rfl
@[simp] theorem State.modStream_dev_parts (s : State) (f : Stream → Stream) : (s.modStream f).dev.parts = s.dev.parts := rfl
@[simp] theorem State.modCore_dev_launches (s : State) (f : Core → Core) : (s.modCore f).dev.launches = s.dev.launches := rfl
@[simp] theorem State.modStream_dev_launches (s : State) (f : Stream → Stream) : (s.modStream f).dev.launches = s.dev.launches := rfl
@[simp] theorem State.modCore_dev_regs (s : State) (f : Core → Core) : (s.modCore f).dev.regs = s.dev.regs := rfl
@[simp] theorem State.modStream_dev_regs (s : State) (f : Stream → Stream) : (s.modStream f).dev.regs = s.dev.regs := rfl
@[simp] theorem State.modCore_dev_ert (s : State) (f : Core → Core) : (s.modCore f).dev.ert = s.dev.ert := rfl
@[simp] theorem State.modStream_dev_ert (s : State) (f : Stream → Stream) : (s.modStream f).dev.ert = s.dev.ert := rfl
@[simp] theorem State.modCore_dev_pkgNum (s : State) (f : Core → Core) : (s.modCore f).dev.pkgNum = s.dev.pkgNum := rfl
@[simp] theorem State.modStream_dev_pkgNum (s : State) (f : Stream → Stream) : (s.modStream f).dev.pkgNum = s.dev.pkgNum := rfl
@[simp] theorem State.modCore_dev_links (s : State) (f : Core → Core) : (s.modCore f).dev.links = s.dev.links := rfl
@[simp] theorem State.modStream_dev_links (s : State) (f : Stream → Stream) : (s.modStream f).dev.links = s.dev.links := rfl
@[simp] theorem State.modCore_dev_nextSeq (s : State) (f : Core → Core) : (s.modCore f).dev.nextSeq = s.dev.nextSeq := rfl
@[simp] theorem State.modStream_dev_nextSeq (s : State) (f : Stream → Stream) : (s.modStream f).dev.nextSeq = s.dev.nextSeq := rfl
@[simp] theorem State.modCore_dev_heldPackets (s : State) (f : Core → Core) : (s.modCore f).dev.heldPackets = s.dev.heldPackets := rfl
@[simp] theorem State.modStream_dev_heldPackets (s : State) (f : Stream → Stream) : (s.modStream f).dev.heldPackets = s.dev.heldPackets := rfl
@[simp] theorem State.modCore_dev_fabSeq (s : State) (f : Core → Core) : (s.modCore f).dev.fabSeq = s.dev.fabSeq := rfl
@[simp] theorem State.modStream_dev_fabSeq (s : State) (f : Stream → Stream) : (s.modStream f).dev.fabSeq = s.dev.fabSeq := rfl
@[simp] theorem State.modCore_dev_heldFab (s : State) (f : Core → Core) : (s.modCore f).dev.heldFab = s.dev.heldFab := rfl
@[simp] theorem State.modStream_dev_heldFab (s : State) (f : Stream → Stream) : (s.modStream f).dev.heldFab = s.dev.heldFab := rfl
@[simp] theorem State.modCore_dev_moved (s : State) (f : Core → Core) : (s.modCore f).dev.moved = s.dev.moved := rfl
@[simp] theorem State.modStream_dev_moved (s : State) (f : Stream → Stream) : (s.modStream f).dev.moved = s.dev.moved := rfl
@[simp] theorem State.modCore_dev_shadow (s : State) (f : Core → Core) : (s.modCore f).dev.shadow = s.dev.shadow := rfl
@[simp] theorem State.modStream_dev_shadow (s : State) (f : Stream → Stream) : (s.modStream f).dev.shadow = s.dev.shadow := rfl
@[simp] theorem State.modCore_dev_twins (s : State) (f : Core → Core) : (s.modCore f).dev.twins = s.dev.twins := rfl
@[simp] theorem State.modStream_dev_twins (s : State) (f : Stream → Stream) : (s.modStream f).dev.twins = s.dev.twins := rfl
@[simp] theorem State.modCore_dev_boot (s : State) (f : Core → Core) : (s.modCore f).dev.boot = s.dev.boot := rfl
@[simp] theorem State.modStream_dev_boot (s : State) (f : Stream → Stream) : (s.modStream f).dev.boot = s.dev.boot := rfl
@[simp] theorem State.modCore_dev_mlog (s : State) (f : Core → Core) : (s.modCore f).dev.mlog = s.dev.mlog := rfl
@[simp] theorem State.modStream_dev_mlog (s : State) (f : Stream → Stream) : (s.modStream f).dev.mlog = s.dev.mlog := rfl
@[simp] theorem State.modCore_dev_secVer (s : State) (f : Core → Core) : (s.modCore f).dev.secVer = s.dev.secVer := rfl
@[simp] theorem State.modStream_dev_secVer (s : State) (f : Stream → Stream) : (s.modStream f).dev.secVer = s.dev.secVer := rfl
@[simp] theorem State.modCore_dev_quotes (s : State) (f : Core → Core) : (s.modCore f).dev.quotes = s.dev.quotes := rfl
@[simp] theorem State.modStream_dev_quotes (s : State) (f : Stream → Stream) : (s.modStream f).dev.quotes = s.dev.quotes := rfl
@[simp] theorem State.modCore_dev_appIrqs (s : State) (f : Core → Core) : (s.modCore f).dev.appIrqs = s.dev.appIrqs := rfl
@[simp] theorem State.modStream_dev_appIrqs (s : State) (f : Stream → Stream) : (s.modStream f).dev.appIrqs = s.dev.appIrqs := rfl
@[simp] theorem State.modCore_dev_dmaReply (s : State) (f : Core → Core) : (s.modCore f).dev.dmaReply = s.dev.dmaReply := rfl
@[simp] theorem State.modStream_dev_dmaReply (s : State) (f : Stream → Stream) : (s.modStream f).dev.dmaReply = s.dev.dmaReply := rfl
@[simp] theorem State.begin_blocked (s : State) : s.begin.blocked = false := by unfold State.begin; dsimp only; split <;> rfl
@[simp] theorem State.begin_took (s : State) : s.begin.took = none := by unfold State.begin; dsimp only; split <;> rfl
@[simp] theorem State.begin_pair (s : State) : s.begin.pair = s.pair := by unfold State.begin; dsimp only; split <;> rfl
@[simp] theorem State.begin_issue (s : State) : s.begin.issue = s.issue := by unfold State.begin; dsimp only; split <;> rfl
@[simp] theorem State.begin_agenda (s : State) : s.begin.agenda = s.agenda := by unfold State.begin; dsimp only; split <;> rfl
@[simp] theorem State.begin_mem (s : State) : s.begin.dev.mem = s.dev.mem := by unfold State.begin; dsimp only; split <;> rfl

end Sys2Proof.Machine
end

