-- ==== Sys2Proof/Laws/Run.lean ====
section
/-!
SUPPORT. How a meaning runs: a computation step by step, its end, a wait and a trap; and the shared shapes of classes 0
and 4.
-/

namespace Sys2Proof.Machine

variable {α β : Type}

/-! ## Computations -/

@[simp] theorem pure_run (a : α) (s : State) : (pure a : Exec α) s = .ok (a, s) := rfl
@[simp] theorem get_run (s : State) : (get : Exec State) s = .ok (s, s) := rfl
@[simp] theorem set_run (t s : State) : (set t : Exec PUnit) s = .ok (⟨⟩, t) := rfl
@[simp] theorem modify_run (f : State → State) (s : State) : (modify f : Exec PUnit) s = .ok (⟨⟩, f s) := rfl
@[simp] theorem throw_run (e : Stop) (s : State) : (throw e : Exec α) s = .error e := rfl
@[simp] theorem block_run (s : State) : (block : Exec α) s = .error .block := rfl
@[simp] theorem waitFor_run (f : Device → Device) (s : State) : (waitFor f : Exec α) s = .error (.wait f) := rfl
@[simp] theorem trap_run (c : Cause) (v : DWord) (s : State) : (trap c v : Exec α) s = .error (.trap c v) := rfl
@[simp] theorem trap0_run (c : Cause) (s : State) : (trap0 c : Exec α) s = .error (.trap c 0) := rfl
@[simp] theorem trapW_run (c : Cause) (v : Word) (s : State) : (trapW c v : Exec α) s = .error (.trap c (v.setWidth 64)) := rfl
@[simp] theorem trapN_run (c : Cause) (v : Nat) (s : State) : (trapN c v : Exec α) s = .error (.trap c (BitVec.ofNat 64 v)) := rfl
@[simp] theorem trapSlot_run (c : Cause) (s : State) : (trapSlot c : Exec α) s = .error (.trap c s.issue.slotPc) := rfl
@[simp] theorem modCore_run (f : Core → Core) (s : State) : modCore f s = .ok ((), s.modCore f) := rfl
@[simp] theorem modStream_run (f : Stream → Stream) (s : State) : modStream f s = .ok ((), s.modStream f) := rfl
@[simp] theorem modDev_run (f : Device → Device) (s : State) : modDev f s = .ok ((), s.setDev (f s.dev)) := rfl
@[simp] theorem raise_run (f : Flags) (s : State) : raise f s = .ok ((), s.raise f) := rfl
@[simp] theorem writeLatch_run (v : Word) (s : State) : writeLatch v s = .ok ((), s.latched v) := rfl
@[simp] theorem writeG_run (n : Nat) (v : Word) (s : State) : writeG n v s = .ok ((), s.putG n v) := rfl

/-- A computation that goes on. -/
theorem bind_ok {m : Exec α} {f : α → Exec β} {s t : State} {a : α} (h : m s = .ok (a, t)) : (m >>= f) s = f a t := by
  simp [bind, StateT.bind, Except.bind, h]

/-- A computation that stops. -/
theorem bind_error {m : Exec α} {f : α → Exec β} {s : State} {e : Stop} (h : m s = .error e) : (m >>= f) s = .error e := by
  simp [bind, StateT.bind, Except.bind, h]

/-- What a computation of two parts that goes on has gone through. -/
theorem of_bind_ok {m : Exec α} {f : α → Exec β} {s u : State} {b : β} (h : (m >>= f) s = .ok (b, u)) :
    ∃ a t, m s = .ok (a, t) ∧ f a t = .ok (b, u) := by
  cases hm : m s with
  | error e => rw [bind_error hm] at h; cases h
  | ok p => exact ⟨p.1, p.2, rfl, by rw [bind_ok hm] at h; exact h⟩

/-! ## The end of a meaning -/

theorem run_ok {m : Exec Unit} {s t : State} (h : m s.begin = .ok ((), t)) : run m s = .next t := by
  simp [run, h, State.finish]
theorem run_block {m : Exec Unit} {s : State} (h : m s.begin = .error .block) : run m s = .next (s.waitWith id) := by
  simp [run, h, State.finish]
theorem run_wait {m : Exec Unit} {s : State} {f : Device → Device} (h : m s.begin = .error (.wait f)) :
    run m s = .next (s.waitWith f) := by
  simp [run, h, State.finish]
theorem run_trapAfter {m : Exec Unit} {s : State} {f : Device → Device} {c : Cause} {v : DWord}
    (h : m s.begin = .error (.trapAfter f c v)) : run m s = .next (s.takeTrapAfter f c s.issue.pc v) := by
  simp [run, h, State.finish]
theorem run_trap {m : Exec Unit} {s : State} {c : Cause} {v : DWord} (h : m s.begin = .error (.trap c v)) :
    run m s = .next (s.takeTrap c s.issue.pc v) := by
  simp [run, h, State.finish]

/-- What a meaning gives, in one of five ways. -/
theorem run_cases {m : Exec Unit} {s t : State} (h : run m s = .next t) :
    m s.begin = .ok ((), t) ∨ (m s.begin = .error .block ∧ t = s.waitWith id) ∨
    (∃ f, m s.begin = .error (.wait f) ∧ t = s.waitWith f) ∨
    (∃ f c v, m s.begin = .error (.trapAfter f c v) ∧ t = s.takeTrapAfter f c s.issue.pc v) ∨
    ∃ c v, m s.begin = .error (.trap c v) ∧ t = s.takeTrap c s.issue.pc v := by
  unfold run at h
  cases hm : m s.begin with
  | ok p => rw [hm] at h; cases h; exact .inl rfl
  | error e =>
    rw [hm] at h
    cases e with
    | block => cases h; exact .inr (.inl ⟨rfl, rfl⟩)
    | wait f => cases h; exact .inr (.inr (.inl ⟨f, rfl, rfl⟩))
    | trapAfter f c v => cases h; exact .inr (.inr (.inr (.inl ⟨f, c, v, rfl, rfl⟩)))
    | trap c v => cases h; exact .inr (.inr (.inr (.inr ⟨c, v, rfl, rfl⟩)))

/-- A meaning that completes has run to its end. -/
theorem run_completes {m : Exec Unit} {s t : State} (h : run m s = .next t) (ht : t.took = none) (hb : t.blocked = false) :
    m s.begin = .ok ((), t) := by
  rcases run_cases h with h | ⟨-, rfl⟩ | ⟨f, -, rfl⟩ | ⟨f, c, v, -, rfl⟩ | ⟨c, v, -, rfl⟩
  · exact h
  · cases hb
  · cases hb
  · cases ht
  · cases ht

/-! ## Operands -/

@[simp] theorem readPair_run (p : PairReg) (s : State) : readPair p s = .ok (s.pairOf p, s) := by cases p <;> rfl
@[simp] theorem readPSrc_run (p : PSrc) (s : State) : readPSrc p s = .ok (s.psrcOf p, s) := by
  cases p with
  | reg p => exact readPair_run p s
  | imm v => rfl
@[simp] theorem readG_run (n : Nat) (s : State) : readG n s = .ok (s.baseStream.reg n, s) := rfl
@[simp] theorem writePairReg_run (p : PairReg) (v : DWord) (s : State) : writePairReg p v s = .ok ((), s.putPair p v) := by
  cases p <;> rfl
@[simp] theorem modeOf_run (rm : Option Rm) (s : State) : modeOf rm s = .ok (s.rmOf rm, s) := by cases rm <;> rfl

theorem deliverW_of {d : WDst} {v : Word} {s t : State} (h : Writes d v s t) : deliverW d v s = .ok ((), t.latched v) := by
  unfold deliverW
  rw [bind_ok h]
  rfl

@[simp] theorem deliverD_run (p : PairReg) (v : DWord) (s : State) :
    deliverD p v s = .ok ((), (s.putPair p v).latched (v.extractLsb' 0 32)) := by
  unfold deliverD
  rw [bind_ok (writePairReg_run ..)]
  rfl

theorem deliverF_of {d : WDst} {r : Word × Flags} {s t : State} (h : Writes d r.1 (s.raise r.2) t) :
    deliverF d r s = .ok ((), t.latched r.1) := by
  unfold deliverF
  rw [bind_ok (raise_run ..)]
  exact deliverW_of h

/-! ## Shapes of classes 0 and 4 -/

theorem int3_w {op : Word → Word → Word} {opD : DWord → DWord → DWord} {d : WDst} {a : Src} {b : ISrc} {x y : Word}
    {s s1 s2 s3 : State} (h1 : Reads a s.begin x s1) (h2 : ReadsI b s1 y s2) (h3 : Writes d (op x y) s2 s3) :
    run (int3 op opD (.w d a b)) s = .next (s3.latched (op x y)) := by
  apply run_ok
  unfold int3
  simp only []
  rw [bind_ok h1, bind_ok h2]
  exact deliverW_of h3

theorem int3_d {op : Word → Word → Word} {opD : DWord → DWord → DWord} {d a : PairReg} {b : PSrc} {s : State} :
    run (int3 op opD (.d d a b)) s = .next ((s.begin.putPair d (opD (s.begin.pairOf a) (s.begin.psrcOf b))).latched
      ((opD (s.begin.pairOf a) (s.begin.psrcOf b)).extractLsb' 0 32)) := by
  apply run_ok
  unfold int3
  simp only []
  rw [bind_ok (readPair_run ..), bind_ok (readPSrc_run ..)]
  exact deliverD_run ..

theorem int3W_of {op : Word → Word → Word} {f : Int3W} {x y : Word} {s s1 s2 s3 : State}
    (h1 : Reads f.a s.begin x s1) (h2 : ReadsI f.b s1 y s2) (h3 : Writes f.d (op x y) s2 s3) :
    run (int3W op f) s = .next (s3.latched (op x y)) := by
  apply run_ok
  unfold int3W
  rw [bind_ok h1, bind_ok h2]
  exact deliverW_of h3

theorem int2W_of {op : Word → Word} {f : Int2W} {x : Word} {s s1 s2 : State}
    (h1 : Reads f.a s.begin x s1) (h2 : Writes f.d (op x) s1 s2) : run (int2W op f) s = .next (s2.latched (op x)) := by
  apply run_ok
  unfold int2W
  rw [bind_ok h1]
  exact deliverW_of h2

theorem compare_w {op : Word → Word → Bool} {opD : DWord → DWord → Bool} {d : WDst} {a : Src} {b : ISrc} {x y : Word}
    {s s1 s2 s3 : State} (h1 : Reads a s.begin x s1) (h2 : ReadsI b s1 y s2) (h3 : Writes d (flagWord (op x y)) s2 s3) :
    run (compare op opD (.w d a b)) s = .next (s3.latched (flagWord (op x y))) := by
  apply run_ok
  unfold compare
  simp only []
  rw [bind_ok h1, bind_ok h2]
  exact deliverW_of h3

theorem compare_d {op : Word → Word → Bool} {opD : DWord → DWord → Bool} {d : WDst} {a : PairReg} {b : PSrc} {s t : State}
    (h : Writes d (flagWord (opD (s.begin.pairOf a) (s.begin.psrcOf b))) s.begin t) :
    run (compare op opD (.d d a b)) s = .next (t.latched (flagWord (opD (s.begin.pairOf a) (s.begin.psrcOf b)))) := by
  apply run_ok
  unfold compare
  simp only []
  rw [bind_ok (readPair_run ..), bind_ok (readPSrc_run ..)]
  exact deliverW_of h

/-- Saturation as a bound above and below (R59). -/
theorem satInt_eq (w : Nat) (v : Int) : satInt w v = max (-(2 ^ (w - 1))) (min (2 ^ (w - 1) - 1) v) := by
  unfold satInt
  have h : (1 : Int) ≤ 2 ^ (w - 1) := by exact_mod_cast Nat.one_le_two_pow
  generalize (2 : Int) ^ (w - 1) = p at h ⊢
  split
  · omega
  · split <;> omega

end Sys2Proof.Machine
end

