-- ==== Sys2Proof/Laws/Checks.lean ====
section
/-!
SUPPORT. What the shared checks and operands of meanings can do: when each of them goes on, and with what state.
-/

namespace Sys2Proof.Machine

/-- Two answers without a stop agree. -/
theorem ok_iff {α : Type} {a b : α} {s t : State} : (Except.ok (a, s) : Except Stop (α × State)) = .ok (b, t) ↔ b = a ∧ t = s := by
  constructor
  · intro h; cases h; exact ⟨rfl, rfl⟩
  · rintro ⟨rfl, rfl⟩; rfl

/-! ## Traffic between dies: it notes the links that it uses and counts its messages, and changes nothing else -/

theorem Device.useRoute_only (d : Device) (p : Nat) (r : List Nat) : ∃ l, d.useRoute p r = { d with linkUse := l } := by
  unfold Device.useRoute
  generalize crossings r = qs
  induction qs generalizing d with
  | nil => exact ⟨d.linkUse, rfl⟩
  | cons q qs ih =>
    obtain ⟨l, h⟩ := ih (d.useLink p (.boundary q.1 q.2))
    exact ⟨l, h⟩

theorem Device.useDies_only (d : Device) (p a b : Nat) : ∃ l, d.useDies p a b = { d with linkUse := l } := by
  unfold Device.useDies
  obtain ⟨l, h⟩ := d.useRoute_only p (d.openRoute a b)
  rw [h]
  obtain ⟨m, h⟩ := Device.useRoute_only { d with linkUse := l } p (Device.openRoute { d with linkUse := l } b a)
  exact ⟨m, h⟩

theorem Device.countPacket_only (d : Device) (src dst : Nat) :
    ∃ m n, d.countPacket src dst = { d with sentSeq := m, nextSeq := n } := by
  unfold Device.countPacket
  split
  · exact ⟨d.sentSeq, d.nextSeq, rfl⟩
  · exact ⟨_, _, rfl⟩

theorem Device.countCross_only (d : Device) (die pa : Nat) :
    ∃ l m n, d.countCross die pa = { d with linkUse := l, sentSeq := m, nextSeq := n } := by
  unfold Device.countCross
  split
  · obtain ⟨l, h⟩ := d.useDies_only (d.partOf die) die (homeDie pa)
    rw [h]
    obtain ⟨m, n, h⟩ := Device.countPacket_only { d with linkUse := l } die (homeDie pa)
    rw [h]
    obtain ⟨m', n', h⟩ := Device.countPacket_only { d with linkUse := l, sentSeq := m, nextSeq := n } (homeDie pa) die
    exact ⟨l, m', n', h⟩
  · exact ⟨d.linkUse, d.sentSeq, d.nextSeq, rfl⟩

/-! ## Checks: each goes on under its condition alone, and changes nothing -/

theorem blockUnless_ok {b : Bool} {s t : State} : blockUnless b s = .ok ((), t) ↔ b = true ∧ t = s := by
  cases b <;> simp [blockUnless, @eq_comm _ s t]

theorem aligned_ok {a n : Nat} {v : DWord} {s t : State} : aligned a n v s = .ok ((), t) ↔ a % n = 0 ∧ t = s := by
  unfold aligned
  split <;> simp_all [@eq_comm _ s t]

theorem noRegion_ok {v : DWord} {s t : State} : noRegion v s = .ok ((), t) ↔ s.stream.region.st = .closed ∧ t = s := by
  unfold noRegion
  rw [bind_ok (get_run s)]
  cases s.stream.region.st <;> simp [@eq_comm _ s t]

theorem regionGate_ok {va : DWord} {plain : Bool} {st : RegionSt} {s t : State} : regionGate va plain s = .ok (st, t) ↔
    st = s.stream.region.st ∧ t = s ∧
      (st = .closed ∨ (st = .opened ∨ st = .failed) ∧ plain = true ∧ s.proposalVa va = true) := by
  unfold regionGate
  rw [bind_ok (get_run s)]
  cases s.stream.region.st <;> cases plain <;> cases s.proposalVa va <;> cases st <;> simp [@eq_comm _ s t]

theorem writable_ok {va : DWord} {pa : Nat} {plain : Bool} {s t : State} : writable va pa plain s = .ok ((), t) ↔
    (s.dev.modeAt pa = some 0 → plain = true ∧ s.dev.propAt pa = true) ∧ t = s := by
  unfold writable
  rw [bind_ok (get_run s)]
  by_cases h : s.dev.modeAt pa = some 0 <;> cases plain <;> cases s.dev.propAt pa <;> simp [h, @eq_comm _ s t]

theorem crossOver_ok {pa : Nat} {s t : State} : crossOver pa s = .ok ((), t) ↔
    s.dev.linkIdle (dieOf s.me) pa = true ∧ t = s.setDev (s.dev.countCross (dieOf s.me) pa) := by
  unfold crossOver
  rw [bind_ok (get_run s)]
  cases hl : s.dev.linkIdle (dieOf s.me) pa
  · rw [bind_error (m := blockUnless false) (e := .block) rfl]; simp
  · rw [bind_ok (blockUnless_ok.mpr ⟨rfl, rfl⟩)]
    simp [@eq_comm State _ t]

theorem reach_ok {kind : AccKind} {pa : Nat} {s t : State} : reach kind pa s = .ok ((), t) ↔ s.core.bankIdle s.hind pa = true ∧
    (s.dev.accessCrosses s.me kind pa = true → s.dev.linkIdle (dieOf s.me) pa = true) ∧
      t = if s.dev.accessCrosses s.me kind pa then s.setDev (s.dev.countCross (dieOf s.me) pa) else s := by
  unfold reach
  rw [bind_ok (get_run s)]
  cases hb : s.core.bankIdle s.hind pa
  · rw [bind_error (m := blockUnless false) (e := .block) rfl]; simp
  · rw [bind_ok (blockUnless_ok.mpr ⟨rfl, rfl⟩)]
    cases hc : s.dev.accessCrosses s.me kind pa
    · simp [@eq_comm _ s t]
    · simp [crossOver_ok]

theorem unlocked_ok {pa : Nat} {s t : State} : unlocked pa s = .ok ((), t) ↔ s.dev.locked pa = false ∧ t = s := by
  unfold unlocked
  rw [bind_ok (get_run s)]
  simp [blockUnless_ok]

theorem cleanGlobal_ok {va : DWord} {pa n : Nat} {atHome : Bool} {s t : State} : cleanGlobal va pa n atHome s = .ok ((), t) ↔
    s.dev.loadBad s.me pa n atHome = none ∧ t = s := by
  unfold cleanGlobal
  rw [bind_ok (get_run s)]
  cases s.dev.loadBad s.me pa n atHome
  · simp [@eq_comm _ s t]
  · cases hb : s.core.bankIdle s.hind pa
    · dsimp only
      rw [bind_error (m := blockUnless false) (e := .block) rfl]; simp
    · dsimp only
      rw [bind_ok (blockUnless_ok.mpr ⟨rfl, rfl⟩)]; simp

theorem spBound_ok {off n : Nat} {s t : State} : spBound off n s = .ok ((), t) ↔ off + n ≤ spSize s.me ∧ t = s := by
  unfold spBound
  rw [bind_ok (get_run s)]
  split <;> simp_all [@eq_comm _ s t]

theorem spClean_ok {off n : Nat} {s t : State} : spClean off n s = .ok ((), t) ↔ s.core.ownBad off n = none ∧ t = s := by
  unfold spClean
  rw [bind_ok (get_run s)]
  cases s.core.ownBad off n <;> simp [@eq_comm _ s t]

theorem spNoJournal_ok {off n : Nat} {s t : State} : spNoJournal off n s = .ok ((), t) ↔ s.core.journals off n = false ∧ t = s := by
  unfold spNoJournal
  rw [bind_ok (get_run s)]
  cases s.core.journals off n <;> simp [@eq_comm _ s t]

theorem needPriv_ok {s t : State} : needPriv s = .ok ((), t) ↔ s.baseCore.cr.priv = true ∧ t = s := by
  unfold needPriv
  rw [bind_ok (get_run s)]
  cases s.baseCore.cr.priv <;> simp [@eq_comm _ s t]

theorem checkScope_ok {va : DWord} {pa : Nat} {i : Inst} {closes : Bool} {s t : State} : checkScope va pa i closes s = .ok ((), t) ↔
    ∃ d, s.dev.scopeCheck pa i = some d ∧ t = s.setDev d := by
  unfold checkScope
  rw [bind_ok (get_run s)]
  cases s.dev.scopeCheck pa i <;> simp [@eq_comm _ t]

/-! ## Queue registers -/

theorem popQ_ok {n : Nat} {v : Word} {s t : State} : popQ n s = .ok (v, t) ↔
    s.hind = readerIsHind s.baseCore.cr.qdir n ∧
      ∃ l, s.core.queue n = v :: l ∧ t = s.modCore fun c => c.setQueue n l := by
  unfold popQ
  rw [bind_ok (get_run s)]
  by_cases h : s.hind = readerIsHind s.baseCore.cr.qdir n
  · cases hq : s.core.queue n with
    | nil => simp [h]
    | cons x l =>
      rw [if_neg (by simpa using h)]
      show (set _ >>= fun _ => pure x : Exec Word) s = _ ↔ _
      rw [bind_ok (set_run ..), pure_run, ok_iff]
      constructor
      · rintro ⟨rfl, rfl⟩; exact ⟨h, l, rfl, rfl⟩
      · rintro ⟨-, k, hk, rfl⟩; cases hk; exact ⟨rfl, rfl⟩
  · simp [h]

theorem pushQ_ok {n : Nat} {v : Word} {s t : State} : pushQ n v s = .ok ((), t) ↔
    s.hind ≠ readerIsHind s.baseCore.cr.qdir n ∧ (s.core.queue n).length < 4 ∧
      t = s.modCore fun c => if (s.core.queue n).isEmpty then (c.setQueue n (c.queue n ++ [v])).pulse 3 n
        else c.setQueue n (c.queue n ++ [v]) := by
  unfold pushQ
  rw [bind_ok (get_run s)]
  by_cases h : s.hind = readerIsHind s.baseCore.cr.qdir n
  · simp [h]
  · by_cases hl : 4 ≤ (s.core.queue n).length
    · simp [h, hl]
    · rw [if_neg h, if_neg hl, set_run, ok_iff]
      exact ⟨fun e => ⟨h, by omega, e.2⟩, fun e => ⟨rfl, e.2.2⟩⟩

/-! ## Sources and destinations -/

/-- A read gives the register's value from before the group and changes nothing, or pops a queue register. -/
theorem readSrc_ok {a : Src} {v : Word} {s t : State} (h : readSrc a s = .ok (v, t)) :
    t = s ∨ ∃ n l, a = .q n ∧ s.core.queue n.val = v :: l ∧ t = s.modCore fun c => c.setQueue n.val l := by
  cases a with
  | q n =>
    obtain ⟨-, l, hl, rfl⟩ := popQ_ok.mp h
    exact .inr ⟨n, l, rfl, hl, rfl⟩
  | g n | o n | x n => cases h; exact .inl rfl
  | gz => cases h; exact .inl rfl

/-- A read leaves everything but the device alone. -/
theorem readSrc_issue {a : Src} {v : Word} {s t : State} (h : readSrc a s = .ok (v, t)) :
    t.issue = s.issue ∧ t.pair = s.pair ∧ t.agenda = s.agenda ∧ t.took = s.took ∧ t.blocked = s.blocked := by
  rcases readSrc_ok h with rfl | ⟨n, l, -, -, rfl⟩ <;> exact ⟨rfl, rfl, rfl, rfl, rfl⟩

/-- A read of anything but a queue register changes nothing. -/
theorem readSrc_plain {a : Src} {v : Word} {s t : State} (h : readSrc a s = .ok (v, t)) (ha : ∀ n, a ≠ .q n) : t = s := by
  rcases readSrc_ok h with h | ⟨n, l, hn, -, -⟩
  · exact h
  · exact absurd hn (ha n)

theorem readISrc_issue {b : ISrc} {v : Word} {s t : State} (h : readISrc b s = .ok (v, t)) :
    t.issue = s.issue ∧ t.pair = s.pair ∧ t.agenda = s.agenda ∧ t.took = s.took ∧ t.blocked = s.blocked := by
  cases b with
  | reg a => exact readSrc_issue h
  | imm v => cases h; exact ⟨rfl, rfl, rfl, rfl, rfl⟩

theorem writeDst_issue {d : Dst} {v : Word} {s t : State} (h : writeDst d v s = .ok ((), t)) :
    t.issue = s.issue ∧ t.pair = s.pair ∧ t.agenda = s.agenda ∧ t.took = s.took ∧ t.blocked = s.blocked := by
  cases d with
  | q n =>
    obtain ⟨-, -, rfl⟩ := pushQ_ok.mp h
    exact ⟨rfl, rfl, rfl, rfl, rfl⟩
  | g n | o n => cases h; exact ⟨rfl, rfl, rfl, rfl, rfl⟩
  | gz => cases h; exact ⟨rfl, rfl, rfl, rfl, rfl⟩

/-- A span of a neighbour lies in a visible region of a core that is there. -/
theorem nbSpan_ok {dir : Dir} {slot off n tval nb o : Nat} {s t : State} : nbSpan dir slot off n tval s = .ok ((nb, o), t) ↔
    t = s ∧ neighbour s.me dir = some nb ∧
      ∃ a, (s.base.core nb).area slot = some a ∧ a.visible = true ∧ off + n ≤ a.len ∧ o = a.base + off := by
  unfold nbSpan
  rw [bind_ok (get_run s)]
  cases hn : neighbour s.me dir with
  | none => simp
  | some k =>
    cases ha : (s.base.core k).area slot with
    | none => simp only [ha, trapN_run, reduceCtorEq, false_iff]; rintro ⟨-, hk, a, h, -⟩; cases hk; rw [ha] at h; cases h
    | some a =>
      by_cases hv : a.visible = false
      · simp only [ha, hv, if_true, trapN_run, reduceCtorEq, false_iff]
        rintro ⟨-, hk, b, h, hb, -⟩; cases hk; rw [ha] at h; cases h; simp [hv] at hb
      · by_cases hl : a.len < off + n
        · simp only [ha, hv, hl, if_true, if_false, trapN_run, reduceCtorEq, false_iff]
          rintro ⟨-, hk, b, h, -, hb, -⟩; cases hk; rw [ha] at h; cases h; omega
        · simp only [ha, hv, hl, Bool.true_eq_false, if_false]
          rw [show (pure (k, a.base + off) : Exec (Nat × Nat)) s = .ok ((k, a.base + off), s) from rfl, ok_iff, Prod.mk.injEq]
          constructor
          · rintro ⟨⟨rfl, rfl⟩, rfl⟩; exact ⟨rfl, rfl, a, ha, by simpa using hv, by omega, rfl⟩
          · rintro ⟨rfl, hk, b, h, -, -, rfl⟩; cases hk; rw [ha] at h; cases h; exact ⟨⟨rfl, rfl⟩, rfl⟩

theorem writeW_issue {d : WDst} {v : Word} {s t : State} (h : writeW d v s = .ok ((), t)) :
    t.issue = s.issue ∧ t.pair = s.pair ∧ t.agenda = s.agenda ∧ t.took = s.took ∧ t.blocked = s.blocked := by
  cases d with
  | reg d => exact writeDst_issue h
  | win dir slot off =>
    unfold writeW at h
    dsimp only at h
    by_cases ha : off.toNat % 4 ≠ 0
    · rw [if_pos ha] at h; cases h
    · rw [if_neg ha] at h
      obtain ⟨⟨nb, o⟩, u, h1, h2⟩ := of_bind_ok h
      obtain ⟨rfl, -⟩ := nbSpan_ok.mp h1
      cases h2
      exact ⟨rfl, rfl, rfl, rfl, rfl⟩

end Sys2Proof.Machine
end

