-- ==== Sys2Proof/Laws/Decode.lean ====
section
/-!
SUPPORT. Round trips of the encoding: the fields of a packed word, and every operand code, read back what was written.
-/

namespace Sys2Proof

/-- A field of a packed word lies in the part above the last one, or is the last one. -/
theorem extract_append {v w start len : Nat} (a : BitVec v) (b : BitVec w) :
    (w ≤ start → (a ++ b).extractLsb' start len = a.extractLsb' (start - w) len) ∧
    (start + len ≤ w → (a ++ b).extractLsb' start len = b.extractLsb' start len) :=
  ⟨BitVec.extractLsb'_append_eq_of_le, BitVec.extractLsb'_append_eq_of_add_le⟩

theorem Fields.ofCode_pack (f : Fields) : Fields.ofCode f.pack = f := by
  cases f with
  | mk cls minor q d a b c x i =>
    simp only [Fields.ofCode, Fields.pack, Fields.mk.injEq]
    refine ⟨?_, ?_, ?_, ?_, ?_, ?_, ?_, ?_, ?_⟩ <;>
    · repeat rw [(extract_append _ _).1 (by decide)]
      first
        | exact BitVec.extractLsb'_eq_self
        | (rw [(extract_append _ _).2 (by decide)]; exact BitVec.extractLsb'_eq_self)

/-- What decoding gives, when the fields parse to a well-formed instruction that has those fields. -/
theorem decode_encode {i : Instr} {f : Fields} (hf : i.fields = some f) (hp : parse f = .ok i) (hw : i.wf = true) :
    encode i = some f.pack ∧ decode f.pack = .ok i := by
  have he : encode i = some f.pack := by rw [encode, hf]; rfl
  refine ⟨he, ?_⟩
  rw [decode, Fields.ofCode_pack, hp]
  simp [hw, he]

/-! ## Operand codes -/

@[simp] theorem Src.ofCode_code (s : Src) : Src.ofCode s.code = some s := by
  cases s with
  | g n => revert n; decide
  | gz => rfl
  | o n => revert n; decide
  | x n => revert n; decide
  | q n => revert n; decide

@[simp] theorem Dst.ofCode_code (d : Dst) : Dst.ofCode d.code = some d := by
  cases d with
  | g n => revert n; decide
  | gz => rfl
  | o n => revert n; decide
  | q n => revert n; decide

theorem Dst.code_lt (d : Dst) : d.code.toNat < 0xC0 := by
  cases d with
  | g n => revert n; decide
  | gz => decide
  | o n => revert n; decide
  | q n => revert n; decide

@[simp] theorem WDst.ofCode_code (d : WDst) (i : Word) (h : ∀ dir s o, d = .win dir s o → i = o) :
    WDst.ofCode d.code i = some d := by
  cases d with
  | reg d => simp [WDst.ofCode, WDst.code, Nat.not_le.mpr d.code_lt]
  | win dir s o =>
    rw [h dir s o rfl]
    clear h
    have hd : 0xC0 ≤ (BitVec.ofNat 8 (0xC0 + 16 * dir.val + s.val)).toNat ∧
        toFin 16 ((BitVec.ofNat 8 (0xC0 + 16 * dir.val + s.val)).toNat % 16) = some s ∧
        Dir.ofVal ((BitVec.ofNat 8 (0xC0 + 16 * dir.val + s.val)).toNat / 16) = dir := by
      cases dir <;> revert s <;> decide
    simp only [WDst.ofCode, WDst.code, hd, if_true, Option.map_some]

@[simp] theorem WDst.ofCode_code_off (d : WDst) : WDst.ofCode d.code d.off = some d :=
  WDst.ofCode_code d _ (by rintro _ _ _ rfl; rfl)

@[simp] theorem PairReg.ofCode_code (p : PairReg) : PairReg.ofCode p.code = some p := by
  cases p with
  | even n => revert n; decide
  | gz => rfl

@[simp] theorem pairOf_code (n : PairDst) : pairOf (pairCode n) = some n := by revert n; decide
@[simp] theorem gOf_code (n : Fin 48) : gOf (gCode n) = some n := by revert n; decide
@[simp] theorem tileOf_code (n : Fin 8) : tileOf (tileCode n) = some n := by revert n; decide
@[simp] theorem accOf_code (n : Fin 2) : accOf (accCode n) = some n := by revert n; decide
@[simp] theorem vOf_code (n : Fin 128) : vOf (vCode n) = some n := by
  have h : (vCode n).toNat = n.val := by simp only [vCode, BitVec.toNat_ofNat]; omega
  simp [vOf, toFin, h]
@[simp] theorem regsOf_code (n : Fin 3) : regsOf (regsCode n) = some n := by revert n; decide

@[simp] theorem TileX.ofCode_code (t : TileX) : TileX.ofCode t.code = some t := by
  cases t with
  | tile t => revert t; decide
  | acc n => revert n; decide

@[simp] theorem Src.ofVcode_code (s : Src) : Src.ofVcode s.vcode = some s := by
  cases s with
  | g n => revert n; decide
  | gz => rfl
  | o n => revert n; decide
  | x n => revert n; decide
  | q n => revert n; decide

theorem Src.vcode_range (s : Src) : 128 ≤ s.vcode.toNat ∧ s.vcode.toNat ≠ 0xFE ∧ s.vcode.getLsbD 7 = true := by
  cases s with
  | g n => revert n; decide
  | gz => decide
  | o n => revert n; decide
  | x n => revert n; decide
  | q n => revert n; decide

@[simp] theorem VSrc.ofCode_code (s : VSrc) : VSrc.ofCode s.code = some s := by
  cases s with
  | v n =>
    have h : (BitVec.ofNat 8 n.val).toNat = n.val := by simp only [BitVec.toNat_ofNat]; omega
    simp [VSrc.ofCode, VSrc.code, toFin, h]
  | s a =>
    have h := a.vcode_range
    simp [VSrc.ofCode, VSrc.code, Nat.not_lt.mpr h.1, h.2.1]
  | imm => rfl

@[simp] theorem Disp.ofCode_code (t : Disp) : Disp.ofCode t.code = some t := by
  cases t with
  | mk lines slot =>
    have hs : (Disp.code ⟨lines, slot⟩).toNat % 8 = slot.val := by
      have := slot.isLt
      simp only [Disp.code, BitVec.toNat_append, BitVec.toNat_ofNat]
      rw [← Nat.shiftLeft_add_eq_or_of_lt (by omega), Nat.shiftLeft_eq]
      omega
    have hl : (Disp.code ⟨lines, slot⟩).extractLsb' 6 26 = lines := by
      rw [Disp.code, (extract_append _ _).1 (by decide), (extract_append _ _).1 (by decide)]
      exact BitVec.extractLsb'_eq_self
    simp [Disp.ofCode, hs, hl, toFin]

/-! ## Names and codes of fields -/

@[simp] theorem Scope.ofVal_val (s : Scope) : Scope.ofVal s.val = some s := by cases s <;> rfl
@[simp] theorem VTy.ofVal_val (t : VTy) : VTy.ofVal t.val = some t := by cases t <;> rfl
@[simp] theorem TFmt.ofVal_val (t : TFmt) : TFmt.ofVal t.val = some t := by cases t <;> rfl
@[simp] theorem Ord3.ofVal_val (o : Ord3) : Ord3.ofVal o.val = some o := by cases o <;> rfl
@[simp] theorem rmOf_rmVal (r : Option Rm) : rmOf (rmVal r) = some r := by rcases r with _ | ⟨_ | _⟩ <;> rfl
@[simp] theorem linkOf_linkVal (d : Option Dir) : linkOf (linkVal d) = d := by rcases d with _ | ⟨_ | _⟩ <;> rfl
@[simp] theorem toFin_val {n : Nat} (k : Fin n) : toFin n k.val = some k := by simp [toFin]

theorem Scope.val_lt (s : Scope) : s.val < 11 := by cases s <;> decide
theorem Ord3.val_lt (o : Ord3) : o.val < 4 := by cases o <;> decide

/-- The three fields of X in classes 2 and 3. -/
theorem memX_fields {mode scope width : Nat} (hm : mode < 16) (hs : scope < 16) (hw : width < 256) :
    (memX mode scope width).toNat % 16 = mode ∧ (memX mode scope width).toNat / 16 % 16 = scope ∧
    (memX mode scope width).toNat / 256 = width := by
  simp only [memX, BitVec.toNat_ofNat]
  omega

/-- The two fields of X in class 7. -/
theorem tagX_fields {tag : Byte} {low : Nat} (h : low < 256) :
    (tagX tag low).toNat % 256 = low ∧ (tagX tag low).extractLsb' 8 8 = tag := by
  have ht := tag.isLt
  have hn : (tagX tag low).toNat = 256 * tag.toNat + low := by simp only [tagX, BitVec.toNat_ofNat]; omega
  refine ⟨by omega, ?_⟩
  apply BitVec.eq_of_toNat_eq
  simp only [BitVec.extractLsb'_toNat, hn, Nat.shiftRight_eq_div_pow]
  omega

end Sys2Proof
end

