-- ==== Sys2Proof/Laws/Parse.lean ====
section
/-!
SUPPORT. Round trips of the encoding, shape by shape: parsing the fields that a shape's encoder writes reads the operands
back. With `decode_encode` of Laws/Decode.lean they give the round trip of every instruction.
-/

namespace Sys2Proof

/-! ## Classes 0, 1 and 4 -/

theorem WDst.ofCode_isrc (d : WDst) (b : ISrc) (h : d.free b = true) : WDst.ofCode d.code (b.i d.off) = some d := by
  apply WDst.ofCode_code
  rintro dir s o rfl
  cases b with
  | reg r => rfl
  | imm v => simp [WDst.free] at h

theorem WDst.ofCode_psrc (d : WDst) (b : PSrc) (h : d.freeP b = true) : WDst.ofCode d.code (b.i d.off) = some d := by
  apply WDst.ofCode_code
  rintro dir s o rfl
  cases b with
  | reg r => rfl
  | imm v => simp [WDst.freeP] at h

theorem ISrc.ofCode_code (b : ISrc) (o : Word) : ISrc.ofCode (b.q.getLsbD 0) b.code (b.i o) = some b ∧ b.q.getLsbD 1 = false := by
  cases b <;> simp [ISrc.ofCode, ISrc.q, ISrc.code, ISrc.i]

theorem PSrc.ofCode_code (b : PSrc) (o : Word) : PSrc.ofCode (b.q.getLsbD 0) b.code (b.i o) = some b ∧ b.q.getLsbD 1 = true := by
  cases b <;> simp [PSrc.ofCode, PSrc.q, PSrc.code, PSrc.i]

theorem parseInt3_fields (c m : Nat) (f : Int3) (h : f.wf = true) : parseInt3 (f.fields c m) = some f := by
  cases f with
  | w d a b =>
    have := ISrc.ofCode_code b d.off
    simp only [parseInt3, Int3.fields, Fields.dForm, Fields.immForm, Fields.form, this, WDst.ofCode_isrc d b h]; simp
  | d d a b =>
    have := PSrc.ofCode_code b 0
    simp only [parseInt3, Int3.fields, Fields.dForm, Fields.immForm, Fields.form, this]; simp

theorem parseInt3W_fields (c m : Nat) (f : Int3W) (h : f.wf = true) : parseInt3W (f.fields c m) = some f := by
  cases f with
  | mk d a b =>
    have := ISrc.ofCode_code b d.off
    simp only [parseInt3W, Int3W.fields, Fields.immForm, Fields.form, this, WDst.ofCode_isrc d b h]; simp

theorem parseInt2W_fields (c m : Nat) (f : Int2W) : parseInt2W (f.fields c m) = some f := by
  simp [parseInt2W, Int2W.fields, Fields.form]

theorem parseBitField_fields (c m : Nat) (f : BitField) (h : f.wf = true): parseBitField (f.fields c m) = some f := by
  cases f with
  | mk d a p l =>
    have := p.isLt; have := l.isLt
    have h1 : (BitVec.ofNat 16 (256 * p.val + l.val)).toNat / 256 = p.val := by simp only [BitVec.toNat_ofNat]; omega
    have h2 : (BitVec.ofNat 16 (256 * p.val + l.val)).toNat % 256 = l.val := by simp only [BitVec.toNat_ofNat]; omega
    simp only [parseBitField, BitField.fields, Fields.form, h1, h2]; simp

theorem parseCmp_fields (c m : Nat) (f : Cmp) (h : f.wf = true) : parseCmp (f.fields c m) = some f := by
  cases f with
  | w d a b =>
    have := ISrc.ofCode_code b d.off
    simp only [parseCmp, Cmp.fields, Fields.dForm, Fields.immForm, Fields.form, this, WDst.ofCode_isrc d b h]; simp
  | d d a b =>
    have := PSrc.ofCode_code b d.off
    simp only [parseCmp, Cmp.fields, Fields.dForm, Fields.immForm, Fields.form, this, WDst.ofCode_psrc d b h]; simp

theorem parseSel_fields (c m : Nat) (f : SelOp) : parseSel (f.fields c m) = some f := by
  simp [parseSel, SelOp.fields, Fields.form]

theorem toNat_ofNat16_fin {n : Nat} (k : Fin n) (h : n ≤ 65536) : (BitVec.ofNat 16 k.val).toNat = k.val := by
  have := k.isLt; simp only [BitVec.toNat_ofNat]; omega

theorem parseLea_fields (c m : Nat) (f : LeaOp) (h : f.wf = true) : parseLea (f.fields c m) = some f := by
  cases f with
  | w d a b s off =>
    have := toNat_ofNat16_fin s (by decide)
    have h1 : WDst.ofCode d.code off = some d := by
      apply WDst.ofCode_code
      rintro dir s o rfl
      exact (beq_iff_eq.mp h).symm
    simp only [parseLea, LeaOp.fields, Fields.dForm, Fields.form, this, h1]; simp
  | d d a b s off =>
    have := toNat_ofNat16_fin s (by decide)
    simp only [parseLea, LeaOp.fields, Fields.dForm, Fields.form, this]; simp

theorem parseChk_fields (c m : Nat) (f : ChkOp) : parseChk (f.fields c m) = some f := by
  cases f with
  | mk a b => 
    have := ISrc.ofCode_code b 0
    simp only [parseChk, ChkOp.fields, Fields.immForm, Fields.form, this]; simp

theorem parseMov_fields (c m : Nat) (f : MovOp) (h : f.wf = true) : parseMov (f.fields c m) = some f := by
  cases f with
  | w d b =>
    have := ISrc.ofCode_code b d.off
    simp only [parseMov, MovOp.fields, Fields.dForm, Fields.immForm, Fields.form, this, WDst.ofCode_isrc d b h]; simp
  | d d b =>
    have := PSrc.ofCode_code b 0
    simp only [parseMov, MovOp.fields, Fields.dForm, Fields.immForm, Fields.form, this]; simp

theorem parseKmov_fields (c m : Nat) (f : KmovOp) : parseKmov (f.fields c m) = some f := by
  rcases f with ⟨k, b⟩ | ⟨k, n | v⟩
  · have := ISrc.ofCode_code b 0
    simp only [parseKmov, KmovOp.fields, Fields.dForm, Fields.immForm, Fields.form, this, toNat_ofNat16_fin k (by decide)]; simp
  · simp only [parseKmov, KmovOp.fields, Fields.dForm, Fields.immForm, Fields.form, toNat_ofNat16_fin k (by decide)]; simp
  · simp only [parseKmov, KmovOp.fields, Fields.dForm, Fields.immForm, Fields.form, toNat_ofNat16_fin k (by decide)]; simp

theorem parseKget_fields (c m : Nat) (f : KgetOp) : parseKget (f.fields c m) = some f := by
  rcases f with ⟨d, k⟩ | ⟨n, k⟩
  all_goals
    simp only [parseKget, KgetOp.fields, Fields.dForm, Fields.immForm, Fields.form, toNat_ofNat16_fin k (by decide)]; simp

theorem parseBcc_fields (q : Nat) (f : BccOp) : parseBcc (f.fields q) = some f := by
  simp [parseBcc, BccOp.fields, Fields.form]

theorem parseFork_fields (f : ForkOp) : parseFork f.fields = some f := by
  simp only [parseFork, ForkOp.fields, Fields.form, toNat_ofNat16_fin f.n (by decide)]; simp

/-! ## Classes 2 and 3 -/

theorem parseBase_fields (f : Fields) (b : Base) (hq : f.q = b.q) (ha : f.a = b.code) : parseBase f = some b := by
  cases b <;> simp [parseBase, hq, ha, Base.q, Base.code]

theorem parseLdDst_fields (f : Fields) (d : LdDst) (hw : f.width = d.width) (hd : f.d = d.code) : parseLdDst f = some d := by
  cases d with
  | sub w d => cases w <;> simp [parseLdDst, hw, hd, LdDst.width, LdDst.code, SubW.val]
  | pair n => simp only [parseLdDst, hw, hd, LdDst.width, LdDst.code]; clear hw hd; revert n; decide
  | dq n => simp only [parseLdDst, hw, hd, LdDst.width, LdDst.code]; clear hw hd; revert n; decide
  | quad n => simp only [parseLdDst, hw, hd, LdDst.width, LdDst.code]; clear hw hd; revert n; decide
  | quadO => simp only [parseLdDst, hw, hd, LdDst.width, LdDst.code]; decide
  | quadQ n => simp only [parseLdDst, hw, hd, LdDst.width, LdDst.code]; clear hw hd; revert n; decide
  | line n => simp [parseLdDst, hw, hd, LdDst.width, LdDst.code]; exact regsOf_code n

theorem isQ_pairReg (p : PairReg) : isQ p.code = false := by cases p with
  | even n => revert n; decide
  | gz => decide

theorem parseStSrc_fields (f : Fields) (d : StSrc) (hw : f.width = d.width) (hd : f.b = d.code) : parseStSrc f = some d := by
  cases d with
  | sub w d => cases w <;> simp [parseStSrc, hw, hd, StSrc.width, StSrc.code, SubW.val]
  | pair n => simp [parseStSrc, hw, hd, StSrc.width, StSrc.code, isQ_pairReg]
  | dq n => simp only [parseStSrc, hw, hd, StSrc.width, StSrc.code]; clear hw hd; revert n; decide
  | quad n => simp only [parseStSrc, hw, hd, StSrc.width, StSrc.code]; clear hw hd; revert n; decide
  | quadO => simp only [parseStSrc, hw, hd, StSrc.width, StSrc.code]; decide
  | quadQ n => simp only [parseStSrc, hw, hd, StSrc.width, StSrc.code]; clear hw hd; revert n; decide
  | line n => simp [parseStSrc, hw, hd, StSrc.width, StSrc.code]; exact regsOf_code n

theorem LdDst.width_lt (d : LdDst) : d.width < 6 := by
  rcases d with ⟨⟨⟩ | ⟨⟩ | ⟨⟩, _⟩ | _ | _ | _ | _ | _ | _ <;> simp [LdDst.width, StSrc.width, SubW.val]

theorem StSrc.width_lt (d : StSrc) : d.width < 6 := by
  rcases d with ⟨⟨⟩ | ⟨⟩ | ⟨⟩, _⟩ | _ | _ | _ | _ | _ | _ <;> simp [LdDst.width, StSrc.width, SubW.val]

theorem parseLdOp_fields (minor mode scope : Nat) (hm : mode < 16) (hs : scope < 16) (f : LdOp) : parseLdOp (f.fields minor mode scope) = some f ∧
   (f.fields minor mode scope).mode = mode ∧ (f.fields minor mode scope).scope = Scope.ofVal scope := by
  have hw := LdDst.width_lt f.d
  have := memX_fields (width := f.d.width) hm hs (by omega)
  refine ⟨?_, this.1, by simp only [Fields.scope, LdOp.fields, this]⟩
  rw [parseLdOp, parseLdDst_fields (f.fields minor mode scope) f.d this.2.2 rfl, parseBase_fields _ f.base rfl rfl]
  rfl

theorem parseLds_fields (f : LdsOp) : parseLds f.fields = some f := by
  rw [parseLds, parseBase_fields _ f.base rfl rfl]
  rcases f with ⟨_ | _, d, b, o⟩ <;>
  simp [LdsOp.fields, Fields.form, Fields.width, memX]

theorem parseStOp_fields (mode scope : Nat) (hm : mode < 16) (hs : scope < 16) (f : StOp) : parseStOp (f.fields mode scope) = some f ∧
   (f.fields mode scope).mode = mode ∧ (f.fields mode scope).scope = Scope.ofVal scope := by
  have hw := StSrc.width_lt f.v
  have := memX_fields (width := f.v.width) hm hs (by omega)
  refine ⟨?_, this.1, by simp only [Fields.scope, StOp.fields, this]⟩
  rw [parseStOp, parseStSrc_fields (f.fields mode scope) f.v this.2.2 rfl, parseBase_fields _ f.base rfl rfl]
  rfl

theorem parseAmo_fields (m : Nat) (f : AmoOp) : parseAmo (f.fields m) = some f := by
  have ho := f.ord.val_lt; have hs := f.scope.val_lt
  rcases f with ⟨⟨d, a, b⟩ | ⟨d, a, b⟩, o, sc⟩
  all_goals
    simp only at ho hs
    simp [parseAmo, AmoOp.fields, Fields.mode, Fields.scope, Fields.width, Fields.form, memX_fields (show o.val < 16 by omega) (show sc.val < 16 by omega)]

theorem parseCas_fields (f : CasOp) : parseCas (f.fields) = some f := by
  have ho := f.ord.val_lt; have hs := f.scope.val_lt
  rcases f with ⟨⟨d, a, b, c⟩ | ⟨d, a, b, c⟩, o, sc⟩
  all_goals
    simp only at ho hs
    simp [parseCas, CasOp.fields, Fields.mode, Fields.scope, Fields.width, Fields.form, memX_fields (show o.val < 16 by omega) (show sc.val < 16 by omega)]

theorem parseF3R_fields (m : Nat) (f : F3R) (h : f.wf = true) : parseF3R (f.fields m) = some f := by
  rcases f with ⟨d, a, b, r⟩
  have h1 := WDst.ofCode_isrc d b h
  have hr : (b.q ||| BitVec.ofNat 4 (2 * rmVal r)).toNat / 2 = rmVal r ∧ (b.q ||| BitVec.ofNat 4 (2 * rmVal r)).getLsbD 0 = b.q.getLsbD 0 := by
    rcases r with _ | ⟨_ | _⟩ <;> cases b <;> simp [ISrc.q, rmVal]
  simp only [parseF3R, F3R.fields, Fields.form, hr, rmOf_rmVal, parseInt3W, Fields.immForm, ISrc.ofCode_code, h1]; simp

theorem parseF2R_fields (m : Nat) (f : F2R) : parseF2R (f.fields m) = some f := by
  rcases f with ⟨d, a, r⟩
  have hr : (BitVec.ofNat 4 (2 * rmVal r)).toNat / 2 = rmVal r := by
    rcases r with _ | ⟨_ | _⟩ <;> simp [rmVal]
  simp only [parseF2R, F2R.fields, Fields.form, hr, rmOf_rmVal, parseInt2W]; simp

/-! ## Classes 5 and 6 -/

theorem VTy.ofVal_mod16 (t : VTy) : VTy.ofVal (t.val % 16) = some t := by cases t <;> rfl

theorem VTy.ofVal_mod256 (t : VTy) : VTy.ofVal (t.val % 256) = some t := by cases t <;> rfl

theorem TFmt.ofVal_mod16 (t : TFmt) : TFmt.ofVal (t.val % 16) = some t := by cases t <;> rfl

/-- X of classes 5 and 6 as a number. -/
def vecXNat (d : VDst) (p : Option (Fin 128)) : Nat :=
  (match d with | .v _ => 0 | .win dir slot => 128 + 32 * dir.val + 2 * slot.val) + (match p with | none => 0 | some p => 0x8000 + 256 * p.val)

theorem Dir.val_lt (d : Dir) : d.val < 4 := by cases d <;> decide

theorem vecX_toNat (d : VDst) (p : Option (Fin 128)) : (vecX d p).toNat = vecXNat d p := by
  rcases d with n | ⟨dir, slot⟩ <;> rcases p with _ | p
  · simp [vecX, vecXNat]
  · simp [vecX, vecXNat]; omega
  · have := dir.val_lt; simp [vecX, vecXNat]; omega
  · have := dir.val_lt
    have h1 : (BitVec.ofNat 16 (128 + 32 * dir.val + 2 * slot.val)).toNat = 128 + 32 * dir.val + 2 * slot.val := by simp only [BitVec.toNat_ofNat]; omega
    have h2 : (BitVec.ofNat 16 (0x8000 + 256 * p.val)).toNat = 0x8000 + 256 * p.val := by simp only [BitVec.toNat_ofNat]; omega
    have h3 : (0x8000 + 256 * p.val) = (128 + p.val) <<< 8 := by rw [Nat.shiftLeft_eq]; omega
    simp only [vecX, vecXNat, BitVec.toNat_or, h1, h2]
    rw [Nat.or_comm, h3, ← Nat.shiftLeft_add_eq_or_of_lt (by omega)]
    omega
/-- The part of X that names a window. -/
def vecXLow : VDst → Nat
  | .v _ => 0
  | .win dir slot => 128 + 32 * dir.val + 2 * slot.val

theorem vecXLow_lt (d : VDst) : vecXLow d < 256 := by
  rcases d with n | ⟨dir, slot⟩
  · simp [vecXLow]
  · have := dir.val_lt; simp only [vecXLow]; omega

theorem vecX_nat_split (d : VDst) (p) : vecXNat d p = vecXLow d + (match p with | none => 0 | some p => 0x8000 + 256 * p.val) := by
  cases d <;> rfl

theorem Fields.pred_vecX (d : VDst) (p : Option (Fin 128)) (f : Fields) (hx : f.x = vecX d p) : f.pred = p := by
  have hv : f.x.toNat = vecXNat d p := by rw [hx, vecX_toNat]
  have hlo := vecXLow_lt d
  have hb : f.x.getLsbD 15 = decide (f.x.toNat / 32768 % 2 = 1) := by
    rw [BitVec.getLsbD, Nat.testBit_eq_decide_div_mod_eq]
  rw [vecX_nat_split] at hv
  unfold Fields.pred
  rw [hb]
  rcases p with _ | p
  · simp only at hv
    rw [if_neg]; simp; omega
  · simp only at hv
    rw [if_pos]
    · congr 1; apply Fin.ext; show f.x.toNat / 256 % 128 = p.val; omega
    · simp; omega

theorem Dir.ofVal_val (d : Dir) (k : Nat) (h : k % 4 = d.val) : Dir.ofVal k = d := by
  cases d <;> simp [Dir.ofVal, h, Dir.val]

theorem parseVDst_vecX (d : VDst) (p : Option (Fin 128)) (f : Fields) (hx : f.x = vecX d p) (hd : f.d = d.code) : parseVDst f = some d := by
  have hb : f.x.getLsbD 7 = decide (f.x.toNat / 128 % 2 = 1) := by
    rw [BitVec.getLsbD, Nat.testBit_eq_decide_div_mod_eq]
  have hv : f.x.toNat % 256 = vecXLow d := by
    have hlo := vecXLow_lt d
    rw [hx, vecX_toNat, vecX_nat_split]
    rcases p with _ | p <;> simp only <;> omega
  unfold parseVDst
  rw [hb]
  rcases d with n | ⟨dir, slot⟩
  · simp only [vecXLow] at hv
    rw [if_neg, hd, VDst.code, vOf_code]; rfl
    simp; omega
  · have hdd := dir.val_lt
    simp only [vecXLow] at hv
    rw [if_pos]
    · rw [Dir.ofVal_val dir _ (by omega)]
      congr 2; apply Fin.ext; show f.x.toNat / 2 % 16 = slot.val; omega
    · simp; omega

theorem parseV3_fields (c m : Nat) (f : V3) : parseV3 (f.fields c m) = some f := by
  rw [parseV3, parseVDst_vecX f.d f.pred _ rfl rfl, Fields.pred_vecX f.d f.pred _ rfl]
  simp [Fields.ty, V3.fields, vecForm, VTy.ofVal_mod16, Fields.form]

theorem parseV2_fields (c m : Nat) (f : V2) : parseV2 (f.fields c m) = some f := by
  rw [parseV2, parseVDst_vecX f.d f.pred _ rfl rfl, Fields.pred_vecX f.d f.pred _ rfl]
  simp [Fields.ty, V2.fields, vecForm, VTy.ofVal_mod16, Fields.form]

theorem parseVFma_fields (c m : Nat) (f : VFma) : parseVFma (f.fields c m) = some f := by
  rw [parseVFma, Fields.pred_vecX (.v f.d) f.pred _ rfl]
  simp [Fields.ty, VFma.fields, vecForm, VTy.ofVal_mod16, Fields.form, VDst.code]

theorem parseVSel_fields (c m : Nat) (f : VSelOp) : parseVSel (f.fields c m) = some f := by
  rw [parseVSel, parseVDst_vecX f.d f.pred _ rfl rfl, Fields.pred_vecX f.d f.pred _ rfl]
  simp [Fields.ty, VSelOp.fields, vecForm, VTy.ofVal_mod16, Fields.form]

theorem parseVCvt_fields (c m : Nat) (f : VCvtOp) : parseVCvt (f.fields c m) = some f := by
  rw [parseVCvt, parseVDst_vecX f.d f.pred _ rfl rfl, Fields.pred_vecX f.d f.pred _ rfl]
  simp [Fields.ty, VCvtOp.fields, vecForm, VTy.ofVal_mod16, VTy.ofVal_mod256, Fields.form]

theorem parseVRand_fields (c m : Nat) (f : VRandOp) : parseVRand (f.fields c m) = some f := by
  rw [parseVRand, parseVDst_vecX f.d f.pred _ rfl rfl, Fields.pred_vecX f.d f.pred _ rfl]
  simp [Fields.ty, VRandOp.fields, vecForm, VTy.ofVal_mod16, Fields.form]

theorem parseVRed_fields (c m : Nat) (f : VRed) : parseVRed (f.fields c m) = some f := by
  rw [parseVRed, Fields.pred_vecX (.v f.d) f.pred _ rfl]
  simp [Fields.ty, VRed.fields, vecForm, VTy.ofVal_mod16, Fields.form, VDst.code]

theorem parseVResid_fields (c m : Nat) (f : VResidOp) : parseVResid (f.fields c m) = some f := by
  rw [parseVResid, Fields.pred_vecX (.v f.d) f.pred _ rfl]
  simp [Fields.ty, VResidOp.fields, vecForm, VTy.ofVal_mod16, Fields.form, VDst.code]

theorem parseVLd_fields (c m : Nat) (f : VLdOp) : parseVLd (f.fields c m) = some f := by
  rw [parseVLd, Fields.pred_vecX (.v f.d) f.pred _ rfl]
  simp [Fields.ty, VLdOp.fields, vecForm, VTy.ofVal_mod16, Fields.form, VDst.code]

theorem parseVGath_fields (c m : Nat) (f : VGathOp) : parseVGath (f.fields c m) = some f := by
  rw [parseVGath, Fields.pred_vecX (.v f.d) f.pred _ rfl]
  simp [Fields.ty, VGathOp.fields, vecForm, VTy.ofVal_mod16, Fields.form, VDst.code]

theorem parseVSt_fields (c m : Nat) (f : VStOp) : parseVSt (f.fields c m) = some f := by
  rw [parseVSt, Fields.pred_vecX (.v 0) f.pred _ rfl]
  simp [Fields.ty, VStOp.fields, vecForm, VTy.ofVal_mod16, Fields.form, VDst.code]

theorem parseVScat_fields (c m : Nat) (f : VScatOp) : parseVScat (f.fields c m) = some f := by
  rw [parseVScat, Fields.pred_vecX (.v 0) f.pred _ rfl]
  simp [Fields.ty, VScatOp.fields, vecForm, VTy.ofVal_mod16, Fields.form, VDst.code]

theorem parseGen_fields (m : Nat) (f : GenOp) : parseGen (f.fields m) = some f := by
  rcases f with ⟨d, a, p⟩ | ⟨d, a⟩
  · rw [parseGen, Fields.pred_vecX (.v d) p _ rfl]
    have hd : (vCode d)[7] = false := by
      rw [← BitVec.getLsbD_eq_getElem (by decide), BitVec.getLsbD, Nat.testBit_eq_decide_div_mod_eq]; simp [vCode]; omega
    simp [GenOp.fields, vecForm, Fields.form, VDst.code, hd]
  · simp [parseGen, GenOp.fields, Fields.form, d.vcode_range.2.2]

/-! ## Classes 7 and 9 -/

theorem Fields.fmt_of (t : TFmt) (f : Fields) (h : f.q = BitVec.ofNat 4 t.val) : f.fmt = some t := by simp [Fields.fmt, h, TFmt.ofVal_mod16]

theorem parseTld_fields (m : Nat) (f : TldOp) : parseTld (f.fields m) = some f := by
  rcases f with ⟨t, a, o, _ | _⟩ <;> simp [parseTld, TldOp.fields, Fields.form]

theorem parseTst_fields (f : TstOp) : parseTst (f.fields) = some f := by
  rcases f with ⟨a, t, o, _ | _⟩ <;> simp [parseTst, TstOp.fields, Fields.form]

theorem parseMma_fields (f : MmaOp) : parseMma f.fields = some f := by
  have := tagX_fields (tag := f.tag) (low := f.block.val) (by omega)
  rw [parseMma, Fields.fmt_of f.fmt _ rfl]
  have h : (tagX f.tag f.block.val).toNat % 4 = f.block.val := by omega
  simp [MmaOp.fields, Fields.form, Fields.tag, this, h]

theorem linkVal_lt (o : Option Dir) : linkVal o < 8 := by rcases o with _ | ⟨_ | _⟩ <;> decide

theorem linkOf_of_mod (k : Nat) (o : Option Dir) (h : k % 8 = linkVal o) : linkOf k = o := by
  rcases o with _ | d
  · simp [linkOf, linkVal] at *; omega
  · have : k % 2 = 1 := by simp [linkVal] at h; omega
    simp only [linkOf, this, if_true]
    rw [Dir.ofVal_val d]; simp [linkVal] at h; omega

theorem parseMmt_fields (f : MmtOp) : parseMmt f.fields = some f := by
  have h1 := linkVal_lt f.rx; have h2 := linkVal_lt f.fwd
  have := tagX_fields (tag := f.tag) (low := f.block.val + 4 * linkVal f.rx + 32 * linkVal f.fwd) (by omega)
  rw [parseMmt, Fields.fmt_of f.fmt _ rfl]
  have h : (tagX f.tag (f.block.val + 4 * linkVal f.rx + 32 * linkVal f.fwd)).toNat % 4 = f.block.val := by omega
  have h3 : linkOf ((tagX f.tag (f.block.val + 4 * linkVal f.rx + 32 * linkVal f.fwd)).toNat / 4) = f.rx := linkOf_of_mod _ _ (by omega)
  have h4 : linkOf ((tagX f.tag (f.block.val + 4 * linkVal f.rx + 32 * linkVal f.fwd)).toNat / 32) = f.fwd := linkOf_of_mod _ _ (by omega)
  simp [MmtOp.fields, Fields.form, Fields.tag, this, h, h3, h4]

theorem parseTile3_useTile (f : Fields) (o : Option (Fin 8)) (h : f.x = useTile o) : parseTile3 f = some o := by
  rcases o with _ | t
  · simp [parseTile3, h, useTile]
  · have : f.x.toNat = 8 + t.val := by rw [h]; simp [useTile]; omega
    simp [parseTile3, this]

theorem parseMcvt_fields (f : McvtOp) : parseMcvt f.fields = some f := by
  rw [parseMcvt, parseTile3_useTile _ f.tile rfl]
  rcases f with ⟨_ | _, d, a, m, t⟩ <;> simp [McvtOp.fields, Fields.form, parseBf]

theorem parseBsum_fields (f : BsumOp) (g : Fields) (ha : g.a = accCode f.a) (hb : g.b = pairCode f.b) (hx : g.x = useTile f.tile) : parseBsum g = some f := by
  simp [parseBsum, parseTile3_useTile _ f.tile hx, ha, hb]

theorem parseFull_fields (f : Fields) (u : Full) (hq : f.q = u.q) (hd : f.d = u.code) : parseFull f = some u := by
  rcases u with _ | d | _ <;> simp [parseFull, hq, hd, Full.q, Full.code]

theorem tripleOf_code (n : Fin 23) : tripleOf (BitVec.ofNat 8 (2 * n.val)) = some n := by revert n; decide

theorem byte_of_x (t : Byte) : (BitVec.ofNat 16 t.toNat).extractLsb' 0 8 = t := by
  apply BitVec.eq_of_toNat_eq
  simp only [BitVec.extractLsb'_toNat, BitVec.toNat_ofNat, Nat.shiftRight_zero]
  omega

theorem nibble_of_x (t : BitVec 4) : (t.setWidth 16).extractLsb' 0 4 = t := by
  apply BitVec.eq_of_toNat_eq
  have := t.isLt
  simp only [BitVec.extractLsb'_toNat, BitVec.toNat_setWidth, Nat.shiftRight_zero]
  omega

end Sys2Proof
end

