-- ==== Sys2Proof/Tests/Slice0.lean ====
section
/-!
SUPPORT. Tests: what well-formedness refuses; words written out from the encoding tables (R31 to R51) and what they decode to;
states and operands that meet the hypotheses of each statement, clause by clause, at the boundary values of their ranges; and
one step of a few instructions, with results computed by hand from the rule that each test names.
-/

namespace Sys2Proof.Tests

open Sys2Proof Sys2Proof.Machine

set_option Elab.async false

/-! ## What is not well formed -/

/-- R32, R33: a window's offset is the field I, which an immediate also needs. -/
theorem test_wf_window_and_immediate :
    (Instr.add (.w (.win .e 3 8) (.g 1) (.imm 5))).wf = false ∧ (Instr.mulh ⟨.win .n 0 4, .g 1, .imm 5⟩).wf = false ∧
    (Instr.seq (.w (.win .e 3 8) (.g 1) (.imm 5))).wf = false ∧ (Instr.slt (.d (.win .e 3 8) (.even 1) (.imm 5))).wf = false ∧
    (Instr.mov (.w (.win .e 3 8) (.imm 5))).wf = false ∧ (Instr.fadd ⟨.win .e 3 8, .g 1, .imm 5, none⟩).wf = false ∧
    (Instr.fmin ⟨.win .e 3 8, .g 1, .imm 5⟩).wf = false := by decide
/-- R61: position + length at most 32; 31 + 1 is, 31 + 2 is not. -/
theorem test_wf_bit_field : (Instr.bfx ⟨.reg (.g 1), .g 2, 31, 0⟩).wf = true ∧ (Instr.bfx ⟨.reg (.g 1), .g 2, 31, 1⟩).wf = false := by decide
/-- R61, R65: a destination that is also read is no window. -/
theorem test_wf_read_destination : (Instr.bfi ⟨.win .e 3 8, .g 2, 0, 0⟩).wf = false ∧
    (Instr.fma ⟨.win .e 3 8, .g 1, .reg (.g 2), none⟩).wf = false ∧ (Instr.fms ⟨.win .e 3 8, .g 1, .reg (.g 2), none⟩).wf = false := by decide
/-- R32, R58: `lea` to a window has one I. -/
theorem test_wf_lea : (Instr.lea (.w (.win .e 3 8) (.g 1) (.g 2) 0 4)).wf = false ∧
    (Instr.lea (.w (.win .e 3 8) (.g 1) (.g 2) 0 8)).wf = true := by decide
/-- R38: a write to k.coreid (15) is ILLOP; k.frm (0) takes one. -/
theorem test_wf_kmov : (Instr.kmov (.w 15 (.reg (.g 1)))).wf = false ∧ (Instr.kmov (.d 11 (.imm 0))).wf = false ∧
    (Instr.kmov (.w 0 (.reg (.g 1)))).wf = true := by decide
/-- R69: six arguments from g42 are the last; without arguments A is 0. -/
theorem test_wf_fork : (Instr.fork ⟨42, 6, ⟨0, 0⟩⟩).wf = true ∧ (Instr.fork ⟨43, 6, ⟨0, 0⟩⟩).wf = false ∧
    (Instr.fork ⟨1, 0, ⟨0, 0⟩⟩).wf = false := by decide
/-- R79: `.acq`, `.rel` on words and pairs in global memory; `.vol` in global memory; `.take`, `.wait`, `.fill` in scratchpads. -/
theorem test_wf_memory_modes : (Instr.ldAcq ⟨.sub .b (.g 1), .glob (.even 1), 0⟩ .die).wf = false ∧
    (Instr.ldAcq ⟨.sub .w (.g 1), .sp (.g 2), 0⟩ .die).wf = false ∧ (Instr.stRel ⟨.quad 1, .glob (.even 1), 0⟩ .die).wf = false ∧
    (Instr.ldVol ⟨.sub .w (.g 1), .nb (.g 2), 0⟩).wf = false ∧ (Instr.stVol ⟨.sub .w (.g 1), .sp (.g 2), 0⟩).wf = false ∧
    (Instr.ldTake ⟨.sub .w (.g 1), .glob (.even 1), 0⟩).wf = false ∧ (Instr.ldWait ⟨.sub .w (.g 1), .glob (.even 1), 0⟩).wf = false ∧
    (Instr.stFill ⟨.sub .w (.g 1), .glob (.even 1), 0⟩).wf = false := by decide
/-- R78, R90, R94, R199, R276: a pair of data, a value of a `.d` atomic and an address of classes A and B are main-file pairs, not gz. -/
theorem test_wf_main_pairs : (Instr.st ⟨.pair .gz, .sp (.g 1), 0⟩).wf = false ∧ (Instr.stRel ⟨.pair .gz, .glob (.even 1), 0⟩ .die).wf = false ∧
    (Instr.stVol ⟨.pair .gz, .glob (.even 1), 0⟩).wf = false ∧ (Instr.stFill ⟨.pair .gz, .sp (.g 1), 0⟩).wf = false ∧
    (Instr.amoAdd ⟨.d 1 (.even 1) .gz, .relaxed, .sys⟩).wf = false ∧ (Instr.cas ⟨.d 1 (.even 1) .gz (.even 2), .relaxed, .sys⟩).wf = false ∧
    (Instr.cas ⟨.d 1 (.even 1) (.even 2) .gz, .relaxed, .sys⟩).wf = false ∧ (Instr.tlbinv .gz).wf = false ∧ (Instr.tlbprb ⟨2, .gz⟩).wf = false ∧
    (Instr.dldL ⟨0, .gz, 0⟩).wf = false ∧ (Instr.dpush ⟨.gz, .g 1, .g 2, 64, 0⟩).wf = false ∧ (Instr.dpro ⟨.g 1, .gz⟩).wf = false ∧ (Instr.hdef ⟨.g 1, .gz, .g 2⟩).wf = false ∧
    (Instr.st ⟨.pair (.even 1), .sp (.g 1), 0⟩).wf = true ∧ (Instr.tlbinv (.even 1)).wf = true := by decide
/-- R127: a window excludes a predicate and the broadcast of I; I is zero where nothing uses it. -/
theorem test_wf_vector_fields : (Instr.vadd ⟨.f32, .win .e 1, .v 1, .v 2, some 3, 0⟩).wf = false ∧
    (Instr.vadd ⟨.f32, .win .e 1, .v 1, .imm, none, 16⟩).wf = false ∧ (Instr.vadd ⟨.f32, .v 0, .v 1, .v 2, none, 16⟩).wf = false ∧
    (Instr.vadd ⟨.f32, .v 0, .v 1, .imm, none, 16⟩).wf = true ∧ (Instr.vfma ⟨.f32, 0, .v 1, .v 2, none, 1⟩).wf = false ∧
    (Instr.vmov ⟨.f32, .v 0, .v 1, none, 1⟩).wf = false ∧ (Instr.vsel ⟨.f32, .v 0, .v 1, .v 2, 3, none, 1⟩).wf = false ∧
    (Instr.vcvt ⟨.f32, .bf16, .v 1, 2, none, 1⟩).wf = false := by decide
/-- R132, R135 to R137, R141: the element types that a vector form allows. -/
theorem test_wf_vector_types : (Instr.vadds ⟨.f32, .v 0, .v 1, .v 2, none, 0⟩).wf = false ∧ (Instr.vshl ⟨.bf16, .v 0, .v 1, .v 2, none, 0⟩).wf = false ∧
    (Instr.vexp2 ⟨.i32, .v 0, .v 1, none, 0⟩).wf = false ∧ (Instr.vcvtSr ⟨.f32, .f16, .v 1, 2, none, 0⟩).wf = false ∧
    (Instr.vresid ⟨.i32, 0, 1, 2, none⟩).wf = false ∧ (Instr.vrand ⟨.i16, .v 0, none, 0⟩).wf = false ∧
    (Instr.vmask ⟨.f32, 0, .g 1, none, 0⟩).wf = false := by decide

/-! ## Words and what they decode to (class, minor, Q, D, A, B, C, X, I) -/

theorem test_decode_add : decode 0x001001020300000000000000 = .ok (.add (.w (.reg (.g 1)) (.g 2) (.reg (.g 3)))) := by rfl
theorem test_decode_addi : decode 0x001101020000000000000005 = .ok (.add (.w (.reg (.g 1)) (.g 2) (.imm 5))) := by rfl
theorem test_decode_subd : decode 0x002204060800000000000000 = .ok (.sub (.d (.even 2) (.even 3) (.reg (.even 4)))) := by rfl
theorem test_decode_movwin : decode 0x0300D3050000000000000008 = .ok (.mov (.w (.win .e 3 8) (.reg (.g 5)))) := by rfl
theorem test_decode_bfx : decode 0x01B001020000040700000000 = .ok (.bfx ⟨.reg (.g 1), .g 2, 4, 7⟩) := by rfl
theorem test_decode_lea : decode 0x028001020300000200000010 = .ok (.lea (.w (.reg (.g 1)) (.g 2) (.g 3) 2 16)) := by rfl
theorem test_decode_kget : decode 0x032005000000000F00000000 = .ok (.kget (.w (.reg (.g 5)) 15)) := by rfl
theorem test_decode_kmov : decode 0x031000010000000200000000 = .ok (.kmov (.w 2 (.reg (.g 1)))) := by rfl
theorem test_decode_blt : decode 0x101200010200000000000042 = .ok (.bLt ⟨.g 1, .g 2, ⟨1, 2⟩⟩) := by rfl
theorem test_decode_bdec : decode 0x1020030000000000FFFFFFC1 = .ok (.bdec ⟨3, ⟨-1, 1⟩⟩) := by rfl
theorem test_decode_fork : decode 0x10A000080000000300000040 = .ok (.fork ⟨8, 3, ⟨1, 0⟩⟩) := by rfl
theorem test_decode_ldd : decode 0x200004020000030000000010 = .ok (.ld ⟨.pair 2, .glob (.even 1), 16⟩) := by rfl
theorem test_decode_stb : decode 0x202100060500000000000020 = .ok (.st ⟨.sub .b (.g 5), .sp (.g 6), 32⟩) := by rfl
theorem test_decode_ldacq : decode 0x200001020000025100000000 = .ok (.ldAcq ⟨.sub .w (.g 1), .glob (.even 1), 0⟩ .die) := by rfl
theorem test_decode_amo : decode 0x300001020400022200000000 = .ok (.amoAdd ⟨.w (.g 1) (.even 1) (.g 4), .rel, .team⟩) := by rfl
theorem test_decode_fence : decode 0x308000000000006300000000 = .ok (.fenceAr .part) := by rfl
theorem test_decode_fadd : decode 0x40050102000000003F800000 = .ok (.fadd ⟨.reg (.g 1), .g 2, .imm 0x3F800000, some .rtz⟩) := by rfl
theorem test_decode_vadd : decode 0x500101028300850000000000 = .ok (.vadd ⟨.f32, .v 1, .v 2, .s (.g 3), some 5, 0⟩) := by rfl
theorem test_decode_vld : decode 0x516207840000000000000040 = .ok (.vld ⟨.i16, 7, .g 4, none, 64⟩) := by rfl
theorem test_decode_vcvt : decode 0x600101020003000000000000 = .ok (.vcvt ⟨.f32, .bf16, .v 1, 2, none, 0⟩) := by rfl
theorem test_decode_mma : decode 0x7033B0A20500070200000000 = .ok (.mma ⟨.bf16, 0, 2, .g 5, 2, 7⟩) := by rfl
theorem test_decode_mmt : decode 0x7045B0A10300007C00000000 = .ok (.mmt ⟨.i8, 0, 1, .g 3, 0, some .w, some .e, 0⟩) := by rfl
theorem test_decode_pcom : decode 0x801001020000000000000000 = .ok (.pcom ⟨.g 1, .g 2⟩) := by rfl
theorem test_decode_send : decode 0x900105100300000100000000 = .ok (.send ⟨.busy (.g 5), 1, .g 3, 1⟩) := by rfl
theorem test_decode_dpinclr : decode 0xA05101020000000000000000 = .ok (.dpinClr ⟨.g 1, .even 1⟩) := by rfl
theorem test_decode_tlbprb : decode 0xB05004060000000000000000 = .ok (.tlbprb ⟨2, .even 3⟩) := by rfl
theorem test_decode_svc : decode 0xB01000000000000000000009 = .ok (.svc 9) := by rfl
/-- R52: a reserved class, an unassigned minor, a code that the form does not define, an unused field that is not zero. -/
theorem test_decode_refuses : decode 0xC00000000000000000000000 = .error .reservedClass ∧ decode 0x033000000000000000000000 = .error .unassignedMinor ∧
    decode 0x200001020000025B00000000 = .error .undefinedCode ∧ decode 0x000000000000000000000001 = .error .unusedField := ⟨rfl, rfl, rfl, rfl⟩

/-! ## Helpers -/

/-- One core that runs an activation, about to issue a group at 0x1000 whose NextPC is 0x1001; the rest as at reset. -/
def unit (id : Nat) (hind : Bool) (f : Core → Core) : State :=
  { State.reset with
    dev := Device.reset.setCore id (f { Core.reset id with act := some ⟨0, none, false, 0⟩ })
    issue := ⟨id, hind, false, 0x1000, 0x1000, 0x1001, 0, false, false⟩ }

/-- The same with values in registers of fore. -/
def regs (l : FMap Word) : State := unit 0 false fun c => { c with fore := { c.fore with running := true, g := l } }

/-- A register after an instruction. -/
def regAfter (i : Instr) (s : State) (n : Nat) : Word := (stateOf (exec i s) s).stream.reg n

/-- A control register after an instruction. -/
def ctlAfter (i : Instr) (s : State) (n : Nat) : DWord := (stateOf (exec i s) s).readK n

/-- A computation that ends without a stop. -/
def ends (r : Except Stop (Unit × State)) : Bool :=
  match r with
  | .ok _ => true
  | .error _ => false

theorem performs_of_ends {m : Exec Unit} {s : State} (h : ends (m s) = true) : ∃ t, Performs m s t := by
  unfold Performs
  cases hm : m s with
  | ok p => exact ⟨p.2, rfl⟩
  | error e => rw [hm] at h; cases h

/-! ## Class 0 -/

/-- Register and immediate sources, with the sign bit, and division by zero and of −2^31 by −1 (R60). -/
theorem test_witness_IntegerArithmetic_words :
    (∃ s1 s2 s3, Reads (.g 1) (regs [(1, 0x80000000)]).begin 0x80000000 s1 ∧ ReadsI (.imm 0xFFFFFFFF) s1 0xFFFFFFFF s2 ∧
      Writes (.reg (.g 2)) 0x80000000 s2 s3) ∧
    (∃ s1 s2 s3, Reads (.g 1) (regs [(1, 7)]).begin 7 s1 ∧ ReadsI (.reg .gz) s1 0 s2 ∧ Writes (.reg .gz) 0xFFFFFFFF s2 s3) ∧
    (∃ s1 s2 s3, Reads (.g 1) (regs [(1, 7)]).begin 7 s1 ∧ ReadsI (.imm 7) s1 7 s2 ∧
      ((1 : Word) = 1 ∧ (fun _ (a b : Word) => a = b) 32 (7 : Word) 7) ∧ Writes (.reg (.g 2)) 1 s2 s3) :=
  ⟨⟨_, _, _, rfl, rfl, rfl⟩, ⟨_, _, _, rfl, rfl, rfl⟩, ⟨_, _, _, rfl, rfl, ⟨rfl, rfl⟩, rfl⟩⟩
/-- A window destination: the east neighbour's scratchpad. -/
theorem test_witness_IntegerArithmetic_window : ∃ s1 s2 s3, Reads (.g 1) (regs [(1, 7)]).begin 7 s1 ∧ ReadsI (.reg (.g 1)) s1 7 s2 ∧
    Writes (.reg (.o 7)) 14 s2 s3 := ⟨_, _, _, rfl, rfl, rfl⟩
/-- R59: `adds` saturates; `sub` wraps; `div` truncates towards zero. -/
theorem test_add_and_sub : regAfter (.adds (.w (.reg (.g 2)) (.g 1) (.imm 1))) (regs [(1, 0x7FFFFFFF)]) 2 = 0x7FFFFFFF ∧
    regAfter (.sub (.w (.reg (.g 2)) .gz (.imm 1))) (regs []) 2 = 0xFFFFFFFF ∧
    regAfter (.add (.d (.even 1) (.even 2) (.imm 1))) (regs [(4, 0xFFFFFFFF)]) 3 = 1 := by decide
theorem test_div_and_rem : regAfter (.div ⟨.reg (.g 2), .g 1, .imm 2⟩) (regs [(1, 0xFFFFFFF9)]) 2 = 0xFFFFFFFD ∧
    regAfter (.rem ⟨.reg (.g 2), .g 1, .imm 2⟩) (regs [(1, 0xFFFFFFF9)]) 2 = 0xFFFFFFFF ∧
    regAfter (.div ⟨.reg (.g 2), .g 1, .imm 0⟩) (regs [(1, 5)]) 2 = 0xFFFFFFFF ∧
    regAfter (.rem ⟨.reg (.g 2), .g 1, .imm 0⟩) (regs [(1, 5)]) 2 = 5 := by decide
theorem test_shift_counts_mod_width : regAfter (.shl (.w (.reg (.g 2)) (.g 1) (.imm 33))) (regs [(1, 3)]) 2 = 6 ∧
    regAfter (.sra (.w (.reg (.g 2)) (.g 1) (.imm 31))) (regs [(1, 0x80000000)]) 2 = 0xFFFFFFFF := by decide
theorem test_compare_signed : regAfter (.slt (.w (.reg (.g 2)) (.g 1) (.imm 1))) (regs [(1, 0xFFFFFFFF)]) 2 = 1 ∧
    regAfter (.sltu (.w (.reg (.g 2)) (.g 1) (.imm 1))) (regs [(1, 0xFFFFFFFF)]) 2 = 0 := by decide
/-- R61: the widest field, position 0 and 31 + 1. -/
theorem test_witness_BitCountsAndFields :
    (∃ s1, Reads (.g 1) (regs [(1, 0)]).begin 0 s1) ∧ (∃ s1, Reads (.g 1) (regs [(1, 1)]).begin 1 s1) ∧
    ((0 + 31 < 32) ∧ ∃ s1, Reads (.g 1) (regs [(1, 5)]).begin 5 s1) ∧
    ((31 + 0 < 32) ∧ (WDst.reg (.g 2)).readable = true ∧ ∃ s1 s2, readWDst (.reg (.g 2)) (regs [(2, 9)]).begin = .ok (9, s1) ∧
      Reads (.g 1) s1 0 s2) :=
  ⟨⟨_, rfl⟩, ⟨_, rfl⟩, ⟨by decide, _, rfl⟩, ⟨by decide, rfl, _, _, rfl, rfl⟩⟩
theorem test_bit_counts : regAfter (.clz ⟨.reg (.g 2), .g 1⟩) (regs [(1, 1)]) 2 = 31 ∧ regAfter (.ctz ⟨.reg (.g 2), .g 1⟩) (regs [(1, 0x80000000)]) 2 = 31 ∧
    regAfter (.clz ⟨.reg (.g 2), .gz⟩) (regs []) 2 = 32 ∧ regAfter (.popc ⟨.reg (.g 2), .g 1⟩) (regs [(1, 0xF0)]) 2 = 4 := by decide
theorem test_bit_fields : regAfter (.bfx ⟨.reg (.g 2), .g 1, 4, 7⟩) (regs [(1, 0x12345678)]) 2 = 0x67 ∧
    regAfter (.bfi ⟨.reg (.g 2), .g 1, 4, 7⟩) (regs [(1, 0xAB), (2, 0xFFFFFFFF)]) 2 = 0xFFFFFABF := by decide
/-- R62: `chkb` below, and at, the bound. -/
theorem test_witness_SelectAddressMoveCheck :
    (∃ s1 s2 s3 s4, Reads (.g 1) (regs [(1, 5), (2, 6), (3, 0)]).begin 5 s1 ∧ Reads (.g 2) s1 6 s2 ∧ Reads (.g 3) s2 0 s3 ∧
      Writes (.reg (.g 4)) 6 s3 s4) ∧
    (∃ s1 s2 s3, Reads (.g 1) (regs [(1, 5), (2, 6)]).begin 5 s1 ∧ Reads (.g 2) s1 6 s2 ∧ Writes (.reg (.g 4)) (5 + (6 <<< 7) + 8) s2 s3) ∧
    (∃ s1 s2, ReadsI (.imm 9) (regs []).begin 9 s1 ∧ Writes (.reg (.g 4)) 9 s1 s2) ∧
    (∃ s1 s2, Reads (.g 1) (regs [(1, 5)]).begin 5 s1 ∧ ReadsI (.imm 6) s1 6 s2 ∧ (5 : Word).toNat < (6 : Word).toNat) ∧
    (∃ s1 s2, Reads (.g 1) (regs [(1, 5)]).begin 5 s1 ∧ ReadsI (.imm 5) s1 5 s2 ∧ (5 : Word).toNat ≤ (5 : Word).toNat) :=
  ⟨⟨_, _, _, _, rfl, rfl, rfl, rfl⟩, ⟨_, _, _, rfl, rfl, rfl⟩, ⟨_, _, rfl, rfl⟩, ⟨_, _, rfl, rfl, by decide⟩, ⟨_, _, rfl, rfl, by decide⟩⟩
theorem test_chkb_traps : (stateOf (exec (.chkb ⟨.g 1, .imm 5⟩) (regs [(1, 5)])) (regs [])).took = some .bound := by decide
theorem test_lea_and_sel : regAfter (.lea (.w (.reg (.g 4)) (.g 1) (.g 2) 2 16)) (regs [(1, 5), (2, 6)]) 4 = 45 ∧
    regAfter (.sel ⟨.reg (.g 4), .g 1, .g 2, .g 3⟩) (regs [(1, 5), (2, 6), (3, 1)]) 4 = 5 := by decide
/-- R38: a write of k.frm in user mode, one of k.ptbr (P) refused there, a read of k.coreid. -/
theorem test_witness_ControlRegisters :
    (∀ k : Fin 43, isMoraine (regs []).me = true → moraineK k.val = true) ∧
    (∃ s1 t, ReadsI (.imm 3) (regs []).begin 3 s1 ∧ s1.writeK 0 3 = some t) ∧ (∃ t, (regs []).begin.writeK 5 0xFFFFFFFFFFFFFFFF = some t) ∧
    (∃ s1, Writes (.reg (.g 1)) (((regs []).begin.readK 15).extractLsb' 0 32) (regs []).begin s1) ∧
    (regs []).begin.baseCore.cr.priv = false ∧ (regs []).pair = none :=
  ⟨by decide, ⟨_, _, rfl, rfl⟩, ⟨_, rfl⟩, ⟨_, rfl⟩, rfl, rfl⟩
/-- Core 0 with a region of 1 KiB at offset 0, the tape. -/
def taping : State := unit 0 false fun c => { c with cr := { c.cr with reg := [(0, 2 ^ 41 + 2 ^ 40 + 1024 * 2 ^ 18)] } }
/-- A region beside another, up to the queue image; one that overlaps, a second tape, one without length, and one valid bit clear. -/
theorem test_witness_ControlRegisters_regions :
    taping.pair = none ∧ taping.core.mayDescribe 15 (2 ^ 41 + (0x2FE00 - 1024) * 2 ^ 18 + 1024) ∧ taping.core.mayDescribe 15 (2 ^ 63) ∧
    ¬taping.core.mayDescribe 15 (2 ^ 41 + 16 * 2 ^ 18 + 1008) ∧ ¬taping.core.mayDescribe 15 (2 ^ 41 + 2 ^ 40 + 16 * 2 ^ 18 + 1024) ∧
    ¬taping.core.mayDescribe 15 (2 ^ 41 + 1024) ∧
    (∃ s1, ReadsI (.imm 0) taping.begin 0 s1) ∧ taping.begin.writeK 39 ((0xFFFFFFFF : Word).signExtend 64) = none ∧
    (∃ t, taping.begin.writeK 39 (taping.begin.pairOf (.even 0)) = some t) :=
  ⟨rfl, by unfold Core.mayDescribe; decide, by unfold Core.mayDescribe; decide, by unfold Core.mayDescribe; decide,
    by unfold Core.mayDescribe; decide, by unfold Core.mayDescribe; decide, ⟨_, rfl⟩, by decide +kernel, ⟨_, rfl⟩⟩
theorem test_kmov_and_kget : ctlAfter (.kmov (.w 2 (.imm 0xFFFFFFFF))) (regs []) 2 = 0xFF ∧
    regAfter (.kget (.w (.reg (.g 1)) 15)) (unit 0x1088 false id) 1 = 0x1088 ∧
    (stateOf (exec (.kmov (.w 40 (.imm 0))) (regs [])) (regs [])).took = some .priv := by decide

/-! ## Class 4 -/

/-- 1 + 1, and the product of the greatest numbers, which overflows. -/
theorem test_witness_FloatArithmetic :
    (∃ s1 s2 s3, Reads (.g 1) (regs [(1, 0x3F800000)]).begin 0x3F800000 s1 ∧ ReadsI (.imm 0x3F800000) s1 0x3F800000 s2 ∧
      Writes (.reg (.g 2)) 0x40000000 (s2.raise 0) s3) ∧
    (∃ s1 s2 s3 s4, readWDst (.reg (.g 2)) (regs [(1, 0x7F7FFFFF)]).begin = .ok (0, s1) ∧ Reads (.g 1) s1 0x7F7FFFFF s2 ∧
      ReadsI (.reg (.g 1)) s2 0x7F7FFFFF s3 ∧ Writes (.reg (.g 2)) 0x7F800000 (s3.raise 5) s4) ∧
    (∃ s1 s2, Reads (.g 1) (regs [(1, 0x40800000)]).begin 0x40800000 s1 ∧ Writes (.reg (.g 2)) 0x40000000 (s1.raise 0) s2) :=
  ⟨⟨_, _, _, rfl, rfl, rfl⟩, ⟨_, _, _, _, rfl, rfl, rfl, rfl⟩, ⟨_, _, rfl, rfl⟩⟩
/-- R102, R103: 1/3 rounded to nearest is 0x3EAAAAAB and inexact, and 0x3EAAAAAA towards zero; 1/0 is infinite and raises DZ. -/
theorem test_fdiv : regAfter (.fdiv ⟨.reg (.g 2), .g 1, .imm 0x40400000, none⟩) (regs [(1, 0x3F800000)]) 2 = 0x3EAAAAAB ∧
    regAfter (.fdiv ⟨.reg (.g 2), .g 1, .imm 0x40400000, some .rtz⟩) (regs [(1, 0x3F800000)]) 2 = 0x3EAAAAAA ∧
    regAfter (.fdiv ⟨.reg (.g 2), .g 1, .imm 0, none⟩) (regs [(1, 0x3F800000)]) 2 = 0x7F800000 := by decide
theorem test_fadd_fsqrt_fma : regAfter (.fadd ⟨.reg (.g 2), .g 1, .imm 0x3F800000, none⟩) (regs [(1, 0xBF800000)]) 2 = 0 ∧
    regAfter (.fsqrt ⟨.reg (.g 2), .g 1, none⟩) (regs [(1, 0x40800000)]) 2 = 0x40000000 ∧
    regAfter (.fma ⟨.reg (.g 2), .g 1, .imm 0x40400000, none⟩) (regs [(1, 0x40000000), (2, 0x3F800000)]) 2 = 0x40E00000 := ⟨by decide, by decide +kernel, by decide⟩
theorem test_witness_FloatComparisonsAndConversions :
    (∃ s1 s2 s3, Reads (.g 1) (regs [(1, 0x7FC00000)]).begin 0x7FC00000 s1 ∧ ReadsI (.imm 0) s1 0 s2 ∧ Writes (.reg (.g 2)) 0 (s2.raise 0) s3) ∧
    (∃ s1 s2, Reads (.g 1) (regs [(1, 0x4F800000)]).begin 0x4F800000 s1 ∧ Writes (.reg (.g 2)) 0x7FFFFFFF (s1.raise flagNV) s2) ∧
    (∃ s1, Reads (.g 1) (regs [(1, 0xFF800000)]).begin 0xFF800000 s1) ∧ isNanWord 0x7F800001 ∧ ¬isNanWord 0xFF800000 :=
  ⟨⟨_, _, _, rfl, rfl, rfl⟩, ⟨_, _, rfl, rfl⟩, ⟨_, rfl⟩, by unfold isNanWord; decide, by unfold isNanWord; decide⟩
/-- Conversions to integers: 1.5, which every mode but RTZ and RDN rounds up; −2^32, beyond the bounds. -/
theorem test_witness_FloatComparisonsAndConversions_integers :
    (∃ v : ℝ, (f32 0x3FC00000).Is v ∧ RoundsToInt .rtz v 1 ∧ v ≠ (1 : ℤ)) ∧
    (∃ v : ℝ, (f32 0xCF800000).Is v ∧ RoundsToInt .rup v (-4294967296) ∧ v = (-4294967296 : ℤ)) ∧
    (∃ v : ℝ, (f32 0x4F800000).Is v ∧ RoundsToInt .rdn v 4294967296) := by
  refine ⟨⟨1.5, ⟨false, 12582912, -23, by decide +kernel, by norm_num⟩, ?_, by norm_num⟩,
    ⟨-4294967296, ⟨true, 8388608, 9, by decide +kernel, by norm_num⟩, ?_, by norm_num⟩, ⟨4294967296, ⟨false, 8388608, 9, by decide +kernel, by norm_num⟩, ?_⟩⟩
  · show (1 : ℤ) = if (1.5 : ℝ) < 0 then ⌈(1.5 : ℝ)⌉ else ⌊(1.5 : ℝ)⌋
    norm_num
  · show (-4294967296 : ℤ) = ⌈(-4294967296 : ℝ)⌉
    norm_num
  · show (4294967296 : ℤ) = ⌊(4294967296 : ℝ)⌋
    norm_num
theorem test_float_conversions : regAfter (.fcvtI32F32 ⟨.reg (.g 2), .g 1, none⟩) (regs [(1, 0x4F800000)]) 2 = 0x7FFFFFFF ∧
    regAfter (.fcvtI32F32 ⟨.reg (.g 2), .g 1, some .rtz⟩) (regs [(1, 0xBFC00000)]) 2 = 0xFFFFFFFF ∧
    regAfter (.fcvtF32I32 ⟨.reg (.g 2), .g 1, none⟩) (regs [(1, 0xFFFFFFFF)]) 2 = 0xBF800000 ∧
    regAfter (.fclass ⟨.reg (.g 2), .g 1⟩) (regs [(1, 0x80000000)]) 2 = 8 := by decide
theorem test_fneg_and_fmin : regAfter (.fneg ⟨.reg (.g 2), .g 1⟩) (regs [(1, 0x3F800000)]) 2 = 0xBF800000 ∧
    regAfter (.fabs ⟨.reg (.g 2), .g 1⟩) (regs [(1, 0xFFC00001)]) 2 = 0x7FC00000 ∧
    regAfter (.fmin ⟨.reg (.g 2), .g 1, .imm 0x80000000⟩) (regs [(1, 0)]) 2 = 0x80000000 := by decide
/-- The least subnormal and the greatest finite number. -/
theorem test_witness_RoundingKeepsFp32 : (∃ n m e, f32 1 = .fin n m e) ∧ (∃ n m e, f32 0x7F7FFFFF = .fin n m e) ∧
    ∃ n m e, f32 0x80000000 = .fin n m e := ⟨⟨_, _, _, rfl⟩, ⟨_, _, _, rfl⟩, ⟨_, _, _, rfl⟩⟩
/-- One and minus one: a sum that is not zero and one that is, products, a quotient, a root; zero; NaN. -/
theorem test_witness_RoundingKeepsFp32_exact :
    let x (n : Bool) (m : Nat) : ℝ := (if n then -1 else 1) * (m : ℝ) * 2 ^ (0 : ℤ)
    (x false 1 + x false 1 ≠ 0 ∧ x false 1 + x true 1 = 0 ∧ x false 1 * x true 1 ≠ 0 ∧ x false 1 * x false 0 = 0) ∧
    (0 < x false 1 ∧ x true 1 < 0 ∧ x false 0 = 0) ∧ (false = true ↔ x false 1 < 0) ∧ (1 : Nat) ≠ 0 ∧ (FVal.nan true).isNan = true := by
  norm_num [FVal.isNan]
theorem test_rounding_modes : roundFin fp32 .rne false (2 ^ 24 + 1) 0 = (0x4B800000, flagNX) ∧ roundFin fp32 .rup false (2 ^ 24 + 1) 0 = (0x4B800001, flagNX) ∧
    roundFin fp32 .rne false 1 128 = (0x7F800000, flagOF ||| flagNX) ∧ roundFin fp32 .rtz true 1 128 = (0xFF7FFFFF, flagOF ||| flagNX) ∧
    roundFin fp32 .rup true 1 (-150) = (0x80000000, flagUF ||| flagNX) := by decide +kernel

/-! ## Operands -/

/-- q0 by hind (qdir 0: hind reads) with one entry and with none; by fore with three entries and with four. -/
theorem test_witness_Operands :
    let h (l : List Word) := unit 0 true fun c => { c with queues := [(0, l)] }
    let f (l : List Word) := unit 0 false fun c => { c with queues := [(0, l)] }
    ((h [7]).hind = true ↔ (h [7]).baseCore.cr.qdir.getLsbD 0 = false) ∧ (h [7]).core.queue 0 = [7] ∧ (h []).core.queue 0 = [] ∧
    ¬((f [7]).hind = true ↔ (f [7]).baseCore.cr.qdir.getLsbD 0 = false) ∧ ((f [1, 2, 3]).core.queue 0).length < 4 ∧
    4 ≤ ((f [1, 2, 3, 4]).core.queue 0).length := by decide
theorem test_queue_pops_oldest : regAfter (.mov (.w (.reg (.g 1)) (.reg (.q 0)))) (unit 0 true fun c => { c with queues := [(0, [7, 8])] }) 1 = 7 := by decide

/-! ## Class 1 -/

theorem test_witness_BranchesAndCalls :
    (∃ s1 s2, Reads (.g 1) (regs [(1, 0x80000000), (2, 0)]).begin 0x80000000 s1 ∧ Reads (.g 2) s1 0 s2 ∧
      (0x80000000 : Word).toInt < (0 : Word).toInt ∧ ¬(0x80000000 : Word).toNat < (0 : Word).toNat) ∧
    (regs [(3, 2)]).begin.baseStream.reg 3 - 1 ≠ 0 ∧ (regs [(3, 1)]).begin.baseStream.reg 3 - 1 = 0 :=
  ⟨⟨_, _, rfl, rfl, by decide, by decide⟩, by decide, by decide⟩
/-- R41: −1 lines and slot 2 from the line 0x1000. R70: `bdec` of 0 wraps and branches. -/
theorem test_branches : (stateOf (exec (.br ⟨-1, 2⟩) (regs [])) (regs [])).stream.pc = 0xFC2 ∧
    (stateOf (exec (.bLt ⟨.g 1, .g 2, ⟨1, 0⟩⟩) (regs [(1, 0xFFFFFFFF)])) (regs [])).stream.pc = 0x1040 ∧
    (stateOf (exec (.bLtu ⟨.g 1, .g 2, ⟨1, 0⟩⟩) (regs [(1, 0xFFFFFFFF)])) (regs [])).stream.pc = 0x1001 ∧
    (stateOf (exec (.bdec ⟨3, ⟨1, 0⟩⟩) (regs [])) (regs [])).stream.pc = 0x1040 := by decide
theorem test_callr_reads_before_linking : (stateOf (exec (.callr ⟨1, .even 1⟩) (regs [(2, 0x4000)])) (regs [])).stream.pc = 0x4000 ∧
    regAfter (.callr ⟨1, .even 1⟩) (regs [(2, 0x4000)]) 2 = 0x1001 := by decide
theorem test_witness_StreamsStartAndEnd :
    (regs []).hind = false ∧ (regs []).begin.core.hind.running = false ∧ (unit 0 true id).hind = true ∧
    (unit 0 true id).begin.core.loadsDone true = true ∧
    (unit 0 false fun c => { c with hind := { c.hind with running := true } }).begin.core.hind.running = true ∧
    (regs []).begin.dev.mayEnd (regs []).me = true ∧ (regs []).begin.core.susp = none := by decide
theorem test_split_and_done : (stateOf (exec (.split ⟨1, 0⟩) (regs [])) (regs [])).core.hind.pc = 0x1040 ∧
    (stateOf (exec .done (regs [])) (regs [])).core.act = none ∧
    (stateOf (exec .done (unit 0 false fun c => { c with hind := { c.hind with running := true } })) (regs [])).blocked = true := by decide +kernel
/-- Fifteen tasks and sixteen; counters 0, 1 and 2. -/
theorem test_witness_ForkAndJoin :
    let tasks (n : Nat) := unit 0 false fun c => { c with deque := List.replicate n ⟨0, 0, []⟩ }
    let counter (b : Byte) := unit 0 false fun c => { c with sp := if b = 0 then [] else [(32, b)] }
    (tasks 15).begin.core.deque.length < 16 ∧ 16 ≤ (tasks 16).begin.core.deque.length ∧
    (∃ s1, Reads .gz (regs []).begin 0 s1) ∧ ((0 + 33 : Word)).toNat % 16 ≠ 0 ∧ ((0 : Word) + 32).toNat % 16 = 0 ∧ 32 + 4 ≤ spSize 0 ∧
    ((counter 0).begin.core.portWord 32).toNat = 0 ∧ ((counter 1).begin.core.portWord 32).toNat = 1 ∧
    1 < ((counter 2).begin.core.portWord 32).toNat :=
  ⟨by decide, by decide, ⟨_, rfl⟩, by decide, by decide, by decide, by decide, by decide, by decide⟩
theorem test_join_starts_at_zero : (stateOf (exec (.join ⟨.gz, 32⟩) (unit 0 false fun c => { c with sp := [(32, 1)] })) (regs [])).core.dq.waiting.length = 1 ∧
    (stateOf (exec (.join ⟨.gz, 32⟩) (unit 0 false fun c => { c with sp := [(32, 2)] })) (regs [])).core.portWord 32 = 1 := by decide +kernel

/-! ## Class 2 -/

/-- A core whose TLB maps the first 32 KiB onto a vault, with the given permissions. -/
def mapped (r w : Bool) (l : FMap Word) : State :=
  unit 0 false fun c => { c with fore := { c.fore with running := true, g := l }, tlb := [⟨0, 0, 0, r, w, false⟩] }

/-- A core whose TLB maps the first 32 KiB onto `pa`. -/
def mappedTo (pa : Nat) : State := unit 0 false fun c => { c with tlb := [⟨0, 0, pa, true, true, true⟩] }

/-- A core whose member came from package 2 (R310), with a page mapped. -/
def member : State := (mapped true true []).modCore fun c => { c with home := some (2, 0) }

/-- R310: a global access of such a member raises NOPATH; a fetch is of its own package. -/
theorem test_member_global_access : member.core.home.isSome = true ∧ (mapped true true []).core.home = none ∧ Acc.rd ≠ Acc.ex ∧
    (stateOf (exec (.ld ⟨.sub .w (.g 1), .glob .gz, 0⟩) member) member).took = some .nopath ∧ member.mayName 4096 ∧
    ¬(regs []).core.home.isSome = true := ⟨rfl, rfl, by decide, by decide +kernel, .inl rfl, by decide⟩
/-- Address 0x7FFF, the last of the page; bit 51 without bits [63:52]; a page of DRAM and one beyond all memory; a miss. -/
theorem test_witness_GlobalTranslation :
    (0x0008000000000000 : DWord) ≠ ((0x0008000000000000 : DWord).extractLsb' 0 52).signExtend 64 ∧
    (0x7FFF : DWord) = ((0x7FFF : DWord).extractLsb' 0 52).signExtend 64 ∧
    (mapped true false []).core.tlbFind 0x7FFF = some ⟨0, 0, 0, true, false, false⟩ ∧
    (⟨0, 0, 0, true, false, false⟩ : TlbEntry).allows .wr = false ∧ (⟨0, 0, 0, true, false, false⟩ : TlbEntry).allows .rd = true ∧
    isVault 0x7FFF = true ∧ isApp 0x1000000000 = true ∧
    (mappedTo 0x200000000).core.tlbFind 0 = some ⟨0, 0, 0x200000000, true, true, true⟩ ∧
    (isDramPa 0x200000000 = true ∧ isVault 0x200000000 = false ∧ isApp 0x200000000 = false) ∧
    (isDramPa 0x2C0000000 = false ∧ isVault 0x2C0000000 = false ∧ isApp 0x2C0000000 = false) ∧
    (mapped true true []).core.tlbFind 0x8000 = none ∧ 1 ∉ (mapped true true []).core.walkFail ∧
    (unit 0 false fun c => { c with walkFail := [1] }).core.tlbFind 0x8000 = none ∧
    1 ∈ (unit 0 false fun c => { c with walkFail := [1] }).core.walkFail := by decide

/-- A state with its device changed. -/
def onDev (s : State) (f : Device → Device) : State := s.setDev (f s.dev)

/-- The last word of the scratchpad; `.take` of a full granule; an empty one; the first offset beyond the end. -/
theorem test_witness_ScratchpadLoads_own :
    loadShape (.ld ⟨.sub .w (.g 2), .sp (.g 1), 0⟩) = some (.plain, false, .sub .w (.g 2), .sp (.g 1), 0) ∧
    (∃ s1 t, Reads (.g 1) (regs [(1, 0x2FFFC)]).begin 0x2FFFC s1 ∧ ((0x2FFFC + 0 : Word).toNat % 4 = 0 ∧ (0x2FFFC + 0 : Word).toNat + 4 ≤ spSize 0) ∧
      s1.core.spBad 0x2FFFC 4 = none ∧ LoadsInto (.sub .w (.g 2)) false
        (leValue ((List.range 4).map fun k => s1.core.spByte (0x2FFFC + k))) (s1.noteGone 0x2FFFC 4) t) ∧
    (let s := unit 0 false fun c => { c with spFull := [2] }
      ∃ t, s.core.journals 32 4 = false ∧ s.core.allFull 0 32 4 = true ∧ s.core.spBad 32 4 = none ∧
      LoadsInto (.sub .w (.g 2)) false 0 ((s.noteGone 32 4).modCore fun c => c.setFull 32 4 false) t) ∧
    (regs []).core.allFull 0 32 4 = false ∧ (regs []).core.journals 32 4 = false ∧ (33 : Word).toNat % 4 ≠ 0 ∧
    (0x30000 : Word).toNat % 4 = 0 ∧ spSize 0 < (0x30000 : Word).toNat + 4 ∧
    (∃ s2, Reads .gz (regs []).begin 0 (regs []).begin ∧ StoreData (.sub .w (.g 1)) (regs []).begin 0 s2) :=
  ⟨rfl, ⟨_, _, rfl, by decide, rfl, rfl⟩, ⟨_, rfl, rfl, rfl, rfl⟩, by decide, by decide, by decide, by decide, by decide, _, rfl, rfl⟩
/-- R77: the first offset beyond the end, and one that is not a multiple of four. -/
theorem test_scratchpad_store_traps : (stateOf (exec (.stFill ⟨.sub .w (.g 1), .sp .gz, 0x30000⟩) (regs [])) (regs [])).took = some .bound ∧
    (stateOf (exec (.st ⟨.sub .w (.g 1), .sp .gz, 0x2FFFE⟩) (regs [])) (regs [])).took = some .align := by decide +kernel
theorem test_scratchpad_loads : regAfter (.ld ⟨.sub .h (.g 2), .sp .gz, 32⟩) (unit 0 false fun c => { c with sp := [(32, 0x34), (33, 0x92)] }) 2 = 0x9234 ∧
    regAfter (.lds ⟨true, .g 2, .sp .gz, 32⟩) (unit 0 false fun c => { c with sp := [(32, 0x34), (33, 0x92)] }) 2 = 0xFFFF9234 := by decide +kernel
theorem test_ld_take_clears_full : (stateOf (exec (.ldTake ⟨.sub .w (.g 2), .sp .gz, 32⟩) (unit 0 false fun c => { c with spFull := [2] })) (regs [])).core.spFull = [] ∧
    (stateOf (exec (.ldTake ⟨.sub .w (.g 2), .sp .gz, 32⟩) (regs [])) (regs [])).blocked = true ∧
    (stateOf (exec (.ld ⟨.sub .w (.g 2), .sp .gz, 33⟩) (regs [])) (regs [])).took = some .align := by decide +kernel

/-- Core 0 and its east neighbour, core 8, whose region 15 is a visible window of 1 KiB at offset 1,024 (R76, R187). -/
def beside : State := onDev (regs []) fun d => d.setCore 8 { Core.reset 8 with
  cr := { (Core.reset 8).cr with reg := [(15, 2 ^ 41 + 2 ^ 39 + 2 ^ 28 + 1024)] } }

/-- Word 0 of the window, and its last one. -/
theorem test_witness_ScratchpadLoads_neighbour :
    NbAt 0x7C000000 4 beside.begin 8 1024 ∧ NbAt 0x7C0003FC 4 beside.begin 8 2044 ∧ (beside.dev.core 8).nbq = [] ∧
    (beside.dev.core 8).spBad 1024 4 = none ∧ (∀ g ∈ granules 1024 4, g ∉ (beside.dev.core 8).spGone) ∧
    (beside.dev.core 8).journals 1024 4 = false ∧ ((onDev beside fun d => d.modCore 8 fun c => { c with spFull := [64] }).dev.core 8).allFull 8 1024 4 = true :=
  ⟨rfl, rfl, rfl, rfl, by decide, by decide, by decide⟩

/-- Core 0 and a neighbour whose window is journaled, one that shows nothing, and none. -/
theorem test_witness_ScratchpadLoads_traps :
    let s := unit 0 false fun c => { c with cr := { c.cr with reg := [(0, 2 ^ 41 + 2 ^ 38 + 1024 * 2 ^ 18)] } }
    let j := onDev beside fun d => d.modCore 8 fun c => { c with cr := { c.cr with reg := [(15, 2 ^ 41 + 2 ^ 39 + 2 ^ 38 + 1024 * 2 ^ 18 + 1024)] } }
    (s.core.journals 1020 4 = true ∧ (1020 : Word).toNat % 4 = 0 ∧ (1020 : Word).toNat + 4 ≤ spSize 0) ∧
    (NbAt 0x7C000000 4 j.begin 8 1024 ∧ (j.dev.core 8).nbq = [] ∧ (j.dev.core 8).journals 1024 4 = true) ∧
    NbRefused 0xC0000000 4 (regs []) .nopath ∧ NbRefused 0x7C000000 4 (regs []) .prot ∧ NbRefused 0x7C000400 4 beside .bound :=
  ⟨by decide, ⟨rfl, rfl, by decide⟩, ⟨.w, rfl, rfl⟩, ⟨.e, rfl, rfl⟩, ⟨.e, rfl, .inr ⟨rfl, by decide, rfl⟩⟩⟩
theorem test_neighbour_bound : (stateOf (exec (.ld ⟨.sub .w (.g 2), .nb .gz, 0x7C000400⟩) beside) beside).took = some .bound ∧
    (stateOf (exec (.st ⟨.sub .w (.g 2), .nb .gz, 0x3C000400⟩) beside) beside).took = some .nopath := by decide +kernel

theorem test_witness_GlobalLoads :
    (∃ s1, ((regs []).begin.globAddr .gz 0x7FFC).toNat % 4 = 0 ∧ Located 0x7FFC .rd (mapped true false []).begin 0x7FFC s1 ∧
      s1.dev.loadBad 0 0x7FFC 4 false = none ∧ usesQueue (.sub .w (.g 1)) = false) ∧
    (∃ s1 s2, Located 64 .rd (mapped true false []).begin 64 s1 ∧ usesQueue (.sub .w (.q 0)) = true ∧ Reached .load 64 s1 s2 ∧
      s1.dev.loadBad 0 64 4 false = none ∧ ∃ t, LoadsInto (.sub .w (.q 0)) false (s2.dev.loadPlain 0 64 4).1 (s2.setDev (s2.dev.loadPlain 0 64 4).2) t) ∧
    (∃ s1 s2 dev t, Located 64 .rd (mapped true false []).begin 64 s1 ∧ (mapped true false []).begin.stream.region.st = .closed ∧
      Reached .volLoad 64 s1 s2 ∧ s2.dev.loadBad 0 64 4 true = none ∧ s2.dev.scopeCheck 64 (s2.scopeInst .sys) = some dev ∧
      LoadsInto (.sub .w (.g 1)) false (dev.loadHome 0 64 4).1 (s2.setDev ((dev.loadHome 0 64 4).2.acquire 0 (s2.scopeInst .sys))) t) ∧
    ((255 : Nat) < 2 ^ 8 ∧ (65535 : Nat) < 2 ^ 16) :=
  ⟨⟨_, by decide, rfl, rfl, rfl⟩, ⟨_, _, rfl, rfl, rfl, rfl, performs_of_ends (by decide +kernel)⟩,
    ⟨_, _, _, _, rfl, rfl, rfl, rfl, rfl, rfl⟩, by decide, by decide⟩
/-- A store of an access outstanding at a line, or a load. -/
def access (k : AccKind) : Access := ⟨k, 64, 64, 4, false, .sub .w (.g 1), 5, 0, 0, none, 0, false, 0x1000⟩
/-- A message under way from die 0 to die 1. -/
def packet (n : Nat) : Packet := ⟨n, .ack, false, false⟩
/-- A bank with an access outstanding and without; a home on the issuing die, and on die 1 with nothing and with a message under way. -/
theorem test_witness_GlobalLoads_reach :
    let s := regs []
    let busy := s.modStream fun t => { t with acc := [access .store] }
    let away := onDev s fun d => { d with heldPackets := [(1, [packet 0])] }
    busy.core.bankIdle false 64 = false ∧ (s.core.bankIdle false 64 = true ∧ s.dev.accessCrosses 0 .volLoad 64 = false) ∧
    (s.core.bankIdle false 0x30000000 = true ∧ s.dev.accessCrosses 0 .volLoad 0x30000000 = true ∧ s.dev.linkIdle (dieOf 0) 0x30000000 = true) ∧
    (away.core.bankIdle false 0x30000000 = true ∧ away.dev.accessCrosses 0 .volLoad 0x30000000 = true ∧
      away.dev.linkIdle (dieOf 0) 0x30000000 = false) := by decide +kernel
/-- Proposal lines of an open region with `rs` and `ws`, and of a failed one; a poisoned granule; a line that another stream's
scope has; a multi-writer line of die 1 whose dirty copy waits behind a message; a misaligned address. -/
def proposing (st : RegionSt) (rs : List RsLine) (ws : List WsLine) : State :=
  (onDev (mapped true true []) fun d => { d with objs := [⟨0, 0, 5, 0, 64, 2, true, [(0, 0)]⟩] }).modStream fun t =>
    { t with region := ⟨st, rs, ws, none, none, 0, none⟩ }
def dirtyAway (p : List Packet) : State := onDev (mapped true true []) fun d => { d with
  objs := [⟨0, 0, 5, 0, 64, 2, false, [(0, 0x6000)]⟩], caches := [(0, [⟨0xC00000, false, 0, 1, 0⟩])], heldPackets := [(1, p)] }
theorem test_witness_GlobalLoads_regions :
    ((proposing .failed [] []).begin.outside 0 true ∧ (mapped true true []).begin.outside 64 false) ∧
    ((proposing .opened [] []).begin.barred 64 true 64 ∧ (proposing .failed [] []).begin.barred 0 false 0 ∧ (proposing .postDraw [] []).begin.barred 0 true 1) ∧
    (∃ s1 s2, (proposing .opened [] []).begin.proposalVa 0 = true ∧ Located 0 .rd (proposing .opened [] []).begin 0 s1 ∧ Reached .volLoad 0 s1 s2 ∧
      s2.dev.loadBad 0 0 4 true = none ∧ ∃ t, LoadsInto (.sub .w (.g 1)) false (s2.dev.loadHome 0 0 4).1 (s2.setDev (s2.dev.loadHome 0 0 4).2) t) ∧
    ((∃ l ∈ (proposing .opened [⟨0, 0, 0⟩] []).stream.region.rs, l.pa = 0) ∧ 256 ≤ (List.replicate 256 (⟨64, 64, 0⟩ : RsLine)).length) ∧
    (({ Device.reset with memPoison := [1] } : Device).loadBad 0 16 4 true = some 16 ∧ (2 : Nat) % 4 ≠ 0) ∧
    (({ Device.reset with scopes := [(0, .stream 8 false)] } : Device).scopeCheck 0 (.stream 0 false)).isNone = true ∧
    ((dirtyAway []).mayAcquire .sys ∧ ¬(dirtyAway [packet 0]).mayAcquire .sys) := by
  refine ⟨?_, ?_, ⟨_, _, by decide, rfl, rfl, by decide, performs_of_ends (by decide +kernel)⟩, ?_, by decide, by decide, ?_⟩
  · unfold State.outside; decide
  · unfold State.barred; decide
  · exact ⟨⟨_, List.mem_cons_self, rfl⟩, by decide +kernel⟩
  · unfold State.mayAcquire; decide +kernel
/-- A load in a pair, whose granule is poisoned or not: it is performed at issue (R28, R339). -/
theorem test_witness_GlobalLoads_paired : let s := mapped true false []
    let p : State := { s with issue := { s.issue with paired := true } }
    p.issue.paired = true ∧ s.issue.paired = false ∧ (∃ s1 s2, Located 64 .rd p.begin 64 s1 ∧ s1.dev.loadBad 0 64 4 false = none ∧ Reached .load 64 s1 s2) ∧
    (stateOf (exec (.ld ⟨.sub .w (.g 1), .glob .gz, 64⟩) p) p).stream.acc = [] := ⟨rfl, rfl, ⟨_, _, rfl, rfl, rfl⟩, by decide +kernel⟩
theorem test_global_load_is_outstanding : (stateOf (exec (.ld ⟨.sub .w (.g 1), .glob .gz, 0x7FFC⟩) (mapped true false [])) (regs [])).stream.acc.length = 1 ∧
    (stateOf (exec (.ld ⟨.sub .w (.g 1), .glob .gz, 0x7FFC⟩) (mapped false true [])) (regs [])).took = some .prot := by decide +kernel

/-- The last granule before the queue image; a region that is journaled, with room and with none. -/
theorem test_witness_ScratchpadStores :
    (∃ s1 s2, Reads .gz (regs []).begin 0 s1 ∧ StoreData (.sub .b (.g 1)) s1 0 s2 ∧ inImage 0 0x2FDFF = false ∧ s2.core.journals 0x2FDFF 1 = false) ∧
    (let s (n : Nat) := unit 0 false fun c => { c with cr := { c.cr with reg := [(0, 2 ^ 41 + 2 ^ 38 + 2 ^ 28 + 1024)] }, journal := (List.range n).map fun k => (k, ⟨0, 0, false⟩) };
      (s 63).core.journals 1024 16 = true ∧
      (s 63).core.journal.length + ((granules 1024 16).filter fun g => (FMap.find (s 63).core.journal g).isNone).length ≤ 128 ∧
      128 < (s 128).core.journal.length + ((granules 0x1F800 16).filter fun g => (FMap.find (s 128).core.journal g).isNone).length) ∧
    (∃ s2, StoreData (.quad 0) beside.begin 0 s2 ∧ NbAt 0x7C0003F0 16 s2 8 2032 ∧ (s2.base.core 8).journals 2032 16 = false) :=
  ⟨⟨_, _, rfl, rfl, by decide, by decide⟩, by decide +kernel, ⟨_, rfl, rfl, by decide⟩⟩
/-- A journaled granule; the last word of the queue image, with and without privilege, the queue stopped or not; a neighbour's journaled
window. -/
theorem test_witness_ScratchpadStores_traps :
    let s := unit 0 false fun c => { c with cr := { c.cr with reg := [(0, 2 ^ 41 + 2 ^ 38 + 1024 * 2 ^ 18)] } }
    let p (b : Bool) := unit 0 false fun c => { c with cr := { c.cr with priv := true }, mxu := { c.mxu with halted := b } }
    let j := onDev beside fun d => d.modCore 8 fun c => { c with cr := { c.cr with reg := [(15, 2 ^ 41 + 2 ^ 39 + 2 ^ 38 + 1024 * 2 ^ 18 + 1024)] } }
    (∃ s2, StoreData (.sub .w (.g 1)) s.begin 0 s2 ∧ s2.core.journals 1020 4 = true ∧ inImage 0 1020 = false) ∧
    (inImage 0 0x2FFFC = true ∧ (0x2FFFC : Word).toNat + 4 ≤ spSize 0 ∧ ∃ s2, StoreData (.sub .w (.g 1)) (regs []).begin 0 s2 ∧ s2.core.cr.priv = false) ∧
    (∀ b, ∃ s2, StoreData (.sub .w (.g 1)) (p b).begin 0 s2 ∧ s2.core.cr.priv = true ∧ s2.core.mxu.halted = b) ∧
    (∃ s2, StoreData (.sub .w (.g 1)) j.begin 0 s2 ∧ NbAt 0x7C000000 4 s2 8 1024 ∧ (s2.base.core 8).journals 1024 4 = true) :=
  ⟨⟨_, rfl, by decide, by decide⟩, ⟨by decide, by decide, _, rfl, rfl⟩, fun b => ⟨_, rfl, rfl, rfl⟩, ⟨_, rfl, rfl, by decide⟩⟩
theorem test_scratchpad_store : (stateOf (exec (.st ⟨.sub .w (.g 1), .sp .gz, 1024⟩) (regs [(1, 0x1200)])) (regs [])).core.sp = [(1025, 0x12)] ∧
    (stateOf (exec (.stFill ⟨.sub .w (.g 1), .sp .gz, 1024⟩) (regs [])) (regs [])).core.spFull = [64] ∧
    (stateOf (exec (.st ⟨.sub .w (.g 1), .sp .gz, 0x2FE00⟩) (regs [])) (regs [])).took = some .prot := by decide +kernel

/-- One read-shared object, or proposal object, over the first line. -/
def shared (mode : Nat) (prop : Bool) : State := onDev (mapped true true []) fun d => { d with objs := [⟨0, 0, 5, 0, 64, mode, prop, [(0, 0)]⟩] }

theorem test_witness_GlobalStores :
    (∃ s1 s2, StoreData (.sub .w (.g 1)) (mapped true true []).begin 0 s1 ∧ s1.stream.region.st = .closed ∧ Located 0x7FFC .wr s1 0x7FFC s2 ∧
      s2.dev.modeAt 0x7FFC ≠ some 0 ∧ Ungated s2 s2) ∧
    (∃ s0 s2 s3 s4 r i dev, StoreData (.sub .w (.g 1)) (mapped true true []).begin 0 s0 ∧ s0.core.home = none ∧ Ungated s0 s0 ∧
      Released .core s0 r i s2 ∧ Located 64 .wr s2 64 s3 ∧
      s3.dev.modeAt 64 ≠ some 0 ∧ Reached .volStore 64 s3 s4 ∧ s4.dev.locked 64 = false ∧ s4.dev.scopeCheck 64 i = some dev) ∧
    (let f (l : List Access) := (regs []).modStream fun t => { t with fenced := true, acc := l };
      (regs []).stream.fenced = false ∧ ((f []).stream.fenced = true ∧ (f []).core.storesDone (f []).hind = true) ∧
      (f [access .store]).core.storesDone (f [access .store]).hind = false) ∧
    (∃ s1 s2, StoreData (.sub .w (.g 1)) (shared 0 false).begin 0 s1 ∧ Located 60 .wr s1 60 s2 ∧ s2.dev.modeAt 60 = some 0 ∧ s2.dev.propAt 60 = false) ∧
    (∃ s2, Located 60 .wr (shared 0 true).begin 60 s2 ∧ s2.dev.propAt 60 = true) :=
  ⟨⟨_, _, rfl, rfl, rfl, by decide, rfl⟩, ⟨_, _, _, _, _, _, _, rfl, rfl, rfl, rfl, rfl, by decide, rfl, by decide, rfl⟩, by decide,
    ⟨_, _, rfl, rfl, by decide, by decide⟩, ⟨_, rfl, by decide⟩⟩
/-- A line of the write set on die 0 and on die 1; 64 lines of another address; the region failed. -/
theorem test_witness_GlobalStores_regions :
    (∃ s1 s2, StoreData (.sub .w (.g 1)) (proposing .opened [] []).begin 0 s1 ∧ s1.proposalVa 0 = true ∧ Located 0 .wr s1 0 s2) ∧
    (∃ s1 s2, StoreData (.sub .w (.g 1)) (proposing .failed [] []).begin 0 s1 ∧ s1.stream.region.st = .failed ∧ s1.proposalVa 0 = true ∧ Located 0 .wr s1 0 s2) ∧
    (homeDie 0x30000000 ≠ homeDie 0 ∧ homeDie 64 = homeDie 0 ∧ 64 ≤ (List.replicate 64 (⟨64, 64, 0, 1⟩ : WsLine)).length) :=
  ⟨⟨_, _, rfl, by decide, rfl⟩, ⟨_, _, rfl, rfl, by decide, rfl⟩, by decide⟩
/-- R216: a store of a proposal line stays in the write set, and a load there sees it; a line of another die raises SPAN. -/
theorem test_proposal_store_and_load : let s := (proposing .opened [] []).modStream fun t => { t with g := [(1, 7)] }
    let t := stateOf (exec (.st ⟨.sub .w (.g 1), .glob .gz, 4⟩) s) s
    t.dev.mem = [] ∧ t.stream.region.ws = [⟨0, 0, 7 * 2 ^ 32, 0xF0⟩] ∧ regAfter (.ld ⟨.sub .w (.g 2), .glob .gz, 4⟩) t 2 = 7 ∧
    (stateOf (exec (.st ⟨.sub .w (.g 1), .glob .gz, 4⟩) (proposing .opened [] [⟨0x30000000, 0x30000000, 0, 1⟩])) s).took = some .span := by decide +kernel
theorem test_store_to_read_shared_traps : (stateOf (exec (.st ⟨.sub .w (.g 1), .glob .gz, 60⟩) (shared 0 false)) (regs [])).took = some .prot ∧
    (stateOf (exec (.st ⟨.sub .w (.g 1), .glob .gz, 64⟩) (shared 0 false)) (regs [])).core.sentTo.length = 1 := by decide +kernel

/-- A range with one dirty copy, a clean one, and none; 2^30 + 1 bytes. -/
theorem test_witness_RangeForms :
    let cached (m : BitVec 64) := onDev (mapped true true [(3, 64)]) fun d => { d with caches := [(0, [⟨0, false, 0, m, 0⟩])] }
    (∃ l s1, rangeOf .gz (.g 3) (cached 1).begin = .ok (l, s1) ∧ lowestDirty l = some 0) ∧
    (∃ l s1 t, rangeOf .gz (.g 3) (cached 0).begin = .ok (l, s1) ∧ (l.filter fun p => p.2.mask ≠ 0) = [] ∧
      Stores (.g 1) 0 (s1.setDev (l.foldl (fun dev p => dev.dropCopy (pkgCluster 0) p.2.ln) s1.dev)) t) ∧
    (∃ s1, Reads (.g 3) (regs [(3, 0x40000001)]).begin 0x40000001 s1 ∧ s1.stream.region.st = .closed ∧ 2 ^ 30 < (0x40000001 : Word).toNat) :=
  ⟨⟨_, _, rfl, by decide⟩, ⟨_, _, _, rfl, by decide, rfl⟩, ⟨_, rfl, rfl, by decide⟩⟩

/-- Copies that can be written back at once and one that cannot; `pf` of a line homed here, at another cluster of the die, and on
die 1 with nothing and with a message on its way; of a page that does not translate, and of one whose walk has not begun. -/
theorem test_witness_RangeForms_prefetch :
    ((dirtyAway []).dev.backsReady 0 [0xC00000] = true ∧ (dirtyAway [packet 0]).dev.backsReady 0 [0xC00000] = false) ∧
    (∃ s1, Reads .gz (proposing .opened [] []).begin 0 s1 ∧ s1.barred 0 false 0) ∧
    (∃ s1, Located 0 .rd (mappedTo 0).begin 0 s1 ∧ remote 0 0 = false) ∧
    (∃ s1, Located 0 .rd (mappedTo 0x1800000).begin 0x1800000 s1 ∧ remote 0 0x1800000 = true ∧ s1.dev.copy 0 (0x1800000 / 64) = none ∧
      crosses 0 0x1800000 = false) ∧
    (∃ s1, Located 0 .rd (mappedTo 0x30000000).begin 0x30000000 s1 ∧ remote 0 0x30000000 = true ∧ s1.dev.copy 0 (0x30000000 / 64) = none ∧
      crosses 0 0x30000000 = true ∧ s1.dev.linkIdle 0 0x30000000 = true ∧ (dirtyAway [packet 0]).dev.linkIdle 0 0x30000000 = false) ∧
    globalAddr 0 .rd (unit 0 false fun c => { c with walkFail := [0] }).begin = .error (.trap .page 0) ∧
    ∃ g, globalAddr 0 .rd (regs []).begin = .error (.wait g) :=
  ⟨by decide +kernel, ⟨_, rfl, by unfold State.barred; decide⟩, ⟨_, rfl, by decide⟩, ⟨_, rfl, by decide, rfl, by decide⟩,
    ⟨_, rfl, by decide, rfl, by decide, by decide, by decide⟩, rfl, ⟨_, rfl⟩⟩

/-- `cobj` of one line with the table empty; `cfree` of an unknown handle and of a known one; the last granule and KiB. -/
theorem test_witness_ObjectsFullBitsAndTags :
    (let s := unit 0 false fun c => { c with tlb := [⟨0, 0, 0, true, true, false⟩], sp := [(8, 64), (12, 1)] }
      ∃ s1 frames, Reads .gz s.begin 0 s1 ∧ (s1.core.spNat 0 8 = 0 ∧ s1.core.spNat 8 4 = 64 ∧ s1.core.spNat 12 1 = 1 ∧ s1.core.spNat 13 1 = 0 ∧
        s1.core.spNat 14 2 = 0) ∧ s1.core.home = none ∧ (∃ s2, translatePages 0 .wr (pagesOf 0 64) s1 = .ok (frames, s2)) ∧
        s1.core.storesIn false 0 64 = false ∧ s1.dev.objs = [] ∧ s1.dev.objectQuiet ⟨0, 0, 0, 0, 64, 1, false, frames⟩ = true) ∧
    (∃ s1, Reads .gz (shared 0 false).begin 0 s1 ∧ ∀ q ∈ s1.dev.objs, ¬(q.part = s1.dev.partOfCore 0 ∧ q.handle = 0)) ∧
    (∃ q, ((shared 0 false).begin.dev.objs.find? fun q => q.part == (shared 0 false).begin.dev.partOfCore 0 && q.handle == 5) = some q ∧
      (shared 0 false).begin.core.storesIn false q.base q.len = false ∧ (shared 0 false).begin.dev.objectQuiet q = true) ∧
    ((0x2FFF0 : Word).toNat % 16 = 0 ∧ (0x2FFF0 : Word).toNat + 16 ≤ spSize 0 ∧ (regs []).core.journals 0x2FFF0 16 = false) ∧
    ((0x2FC00 : Word).toNat % 1024 = 0 ∧ (0x2FC00 : Word).toNat + 1024 ≤ spSize 0 ∧ (regs []).core.journals 0x2FC00 1024 = false) :=
  ⟨⟨_, _, rfl, by decide, rfl, ⟨_, rfl⟩, by decide, rfl, by decide⟩, ⟨_, rfl, by decide⟩, ⟨_, rfl, by decide⟩, by decide, by decide⟩
theorem test_witness_ObjectsFullBitsAndTags_traps :
    let s := unit 0 false fun c => { c with cr := { c.cr with reg := [(0, 2 ^ 41 + 2 ^ 38 + 1024 * 2 ^ 18)] } }
    (s.core.journals 1008 16 = true ∧ s.core.journals 0 1024 = true) ∧ (8 : Word).toNat % 16 ≠ 0 ∧ spSize 0 < (0x30000 : Word).toNat + 16 ∧
    spSize 0 < (0x30000 : Word).toNat + 1024 ∧ (512 : Word).toNat % 1024 ≠ 0 := by decide
theorem test_full_bits_and_tags : (stateOf (exec (.fset ⟨.gz, 0x2FFF0⟩) (regs [])) (regs [])).core.spFull = [0x2FFF] ∧
    (stateOf (exec (.ltag ⟨.gz, .g 1, 1024⟩) (regs [(1, 3)])) (regs [])).core.spTag = [(1, 3)] ∧
    (stateOf (exec (.cfree .gz) (regs [])) (regs [])).took = some .cobj := by decide +kernel

/-! ## Class 3 -/

theorem test_witness_ReleasesAndFences :
    let busy := (regs []).modStream fun t => { t with acc := [access .store] }
    let asked (a : Bool) := unit 0 false fun c => { c with queries := [⟨false, 3, .die, .die 0, a, false⟩] }
    ((regs []).dev.allDone 0 false = true ∧ (regs []).core.loadsDone false = true) ∧ busy.dev.allDone 0 false = false ∧
    (onDev beside fun d => d.modCore 8 fun c => { c with nbq := [⟨0, false, 1024, 4, 0, true, false⟩] }).dev.allDone 0 false = false ∧
    ((asked true).dev.allDone 0 false = true ∧ ∃ q, (asked true).core.queries.find? (fun q => q.hind == false && q.answered && !q.abandoned) = some q) ∧
    (∃ q ∈ (asked false).core.queries, q.answered = false) ∧
    (∃ r i s1 t, Released .core (regs []).begin r i s1 ∧ Stores (.g 1) r s1 t) ∧ (∃ i s1, Released .stream busy.begin 0 i s1 ∧
      s1.core.storesDone s1.hind = false) ∧ Released .stream (regs []).begin 0 (.stream 0 false)
      ((regs []).begin.modCore fun c => { c with round := (c.round + 1) % 2 ^ 32 }) :=
  ⟨by decide, by decide, by decide +kernel, ⟨by decide, _, rfl⟩, ⟨_, List.mem_cons_self, rfl⟩, ⟨_, _, _, _, rfl, rfl⟩, ⟨_, _, rfl, by decide⟩, rfl⟩
/-- A release whose write-backs can go at once and one whose cannot; every form of the class in a region. -/
theorem test_witness_ReleasesAndFences_waits :
    let ready (s : State) := s.dev.backsReady (pkgCluster 0) (s.dev.releasedLines 0 .sys)
    ready (dirtyAway []) = true ∧ ready (dirtyAway [packet 0]) = false ∧ (proposing .opened [] []).begin.barred 0 false 0 ∧
    (proposing .postDraw [] []).begin.barred 0 false 1 := by unfold State.barred; decide +kernel
/-- R92: after `fence.rel.stream` the next store waits for the one before it; nothing else does. -/
theorem test_fence_rel_stream : let s := (mapped true true []).modStream fun t => { t with acc := [access .store] }
    let t := stateOf (exec (.fenceRel .stream) s) s
    t.stream.fenced = true ∧ t.core.round = 1 ∧ t.blocked = false ∧
    (stateOf (exec (.st ⟨.sub .w (.g 1), .glob .gz, 0⟩) t) s).blocked = true ∧
    (stateOf (exec (.ld ⟨.sub .w (.g 1), .glob .gz, 0⟩) t) s).blocked = false := by decide +kernel
/-- Released at core scope and relaxed; a compare that matches; a line that another region has locked. -/
theorem test_witness_Atomics :
    let s := mapped true true [(1, 7)]
    (s.begin.stream.region.st = .closed ∧ s.begin.core.home = none ∧ Ungated s.begin s.begin) ∧
    (∃ s1 s2 s3 s4 i dev, Reads (.g 1) s.begin 7 s1 ∧ Ordered .ar .core s1 i s2 ∧ Located 0 .wr s2 0 s3 ∧
      s3.dev.modeAt 0 ≠ some 0 ∧ Reached .volStore 0 s3 s4 ∧ s4.dev.locked 0 = false ∧ s4.dev.loadBad 0 0 4 true = none ∧
      s4.dev.scopeCheck 0 i = some dev ∧
      ∃ t, Stores (.g 2) 0 (s4.setDev (((dev.loadHome 0 0 4).2.prqInterrupt 0).storeHome 0 0 (leBytes 4 7))) t) ∧
    (∃ s3 s4 dev, Ordered .acq .sys s.begin (s.begin.scopeInst .sys) s.begin ∧ Located 0x7FF8 .wr s.begin 0x7FF8 s3 ∧ s3.dev.modeAt 0x7FF8 ≠ some 0 ∧
      Reached .volStore 0x7FF8 s3 s4 ∧ s4.dev.locked 0x7FF8 = false ∧ s4.dev.loadBad 0 0x7FF8 8 true = none ∧
      s4.dev.scopeCheck 0x7FF8 (s.begin.scopeInst .sys) = some dev) ∧
    (∃ s0 s1 s3 s4 dev, Reads .gz s.begin 0 s0 ∧ Reads (.g 1) s0 7 s1 ∧ Ordered .relaxed .stream s1 (s1.scopeInst .stream) s1 ∧
      Located 0 .wr s1 0 s3 ∧ Reached .volStore 0 s3 s4 ∧ s4.dev.scopeCheck 0 (s1.scopeInst .stream) = some dev ∧
      (dev.loadHome 0 0 4).1 = 0 ∧ ∃ t, Stores (.g 2) 0 (s4.setDev (((dev.loadHome 0 0 4).2.prqInterrupt 0).storeHome 0 0 (leBytes 4 7))) t) ∧
    (let u := onDev s fun d => { d with locks := [(0, ⟨some (8, false), []⟩)] }
      ∃ s1 s2 s3 s4 r i, Reads (.g 1) u.begin 7 s1 ∧ Released .core s1 r i s2 ∧ Ordered .rel .core s1 i s2 ∧ Located 0 .wr s2 0 s3 ∧
        s3.dev.modeAt 0 ≠ some 0 ∧ Reached .volStore 0 s3 s4 ∧ s4.dev.locked 0 = true) :=
  ⟨⟨rfl, rfl, rfl⟩, ⟨_, _, _, _, _, _, rfl, .inl ⟨.inr rfl, _, rfl⟩, rfl, by decide, rfl, by decide, rfl, rfl, performs_of_ends (by decide +kernel)⟩,
    ⟨_, _, _, .inr ⟨.inr rfl, rfl, rfl⟩, rfl, by decide, rfl, by decide, rfl, rfl⟩,
    ⟨_, _, _, _, _, rfl, rfl, .inr ⟨.inl rfl, rfl, rfl⟩, rfl, rfl, rfl, by decide +kernel, performs_of_ends (by decide +kernel)⟩,
    ⟨_, _, _, _, _, _, rfl, rfl, .inl ⟨.inl rfl, _, rfl⟩, rfl, by decide, rfl, by decide⟩⟩
/-- A poisoned granule at its place, a scope that another stream has, a region, and a misaligned address. -/
theorem test_witness_Atomics_traps :
    let i : Instr := .cas ⟨.w (.g 2) .gz (.g 1) (.g 1), .acq, .stream⟩
    let s := onDev (mapped true true []) fun d => { d with memPoison := [0], scopes := [(1, .stream 8 false)] }
    atomShape i = some (.acq, .stream, .gz, 4, [.g 1, .g 1]) ∧ ReadsAll [.g 1, .g 1] s.begin s.begin ∧
    Ordered .acq .stream s.begin (.stream 0 false) s.begin ∧ s.dev.loadBad 0 0 4 true = some 0 ∧ s.dev.loadBad 0 64 4 true = none ∧
    s.dev.scopeCheck 64 (.stream 0 false) = none ∧ (proposing .opened [] []).begin.barred 0 false 0 ∧ (2 : Nat) % 4 ≠ 0 :=
  ⟨rfl, ⟨_, _, rfl, _, _, rfl, rfl⟩, .inr ⟨.inr rfl, rfl, rfl⟩, by decide, by decide, rfl, by unfold State.barred; decide, by decide⟩
/-- R91: the old value is delivered and the new one is at the home. -/
theorem test_amo_and_cas : (stateOf (exec (.amoSwap ⟨.w (.g 2) .gz (.g 1), .relaxed, .sys⟩) (mapped true true [(1, 7)])) (regs [])).dev.mem = [(0, 7)] ∧
    (stateOf (exec (.cas ⟨.w (.g 2) .gz (.g 1) (.g 1), .relaxed, .sys⟩) (mapped true true [(1, 7)])) (regs [])).dev.mem = [] := by decide +kernel

/-! ## Classes 5 and 6 -/

/-- Row 1 holds 1 and 0x80000000 in its first two elements; row 5 is a predicate with element 0 alone. -/
def rows : State := unit 0 false fun c => { c with rows := [(1, 0x8000000000000001), (5, 1)] }

theorem test_witness_VectorArithmetic :
    (Instr.vadd ⟨.i32, .v 127, .v 1, .imm, some 5, 0xFFFFFFFF⟩).wf = true ∧ typeFits rows.begin.acct .i32 = true ∧ typeFits rows.begin.acct .f32 = true ∧
    rows.begin.rowsFree ([127] ++ [1] ++ [] ++ [5]) ∧
    VReads rows.begin.acct (.v 1) 0 rows.begin (rows.begin.rowVals 1) rows.begin ∧
    VReads rows.begin.acct .imm 0xFFFFFFFF rows.begin (List.replicate 128 0xFFFFFFFF) rows.begin ∧
    (∃ t, Performs (writeVec rows.begin.acct .i32 (.v 127) 0 (rows.begin.activeElems (some 5)) (rows.begin.rowVals 1)
      (rows.begin.anyBad [1, 5])) (rows.begin.raise 0) t) ∧
    (∃ t, Performs (writeVec beside.begin.acct .i32 (.win .e 15) 0 (beside.begin.activeElems none) (beside.begin.rowVals 1) false) beside.begin t) ∧
    srcRows (.v 1) ≠ [] :=
  ⟨rfl, rfl, rfl, by unfold State.rowsFree; decide, rfl, rfl, performs_of_ends (by decide +kernel), performs_of_ends (by decide +kernel), by decide⟩
/-- R131, R132: only the active element changes; −2^31 + −1 wraps. -/
theorem test_vadd_active_elements : (stateOf (exec (.vadd ⟨.i32, .v 2, .v 1, .imm, some 5, 1⟩) rows) rows).core.row 0 2 = 2 ∧
    (stateOf (exec (.vadd ⟨.i32, .v 2, .v 1, .imm, none, 0xFFFFFFFF⟩) rows) rows).core.row 0 2 % 2 ^ 64 = 0x7FFFFFFF00000000 := by decide +kernel
theorem test_vceq_and_vmov : (stateOf (exec (.vceq ⟨.i32, .v 2, .v 1, .imm, none, 1⟩) rows) rows).core.row 0 2 = 1 ∧
    (stateOf (exec (.vmov ⟨.i32, .v 2, .v 1, none, 0⟩) rows) rows).core.row 0 2 = 0x8000000000000001 := by decide +kernel
theorem test_witness_VectorUnaryForms : typeFits rows.begin.acct .bf16 = true ∧ rows.begin.rowsFree ([2] ++ [1] ++ [5]) ∧
    VReads rows.begin.acct (.v 1) 0 rows.begin (rows.begin.rowVals 1) rows.begin ∧
    (∃ t, Performs (writeVec rows.begin.acct .f32 (.v 2) 0 (rows.begin.activeElems (some 5)) (rows.begin.rowVals 1) (rows.begin.anyBad [1, 5]))
      (rows.begin.raise 0) t) ∧
    (∃ t, Performs (writeVec rows.begin.acct .bf16 (.v 2) 0 (rows.begin.activeElems none) (rows.begin.rowVals 1) (rows.begin.anyBad [1]))
      (rows.begin.raise 0) t) :=
  ⟨rfl, by unfold State.rowsFree; decide, rfl, performs_of_ends (by decide +kernel), performs_of_ends (by decide +kernel)⟩
/-- 2^15, 0.5, 3 and 2: exact results, results out of every format, and results that the precision decides. -/
theorem test_witness_VectorUnaryForms_special :
    (∃ m e, unpack fp32 0x47000000 = .fin false m e ∧ m ≠ 0) ∧ (∃ m e, unpack fp32 0x3F000000 = .fin false m e ∧ m ≠ 0) ∧
    (∃ p ∈ precisions, ((exp2Encl false 1 (-1) p).decide fp32 .rne false).isSome = true) ∧
    (∃ p ∈ precisions, ((log2Encl 3 0 p).decide fp32 .rne (log2Neg 3 0)).isSome = true) ∧
    (∃ p ∈ precisions, ((tanhEncl 1 (min (-1) 16) p).decide fp32 .rne false).isSome = true) ∧
    ((1 : ℝ) * (2 : Nat) * 2 ^ (0 : ℤ) = (2 : ℤ) ∧ (1 : ℝ) * (2 : Nat) * 2 ^ (0 : ℤ) = 2 ^ (1 : ℤ)) :=
  ⟨⟨_, _, rfl, by decide⟩, ⟨_, _, rfl, by decide⟩, ⟨160, by decide, by decide +kernel⟩, ⟨160, by decide, by decide +kernel⟩, ⟨160, by decide, by decide +kernel⟩, by norm_num⟩
theorem test_vneg_and_vabs : (stateOf (exec (.vneg ⟨.i32, .v 2, .v 1, none, 0⟩) rows) rows).core.row 0 2 = 0x80000000FFFFFFFF ∧
    (stateOf (exec (.vabs ⟨.i32, .v 2, .v 1, none, 0⟩) rows) rows).core.row 0 2 = 0x8000000000000001 := by decide +kernel
/-- The last row that fits; `vgath` and `vscat` with an element at the last word, under a predicate that leaves one active. -/
theorem test_witness_VectorMemoryForms :
    (Reads (.g 1) (regs [(1, 0x2FE00)]).begin 0x2FE00 (regs [(1, 0x2FE00)]).begin ∧ contN (regs []).acct * VTy.width .i32 / 8 = 512 ∧
      (0x2FE00 + 0 : Word).toNat % 16 = 0 ∧ (0x2FE00 + 0 : Word).toNat + 512 ≤ spSize 0) ∧
    ((VTy.i32 : VTy) = (if (regs []).begin.acct then .i16 else .i32) ∧ contN (regs []).acct / 8 = 16) ∧
    (∃ t, Performs ((runsOf 1024 (elementBytes 32 (rows.begin.activeElems (some 5)) (rows.begin.rowVals 1)) none).forM fun r =>
      spWriteIn (rows.begin.core.journals 1024 512) r.1 r.2 false (rows.begin.anyBad [1, 5])) rows.begin t) ∧
    (∃ t, Performs ([0x2FFFC].forM fun p => spDisc p 4) rows.begin t) ∧
    (∃ t, Performs ((([0x2FDFC].zip ([true].zip [1])).filter (·.2.1)).forM fun p =>
      spWriteIn ([0x2FDFC].any fun q => rows.begin.core.journals q 4) p.1 (leBytes 4 p.2.2) false false) rows.begin t) :=
  ⟨⟨rfl, rfl, by decide, by decide⟩, ⟨rfl, rfl⟩, performs_of_ends (by decide +kernel), performs_of_ends (by decide +kernel),
    performs_of_ends (by decide +kernel)⟩
theorem test_vst_stores_active_bytes : (stateOf (exec (.vst ⟨.i32, .gz, 1, some 5, 1024⟩) rows) rows).core.sp = [(1024, 1)] := by decide +kernel
/-- R101, R132: a NaN that `vsel` delivers is the canonical one, and one that `vmov` moves stays. -/
def nans : State := unit 0 false fun c => { c with rows := [(1, 0x7F8000013F800000FFC00001), (5, 5)] }
theorem test_witness_VectorArithmetic_select : VReads nans.begin.acct (.v 1) 0 nans.begin (nans.begin.rowVals 1) nans.begin ∧ nans.begin.rowsFree ([2] ++ [1] ++ [1] ++ [5] ++ [5]) ∧
    ∃ t, Performs (writeVec nans.begin.acct .f32 (.v 2) 0 (nans.begin.activeElems (some 5)) (nans.begin.rowVals 1) (nans.begin.anyBad [1, 1, 5, 5]))
      (nans.begin.raise flagNV) t :=
  ⟨rfl, by unfold State.rowsFree; decide, performs_of_ends (by decide +kernel)⟩
theorem test_vsel_nan : (stateOf (exec (.vsel ⟨.f32, .v 2, .v 1, .v 1, 1, none, 0⟩) nans) nans).core.row 0 2 = 0x7FC000003F8000007FC00000 ∧
    (stateOf (exec (.vmov ⟨.f32, .v 2, .v 1, none, 0⟩) nans) nans).core.row 0 2 = 0x7F8000013F800000FFC00001 := by decide +kernel
/-- R139: the greatest element that is no NaN, with NV for the signalling one; the canonical NaN at the lowest active index
where every active element is one. -/
theorem test_vmaxr_nan : let s := stateOf (exec (.vmaxr ⟨.f32, 2, 1, none⟩) nans) nans
    let t := stateOf (exec (.vmaxr ⟨.f32, 2, 1, some 5⟩) nans) nans
    s.core.row 0 2 % 2 ^ 64 = 0x13F800000 ∧ s.stream.latch 0 = 1 ∧ s.core.cr.fflags = flagNV ∧
    t.core.row 0 2 % 2 ^ 64 = 0x7FC00000 ∧ t.stream.latch 0 = 0 := by decide +kernel

/-- The operands of R141's two examples, in v1 and v2: `vresid` with a positive difference, and without one. -/
def residuals (k : Nat) : State := unit 0 false fun c => { c with rows :=
  [(1, 0x3E8000003E8000003F000000), (2, if k = 0 then 0x3E0000003F0000003E800000 else 0x3E8000003E8000003F000000)] }

/-- A predicate with an active element and one without; an integer and a float type. -/
theorem test_witness_VectorReductions : typeFits rows.begin.acct .i32 = true ∧ (VTy.isInt .i32 = true ∧ VTy.isInt .f32 = false) ∧
    rows.begin.rowsFree ([2, 1] ++ [5]) ∧ (∀ r ∈ [1, 5], rows.begin.baseCore.rowBad r = false) ∧ (rows.begin.activeElems (some 5)).any id = true ∧
    (rows.begin.activeElems (some 9)).all (! ·) = true ∧
    (∀ r ∈ [1, 2], (residuals 0).begin.baseCore.rowBad r = false) :=
  ⟨rfl, by decide, by unfold State.rowsFree; decide, by decide, by decide +kernel, by decide +kernel, by decide⟩
/-- R138 to R140: the sum modulo 2^32 and the greatest element's index reach the latch. -/
theorem test_reductions : (stateOf (exec (.vsum ⟨.i32, 2, 1, none⟩) rows) rows).stream.latch 0 = 0x80000001 ∧
    (stateOf (exec (.vmaxr ⟨.i32, 2, 1, none⟩) rows) rows).stream.latch 0 = 0 ∧
    (stateOf (exec (.vpop ⟨.i32, 2, 1, none⟩) rows) rows).stream.latch 0 = 2 := by decide +kernel
/-- R141's table, with its latch values. -/
theorem test_vresid_residual : let t := stateOf (exec (.vresid ⟨.f32, 3, 1, 2, none⟩) (residuals 0)) (residuals 0)
    t.core.row 0 3 = 0x3E000000000000003E800000 ∧ t.stream.latch 0 = 0x3EC00000 ∧ t.core.cr.rzero = 0 := by decide +kernel
theorem test_vresid_falls_back : let t := stateOf (exec (.vresid ⟨.f32, 3, 1, 2, none⟩) (residuals 1)) (residuals 1)
    t.core.row 0 3 = 0x3E8000003E8000003F000000 ∧ t.stream.latch 0 = 0xBF800000 ∧ t.core.cr.rzero = 1 := by decide +kernel
/-- Tape mode with a tape of one word, and of none, for lane 0, which is the active one. -/
def taped (len : Nat) : State := rows.modCore fun c => { c with cr := { c.cr with
  rngmode := true, reg := [(0, BitVec.ofNat 64 (2 ^ 41 + 2 ^ 40 + len * 2 ^ 18 + 1024))] }, sp := [(1024, 7)] }
theorem test_witness_DrawsAndGenerators : rows.begin.acct = false ∧ rows.begin.baseCore.cr.rngmode = false ∧ rows.begin.rowsFree ([127] ++ [5]) ∧
    (let active := rows.begin.activeElems (some 5); rows.begin.LaneDraws active ((List.range 128).map fun i => if i = 0 then genOut 0 0 else 0) ∧
      ∃ t, Performs (writeVec false .i32 (.v 127) 0 active (rows.begin.rowVals 1) (rows.begin.anyBad [5])) (rows.begin.lanesDrawn active) t) ∧
    isMoraine rows.me = false ∧
    (let p := unit 0 false fun c => { c with cr := { c.cr with priv := true } };
      p.begin.baseCore.cr.priv = true ∧ ∃ s1 s2, Reads (.g 1) p.begin 0 s1 ∧ Reads (.g 2) s1 0 s2) :=
  ⟨rfl, rfl, by unfold State.rowsFree; decide, ⟨by unfold State.LaneDraws State.Draws; decide +kernel, performs_of_ends (by decide +kernel)⟩, by decide,
    ⟨rfl, _, _, rfl, rfl⟩⟩
theorem test_witness_DrawsAndGenerators_tape :
    ((taped 16).begin.baseCore.cr.rngmode = true ∧ ((taped 16).begin.activeElems (some 5)).getD 0 false = true ∧
      (taped 16).begin.baseCore.tapeHolds ((taped 16).begin.laneCore.lane 0 0).idx = true) ∧
    (∃ a, (taped 16).begin.baseCore.tapeArea = some a ∧ 4 * 0 + 4 ≤ a.len ∧ (taped 16).begin.baseCore.spNat a.base 4 = 7) ∧
    (rows.begin.baseCore.tapeHolds (rows.begin.laneCore.lane 0 0).idx = false) := ⟨by decide +kernel, ⟨_, rfl, by decide, by decide +kernel⟩, by decide +kernel⟩
/-- R152: a draw in tape mode gives the tape's word; R152: past its end, BOUND with the index. -/
theorem test_tape : (stateOf (exec (.vrand ⟨.i32, .v 2, some 5, 0⟩) (taped 16)) rows).core.row 0 2 = 7 ∧
    (let s := (taped 16).modCore fun c => c.setLane 0 ⟨0, 0, 4⟩
      let t := stateOf (exec (.vrand ⟨.i32, .v 2, some 5, 0⟩) s) rows; t.took = some .bound ∧ (t.core.cr.tval = 4 ∨ t.core.stopped = true)) := by decide +kernel
/-- R147: a draw moves the counters of the active lanes on, and no other. -/
theorem test_vrand_moves_active_lanes : ((stateOf (exec (.vrand ⟨.i32, .v 2, some 5, 0⟩) rows) rows).core.lane 0 0).ctr = 1 ∧
    ((stateOf (exec (.vrand ⟨.i32, .v 2, some 5, 0⟩) rows) rows).core.lane 0 1).ctr = 0 := by decide +kernel

/-! ## Class 7 -/

/-- A core with shapes `v` and `w` for tiles 0 and 1. -/
def shaped (id : Nat) (v w : Word) (f : Core → Core) : State :=
  unit id false fun c => f { c with cr := { c.cr with tshp := [(0, v), (1, w)] } }

/-- 8 × 8 BF16 in row-major order, with its span full; the same with a tag 1 on its KiB; empty. -/
theorem test_witness_TileLoadsAndStores :
    let s := shaped 0 0x00070730 0 fun c => { c with spFull := [0, 1, 2, 3, 4, 5, 6, 7] }
    shapeOk 0x00070730 = true ∧ s.begin.shapeWord 0 = 0x00070730 ∧ s.begin.tileFree 0 ∧ (∃ s1, Reads .gz s.begin 0 s1) ∧
    (0 : Word).toNat % 64 = 0 ∧ (shapeOf 0x00070730).rows * (shapeOf 0x00070730).cols * (shapeOf 0x00070730).b = 128 ∧
    s.core.journals 0 128 = false ∧ s.core.allFull 0 0 128 = true ∧ (∀ k ∈ kibs 0 128, (s.core.seenTag k).toNat = (shapeOf 0x00070730).layout) ∧
    s.begin.rowsFree [64] ∧ inImage 0 0x26000 = false ∧ inImage 0 (0x26000 + 32767) = false ∧ (regs []).core.allFull 0 0 128 = false ∧
    (let t := shaped 0 0x00070730 0 fun c => { c with spTag := [(0, 1)] };
      0 ∈ kibs 0 128 ∧ (t.core.seenTag 0).toNat ≠ (shapeOf 0x00070730).layout ∧ ∀ j ∈ kibs 0 128, j < 0 → (t.core.seenTag j).toNat = 0) :=
  ⟨by decide, rfl, rfl, ⟨_, rfl⟩, by decide, by decide, by decide, by decide, by decide, by unfold State.rowsFree; decide, by decide, by decide,
    by decide, by decide⟩
/-- A tile without a shape; each form that moves one, an exponent vector or an accumulator; a journaled span, and one that ends in the
queue image. -/
theorem test_witness_TileLoadsAndStores_traps :
    let s := shaped 0 0x00070730 0 fun c => { c with cr := { c.cr with reg := [(0, 2 ^ 41 + 2 ^ 38 + 1024 * 2 ^ 18)] } }
    shapeOk ((shaped 0 0x01070730 0 id).begin.shapeWord 0) = false ∧ s.core.journals 896 128 = true ∧
    s.begin.tileMove (.tld ⟨0, .gz, 0, true⟩) .gz 0 128 true false ∧ s.begin.tileMove (.texp ⟨0, .gz, 0, true⟩) .gz 0 64 true false ∧
    s.begin.tileMove (.tst ⟨.gz, .tile 0, 0, true⟩) .gz 0 128 false true ∧ s.begin.tileMove (.tst ⟨.gz, .acc 1, 0, true⟩) .gz 0 32768 false true ∧
    (s.core.journals 0x28000 32768 = false ∧ s.core.cr.priv = false ∧ inImage 0 (0x28000 + 32768 - 1) = true) :=
  ⟨by decide, by decide, .inl ⟨0, rfl, rfl, by decide, rfl⟩, .inr (.inl ⟨0, rfl, rfl, rfl, rfl⟩),
    .inr (.inr (.inl ⟨0, true, rfl, rfl, rfl, by decide, rfl⟩)),
    .inr (.inr (.inr ⟨1, true, rfl, rfl, rfl, rfl, by unfold State.rowsFree; decide⟩)), by decide⟩
/-- R173: a byte of the scratchpad reaches its place in the tile; a tag of another layout traps. -/
theorem test_tld : let f (t : FMap (BitVec 4)) := shaped 0 0x00070730 0 fun c => { c with spFull := [0, 1, 2, 3, 4, 5, 6, 7], sp := [(3, 9)], spTag := t }
    (stateOf (exec (.tld ⟨0, .gz, 0, false⟩) (f [])) (f [])).core.tile 0 = [(3, 9)] ∧
    (stateOf (exec (.tld ⟨0, .gz, 0, false⟩) (f [(0, 1)])) (f [])).took = some .layout := by decide +kernel

/-- An F-core with the largest weights, 64 × 32 BF16, and 64 rows; an S-core with 128 × 128 PS8; M of 0, 1, 64 and 65. -/
theorem test_witness_MatrixCommands :
    (shapeOk 0x001F3F30 = true ∧ (shapeOf 0x001F3F30).ty = fmtCode .bf16 ∧ (shapeOf 0x001F3F30).rows ≤ 64 ∧ (shapeOf 0x001F3F30).cols ≤ 32 ∧
      isSCore 0 = false ∧ (shaped 0 0x001F3F30 0 id).begin.acct = false ∧ (shaped 0 0x001F3F30 0 id).begin.core.mxu.cmds.length < 8) ∧
    (shapeOk 0x007F7F60 = true ∧ (shapeOf 0x007F7F60).ty = fmtCode .ps8 ∧ (shapeOf 0x007F7F60).rows ≤ 128 ∧ isSCore 128 = true) ∧
    (let s := shaped 0 0x001F3F30 0x003F3F30 fun c => { c with mxu := { c.mxu with issued := some (3, 0x001F3F30) } };
      shapeOk 0x003F3F30 = true ∧ s.begin.core.mxu.issued = some (3, 0x001F3F30) ∧ (shapeOf 0x003F3F30).cols = (shapeOf 0x001F3F30).rows ∧
      (3 : BitVec 4).toNat = fmtCode .bf16 ∧ ReadsI (.imm 64) s.begin 64 s.begin ∧ (64 : Word).toNat ≤ (shapeOf 0x003F3F30).rows) ∧
    (let s := onDev (unit 0 false id) fun d => { d with slots := [(1, ⟨0x20000, 0, 3, 0, true, false⟩)] };
      ∃ nb team, neighbour 0 .e = some nb ∧ s.base.teamOf 0 = some team ∧ nb ∈ team.2.members (dieOf 0)) ∧
    ((shaped 128 0 0x003F7F50 id).begin.core.mxu.issued = none ∧ shapeOk 0x007F7F50 = true ∧ (shapeOf 0x007F7F50).ty = fmtCode .i8 ∧
      (shapeOf 0x007F7F50).cols = (shapeOf 0x007F7F60).rows ∧ (64 < (65 : Word).toNat)) := by
  refine ⟨by decide, by decide, ⟨by decide, rfl, by decide, by decide, rfl, by decide⟩, ⟨8, _, by decide, rfl, by decide⟩, by decide⟩
theorem test_mma_needs_mwl : (stateOf (exec (.mma ⟨.i8, 0, 1, .g 1, 0, 7⟩) (shaped 128 0 0x007F7F50 id)) (regs [])).took = some .illop ∧
    ((stateOf (exec (.mwl ⟨.ps8, 0, 7⟩) (shaped 128 0x007F7F60 0 id)) (regs [])).core.mxu.cmds.map (·.tag)) = [7] := by decide +kernel

/-- All 64 rows; BF16 from integers with `k.acct`, which a tile's exponents need, and FP32 without. -/
theorem test_witness_AccumulatorConversion :
    (let s := unit 0 false fun c => { c with cr := { c.cr with acct := true }, fore := { c.fore with g := [(1, 64)] } };
      (s.begin.acct = true → (some (0 : Fin 8)).isSome = true ∧ true = true) ∧ s.begin.rowsFree [64 * 0, 64 * 1] ∧ s.begin.tileFree 0 ∧
      Reads (.g 1) s.begin 64 s.begin ∧ 1 ≤ (64 : Word).toNat ∧ (64 : Word).toNat ≤ 64) ∧
    (∃ s1, Reads (.g 1) (regs [(1, 1)]).begin 1 s1 ∧ (regs [(1, 1)]).begin.acct = false ∧ s1.acct = false) :=
  ⟨⟨fun _ => ⟨rfl, rfl⟩, by unfold State.rowsFree; decide, rfl, rfl, by decide, by decide⟩, ⟨_, rfl, rfl, rfl⟩⟩
theorem test_witness_AccumulatorConversion_shape :
    shapeOk ((unit 0 false fun c => { c with cr := { c.cr with acct := true } }).begin.shapeWord 0) = true ∧
    shapeOk ((shaped 0 0x01070730 0 id).begin.shapeWord 0) = false ∧ shapeOk ((unit 128 false id).begin.shapeWord 7) = true ∧
    shapeOk ((shaped 128 0x01070730 0 id).begin.shapeWord 0) = false := by decide
theorem test_mcvt_and_bsum_shape : let s := shaped 128 0x01070730 0 id
    (stateOf (exec (.mcvt ⟨true, 0, 1, .gz, some 0⟩) s) s).took = some .illop ∧ (stateOf (exec (.bsum ⟨0, 0, some 0⟩) s) s).took = some .illop := by decide +kernel
/-- R182: exponents −1,024 and 1,023, and beyond each. R181: element 127 of row 63. -/
theorem test_witness_BlockSums :
    (∃ s1 s2, Reads (.g 10) (regs [(11, 0xFFFFFC00)]).begin 0 s1 ∧ Reads (.g 11) s1 0xFFFFFC00 s2 ∧ -1024 ≤ (0xFFFFFC00 : Word).toInt) ∧
    ((0xFFFFFBFF : Word).toInt < -1024 ∧ 1023 < (1024 : Word).toInt ∧ (1023 : Word).toInt ≤ 1023) ∧
    (∃ t, Stores (.g 10) 0 ((regs []).begin.raise 0) t) ∧
    (let s := unit 128 false fun c => { c with fore := { c.fore with g := [(0, 0x7F3F), (1, 0)] } };
      isSCore 128 = true ∧ isMoraine 128 = false ∧ (0x7F3F : Word).toNat / 256 % 256 < contN s.begin.acct ∧ s.begin.rowsFree [63] ∧
      s.begin.baseCore.rowBad 63 = false ∧ s.begin.mayRequest ∧ isCore 0 = true ∧ s.begin.mayName 0 ∧ s.begin.tileFree 7 ∧
      (s.begin.core.netQueue 0).length < 8) := by
  refine ⟨⟨_, _, rfl, rfl, by decide⟩, by decide, ⟨_, rfl⟩, by decide, by decide, by decide, by unfold State.rowsFree; decide, by decide, ?_, by decide, .inr (by decide),
    rfl, by decide⟩
  intro a h; cases h; decide +kernel
/-- R181: one record on the request network. R182: the value is aligned to the lower exponent, −1: 1 × 2^0 + 3 × 2^−1 = 5 × 2^−1. -/
theorem test_bsum_and_bacc : (((stateOf (exec (.bsum ⟨0, 0, none⟩) (unit 128 false id)) (unit 128 false id)).core.netQueue 0).length = 1) ∧
    (let t := stateOf (exec (.baccI32 ⟨2, .g 10, .g 11⟩) (regs [(4, 1), (10, 3), (11, 0xFFFFFFFF)])) (regs []);
      t.stream.reg 4 = 5 ∧ t.stream.reg 5 = 0 ∧ t.stream.reg 6 = 0xFFFFFFFF) := by decide +kernel
theorem test_witness_MatrixSyncStatusAndTiles :
    let c : MxCmd := ⟨5, 0, false, 7, false, false, 0xB0, 0, 0, 0, 0, 0, 0⟩
    let s (n q : Nat) (w : Option Nat) := unit 0 false fun k => { k with mxu := { k.mxu with cmds := List.replicate n c, queued := q }, fore := { k.fore with syncAt := w } }
    (s 0 1 none).begin.stream.syncAt = none ∧ (s 0 1 none).begin.core.mxu.cmds = [] ∧ (s 1 1 none).begin.core.mxu.cmds ≠ [] ∧
    ((s 0 1 (some 1)).begin.stream.syncAt = some 1 ∧ 1 ≤ (s 0 1 (some 1)).begin.core.mxu.queued - (s 0 1 (some 1)).begin.core.mxu.cmds.length) ∧
    ((s 1 1 (some 1)).begin.core.mxu.queued - (s 1 1 (some 1)).begin.core.mxu.cmds.length < 1) ∧
    (regs []).begin.tileFree 0 ∧ (regs []).begin.tileFree 7 ∧ (regs []).pair = none ∧
    ∃ t, Stores (.g 1) (mstatWord (regs []).begin.baseCore.mxu 0 false) (regs []).begin t :=
  ⟨rfl, rfl, by decide, by decide, by decide, rfl, rfl, rfl, _, rfl⟩

/-! ## Class 8 -/

/-- A core whose fore stream has the region `r`. -/
def inRegion (r : Region) : State := mapped true true [] |>.modStream fun t => { t with region := r }

theorem test_witness_ProposalRegions :
    (∀ st ∈ [RegionSt.closed, .opened, .failed, .postDraw], (inRegion ⟨st, [], [], none, none, 0, none⟩).begin.stream.region.st = st) ∧
    (inRegion Region.reset).begin.core.storesDone false = true ∧
    ((inRegion Region.reset).modStream fun t => { t with acc := [access .store] }).begin.core.storesDone false = false ∧
    (∃ t, Stores (.g 1) (Region.reset).status (regs []).begin t) ∧ ∃ t, Stores (.g 1) 0x00400100 (regs []).begin t :=
  ⟨by decide, by decide, by decide, ⟨_, rfl⟩, ⟨_, rfl⟩⟩
/-- A failed region; one whose line has a newer version; one whose write set is empty and one that writes a line. -/
theorem test_witness_ProposalCommit :
    let stale : Region := ⟨.opened, [⟨0, 0, 0⟩], [], some 1, none, 0, none⟩
    let fresh : Region := ⟨.opened, [], [⟨0, 0, 0, 1⟩], some 1, none, 0, none⟩
    (∃ s1 t, Reads .gz (inRegion ⟨.failed, [], [], none, none, 0, none⟩).begin 0 s1 ∧ Stores (.g 1) 3 (s1.withRegion (closedWith 4)) t) ∧
    (let s := onDev (inRegion stale) fun d => { d with versions := [(0, 1)] };
      stale.pass = some stale.lines.length ∧ s.begin.dev.stale stale = true ∧ s.begin.core.loadsDone false = true ∧
      ∃ t, Stores (.g 1) 2 ((s.begin.setDev (s.begin.dev.releaseLocks (s.begin.dev.lockName 0 false))).withRegion (closedWith 3)) t) ∧
    (Region.pass ⟨.opened, [], [], none, none, 0, none⟩ = none ∧ (Region.lines ⟨.opened, [], [], none, none, 0, none⟩).length = 0) ∧
    ((inRegion fresh).begin.dev.stale fresh = false ∧ fresh.pass = some fresh.lines.length ∧ (inRegion fresh).begin.baseCore.cr.rngmode = false ∧
      fresh.lines ≠ [] ∧ (inRegion fresh).begin.core.home = none ∧ member.begin.core.home.isSome = true) ∧
    ((taped 16).begin.baseCore.cr.rngmode = true ∧ (taped 16).begin.baseCore.tapeHolds 4 = false ∧ ∃ a, (taped 16).begin.baseCore.tapeArea = some a ∧ 4 * 3 + 4 ≤ a.len) ∧
    ((inRegion fresh).modStream fun t => { t with acc := [access .load] }).begin.core.loadsDone false = false :=
  ⟨⟨_, _, rfl, rfl⟩, ⟨by decide, by decide, by decide, _, rfl⟩, by decide, by decide, ⟨by decide +kernel, by decide +kernel, _, rfl, by decide⟩, by decide⟩
/-- A publication with a line to go and with none, dropped, and after a trap; a page that may be written, one that may not, a miss. -/
theorem test_witness_ProposalCommit_published :
    let r (st : RegionSt) (b : Bool) (n : Nat) : Region := ⟨st, [], [⟨0, 0, 0, 1⟩], none, some ⟨1, 0, b, 0, n, 0x1000, false⟩, 0, none⟩
    (∀ n, (r .opened true n).post = some ⟨1, 0, true, 0, n, 0x1000, false⟩) ∧ (r .postDraw true 0).st = .postDraw ∧
    (r .opened true 0).writes.drop 0 = ⟨0, 0, 0, 1⟩ :: [] ∧ (r .opened true 1).writes.drop 1 = [] ∧
    (∃ t, Stores (.g 1) 0 (((inRegion (r .opened true 1)).begin.setDev
      ((inRegion (r .opened true 1)).begin.dev.releaseLocks ((inRegion (r .opened true 1)).begin.dev.lockName 0 false))).withRegion (closedWith 1)) t) ∧
    ((mapped true true []).begin.core.tlbFind (va52 (lineVa 0)) = some ⟨0, 0, 0, true, true, false⟩ ∧
      (mapped true false []).begin.core.tlbFind (va52 (lineVa 0)) = some ⟨0, 0, 0, true, false, false⟩ ∧
      (regs []).begin.core.tlbFind (va52 (lineVa 0)) = none ∧ 0 ∉ (regs []).begin.core.walkFail ∧
      0 ∈ (unit 0 false fun c => { c with walkFail := [0] }).begin.core.walkFail) :=
  ⟨fun _ => rfl, rfl, by decide +kernel, by decide +kernel, ⟨_, rfl⟩, by decide⟩
/-- An outcome owed by a turn that had read A, and by one that had not; D a full queue register; the half of a pair; a resumed `pcom`;
the states that each outcome leaves. -/
theorem test_witness_ProposalCommit_owed :
    let o (b : Bool) : Owed := ⟨0, flagNV, b, 0x1000⟩
    let s (b : Bool) := inRegion ⟨.closed, [], [], none, none, 1, some (o b)⟩
    let f := inRegion ⟨.failed, [], [], none, none, 0, none⟩
    (∀ b, (s b).begin.stream.region.owed = some (o b) ∧ (o b).reads = b ∧ ∃ t, Stores (.g 1) 0
      (((s b).begin.modStream fun t => { t with region := { t.region with owed := none } }).raise (o b).flags) t) ∧
    (∃ s1 t, Reads .gz f.begin 0 s1 ∧ f.issue.paired = false ∧ Stores (.g 1) 3 (s1.committed 4 0) t) ∧
    (let q := f.modCore fun c => { c with queues := [(0, [1, 2, 3, 4])] }; ∃ s1, Reads .gz q.begin 0 s1 ∧ 4 ≤ (s1.core.queue 0).length) ∧
    (let p : State := { f with issue := { f.issue with paired := true } }; p.issue.paired = true ∧ ∃ s1, Reads .gz p.begin 0 s1) ∧
    (∀ b, (inRegion ⟨.opened, [], [], none, some ⟨1, 0, true, 0, 0, 0x1000, b⟩, 0, none⟩).begin.stream.region.post = some ⟨1, 0, true, 0, 0, 0x1000, b⟩) :=
  ⟨fun b => ⟨rfl, rfl, _, rfl⟩, ⟨_, _, rfl, rfl, rfl⟩, ⟨_, rfl, by decide⟩, ⟨rfl, _, rfl⟩, fun _ => rfl⟩
/-- R217: into a full queue register the outcome waits with the region closed and the line unlocked. -/
theorem test_pcom_full_queue : let s := (onDev (inRegion ⟨.opened, [], [⟨0, 0, 9, 1⟩], none, some ⟨1, 0, true, 0, 1, 0x1000, false⟩, 0, none⟩) fun d =>
      { d with locks := [(0, ⟨some 0, []⟩)] }).modCore fun c => { c with queues := [(0, [1, 2, 3, 4])] }
    let t := stateOf (exec (.pcom ⟨.q 0, .gz⟩) s) s
    t.blocked = true ∧ t.stream.region.st = .closed ∧ t.stream.region.owed.map (·.outcome) = some 0 ∧ t.dev.locked 0 = false := by decide +kernel
/-- R217: the turn after the draw writes the line, and the next one ends the `pcom`, with 0. -/
theorem test_pcom_publishes : let r (n : Nat) : Region := ⟨.opened, [], [⟨0, 0, 9, 1⟩], none, some ⟨1, 0, true, 0, n, 0x1000, false⟩, 0, none⟩
    let t := stateOf (exec (.pcom ⟨.g 1, .gz⟩) (inRegion (r 0))) (regs [])
    let u := stateOf (exec (.pcom ⟨.g 1, .gz⟩) (inRegion (r 1))) (regs [])
    t.blocked = true ∧ t.dev.mem = [(0, 9)] ∧ t.stream.region.post.map (·.progress) = some 1 ∧ u.blocked = false ∧ u.stream.region.st = .closed := by decide +kernel
theorem test_pcom_outcomes : (stateOf (exec (.pcom ⟨.g 1, .gz⟩) (inRegion ⟨.failed, [], [], none, none, 0, none⟩)) (regs [])).stream.reg 1 = 3 ∧
    (stateOf (exec (.pcom ⟨.g 1, .g 2⟩) (inRegion ⟨.opened, [], [], none, none, 0, none⟩)) (regs [])).stream.region.post.map (·.accept) = some false ∧
    (stateOf (exec (.pcom ⟨.g 1, .gz⟩) (regs [])) (regs [])).took = some .pregion := by decide +kernel
/-- The least positive ratio, the greatest below 1, 1 itself and infinity; −0 and a NaN. -/
theorem test_witness_AcceptanceIsExact : isNanWord 0xFFC00000 ∧ ¬isNanWord 0x80000000 ∧ (0x80000000 : Word).getLsbD 31 = true ∧
    (0x3F800000 ≤ (0x3F800000 : Word).toNat ∧ (0x7F800000 : Word).toNat ≤ 0x7F800000) ∧
    (∃ m e, f32 1 = .fin false m e ∧ 0 < (1 : Word).toNat) ∧ ∃ m e, f32 0x3F7FFFFF = .fin false m e ∧ (0x3F7FFFFF : Word).toNat < 0x3F800000 :=
  ⟨by unfold isNanWord; decide, by unfold isNanWord; decide, by decide, by decide, ⟨_, _, rfl, by decide⟩, ⟨_, _, rfl, by decide⟩⟩
/-- R120: the draw 0x80000000 is 1/2, which is not below 1/2. -/
theorem test_accept : accept 0x80000000 0x3F000000 = (false, 0) ∧ accept 0x7FFFFFFF 0x3F000000 = (true, 0) ∧
    accept 0xFFFFFFFF 0x3F800000 = (true, 0) ∧ accept 0 0x7FC00000 = (false, flagNV) := by decide +kernel

/-! ## Class 9 -/

/-- The activation of these states was started by no reply. -/
theorem mayRequest_regs (l : FMap Word) : (regs l).begin.mayRequest := by
  intro a h
  cases h
  decide +kernel

/-- Thirteen payload words, the most; eight entries fill a queue; a reply asked for by the activation's record. -/
theorem test_witness_RecordsSent :
    let s := regs [(0, 0x1A0000), (18, 1)]
    let full := s.modCore fun c => { c with sendq := [(0, List.replicate 8 ⟨.record, 0, [0], true, false, none, false, none⟩)] }
    s.begin.stream.region.st = .closed ∧ bits (s.begin.baseStream.reg 0) 21 17 = 13 ∧ bits (s.begin.baseStream.reg 2) 31 24 = 0 ∧
    Reads (.g 5) s.begin 0 s.begin ∧ isCore 0 = true ∧ s.begin.mayName 0 ∧ (s.begin.core.netQueue 0).length < 8 ∧
    8 ≤ (full.begin.core.netQueue 0).length ∧ (∃ t, Answers (.busy (.g 6)) 0 (s.begin.enqueued 0 (s.begin.heldEntry .record 0 [0] none)) t) ∧
    (∃ t, Stores (.g 6) 1 full.begin t) ∧ Reads (.g 18) s.begin 1 s.begin ∧ bits (1 : Word) 31 23 = 0 ∧ (∃ i, i < 32 ∧ (1 : Word).getLsbD i = true) ∧
    (∃ j, j < 16 ∧ (1 : Word).getLsbD j = true) ∧ s.begin.mayName (markhorId (bits (1 : Word) 18 16) 0 0) ∧ isMarkhor 0 = true :=
  ⟨rfl, by decide, by decide, rfl, by decide, .inr (by decide), by decide, by decide, ⟨_, rfl⟩, ⟨_, rfl⟩, rfl, by decide, ⟨0, by decide, by decide⟩,
    ⟨0, by decide, by decide⟩, .inr (by decide), by decide⟩
/-- A record whose handler answers: its sender is core 0 and its handler for the reply is 7. -/
theorem test_witness_RecordsSent_reply :
    let r : Line := lineOfWords [recWord0 3 0 0 true 0, 0, 0x70000]
    let s := unit 8 false fun c => { c with act := some ⟨r, none, false, 0⟩ }
    s.begin.core.act = some ⟨r, none, false, 0⟩ ∧ recReply r = true ∧ bits (lineWord r 2) 31 24 = 0 ∧ isCore (bits (lineWord r 2) 15 0) = true ∧
    s.begin.mayName (bits (lineWord r 2) 15 0) ∧ (s.begin.core.netQueue 1).length < 8 :=
  ⟨rfl, by decide +kernel, by decide +kernel, by decide +kernel, .inr (by decide +kernel), by decide⟩
/-- A queue filled by this activation alone, and one with an entry that will leave. -/
theorem test_witness_RecordsSent_full :
    let full (net : Nat) (b : Bool) := (regs []).modCore fun c => { c with
      sendq := [(net, ⟨.record, 0, [0], b, false, none, false, none⟩ :: List.replicate 7 ⟨.record, 0, [0], true, false, none, false, none⟩)] }
    ∀ net ∈ [0, 1, 2], 8 ≤ ((full net true).core.netQueue net).length ∧ (∃ t, Stores (.g 6) 1 (full net true) t) ∧
      (∀ e ∈ (full net true).core.netQueue net, e.held = true ∧ e.byTrap = (full net true).core.susp.isSome) ∧
      ¬(∀ e ∈ (full net false).core.netQueue net, e.held = true ∧ e.byTrap = (full net false).core.susp.isSome) := by
  intro full net h
  refine ⟨?_, ⟨_, rfl⟩, ?_, ?_⟩ <;> revert net <;> decide +kernel
theorem test_send_is_held : (stateOf (exec (.send ⟨.stall, 0, .g 5, 0⟩) (regs [])) (regs [])).core.netQueue 0 =
    [⟨.record, 0, [0], true, false, none, false, none⟩] := by decide +kernel
/-- Entry 254 of the table in user mode and 255 with privilege; T = 1 and T = 64; region 15; mailbox 7; counter 7 and term 7. -/
theorem test_witness_HandlersQueuesAndMailboxes :
    let s := regs [(1, 254), (2, 4), (3, 7), (4, 64), (5, 1), (6, 15), (7, 0x1000), (9, 0x30000)]
    (Reads (.g 1) s.begin 254 s.begin ∧ Reads (.g 2) s.begin 4 s.begin ∧ bits (4 : Word) 3 3 = 0 ∧ bits (4 : Word) 31 21 = 0 ∧
      bits (4 : Word) 7 4 ≤ 13 ∧ bits (s.begin.pairOf (.even 5)) 5 3 = 0 ∧ bits (s.begin.pairOf (.even 5)) 2 0 ≤ 4) ∧
    ((unit 0 false fun c => { c with cr := { c.cr with priv := true } }).baseCore.cr.priv = true) ∧ (1 ≤ (5 : Word).toNat ∧ (64 : Word).toNat ≤ 64) ∧
    (beside.dev.core 8).area 15 = some ⟨1024, 1024, false, false, false, true, false⟩ ∧ 1024 % 64 = 0 ∧
    (s.begin.core.dq.spill = false ∧ s.begin.core.dq.ringCount = 0) ∧ ((3 : Word).toNat < 8 ∧ isCore 0 = true ∧ s.begin.core.tokens = []) ∧ s.begin.mayName 0 ∧
    (let u := s.modCore fun c => { c with tokens := [⟨8, 7, 1, false⟩, ⟨0, 7, 1, false⟩] };
      u.begin.core.tokens = [⟨8, 7, 1, false⟩] ++ ⟨0, 7, 1, false⟩ :: [] ∧ ∀ x ∈ ([⟨8, 7, 1, false⟩] : List Token), ¬(x.core = 0 ∧ x.mbox = 7 ∧ x.byTrap = false)) ∧
    ((s.modCore fun c => { c with mail := [(7, 3)] }).begin.core.mbox 7 = 3 ∧ (3 : Word).toNat ≤ (3 : Word).toNat ∧ (3 : Word).toNat < (4 : Word).toNat) ∧
    ((7 : Word).getLsbD 3 = false ∧ bits (0x1004 : Word) 2 0 ≠ 5 ∧ bits (0x1004 : Word) 2 0 ≠ 6 ∧ bits (0x1004 : Word) 23 12 ≠ 0 ∧ bits (0x1004 : Word) 31 24 = 0) ∧
    ((31 : Word).getLsbD 3 = true ∧ bits (0x40000 : Word) 18 16 ≤ 4 ∧ bits (0x40000 : Word) 31 27 = 0) ∧
    (let u (n : Nat) := s.modCore fun c => { c with xterm := [(7, ⟨0x30000, 0, n, false⟩)] };
      bits ((u 0).begin.core.term 7).cfg 18 16 = 3 ∧ ((u 0).begin.core.term 7).wakes = 0 ∧ ((u 1).begin.core.term 7).wakes ≠ 0) ∧ isMoraine s.me = false :=
  ⟨⟨rfl, rfl, by decide, by decide, by decide, by decide, by decide⟩, rfl, by decide, by decide, by decide, by decide, by decide, .inr (by decide), ⟨rfl, by decide⟩,
    by decide, by decide, by decide, by decide, by decide⟩
/-- R253: the entry's fields; a PC in slot 5 is refused. R261: `mbx` subtracts, or waits. -/
theorem test_hdef : (stateOf (exec (.hdef ⟨.g 1, .even 5, .g 2⟩) (regs [(1, 7), (2, 0x1FFFD7), (10, 0x1002)])) (regs [])).core.handlers =
      [(7, ⟨0x1002, 3, 13, 0x1FFF, true⟩)] ∧
    (stateOf (exec (.hdef ⟨.g 1, .even 5, .g 2⟩) (regs [(1, 7), (2, 4), (10, 5)])) (regs [])).took ≠ none := by decide +kernel
theorem test_mbx : (stateOf (exec (.mbx ⟨.g 1, .gz, .g 2⟩) (unit 0 false fun c => { c with mail := [(0, 3)] })) (regs [])).core.mbox 0 = 3 ∧
    (stateOf (exec (.mbx ⟨.g 1, .gz, .g 2⟩) (regs [(2, 1)])) (regs [])).blocked = true := by decide +kernel

/-- The shortest copy and the longest, to the end of the own scratchpad; a counter of core 0. -/
theorem test_witness_EngineCards_copy :
    let s := regs [(4, 16), (5, 0x25), (6, 0)]
    let far := regs [(0, 0x2FFF0), (2, 0x100), (4, 16), (5, 0x11)]
    isMoraine s.me = false ∧ s.begin.stream.region.st = .closed ∧ cardFlagsOk 0x25 2 = true ∧ cardFlagsOk 0x14 2 = true ∧ (16 % 16 = 0 ∧ 16 ≤ 2 ^ 24 ∧ 2 ^ 24 % 16 = 0) ∧
    far.begin.placeOk 1 0x2FFF0 16 ∧ s.begin.placeOk 0 0 16 ∧ (isMarkhor 0 = true ∧ s.begin.mayName 0) ∧ s.begin.core.fifo.length < 8 ∧
    ∃ t, Answers (.busy (.g 10)) 0 s.begin t :=
  ⟨by decide, rfl, by decide, by decide, by decide, ⟨by decide, fun _ => ⟨by decide, by decide, by decide, 0, by decide, rfl⟩, fun _ => rfl, by decide⟩,
    ⟨by decide, by decide, fun _ => rfl, by decide⟩, ⟨by decide, .inr (by decide)⟩, by decide, ⟨_, rfl⟩⟩
/-- A gather of one element of 16 bytes and a collective of two cores, with descriptors at offset 64. -/
theorem test_witness_EngineCards_descriptors :
    let g : Line := lineOfWords [0, 0, 1, 16, 0x2FFFC, 1, 0x400, 0, 0x0]
    let c : Line := lineOfWords [0x200, 5, 0x2FFF0, 0x400, 4, 0]
    let at_ (l : Line) := unit 0 false fun k => { k with sp := writeBytes [] 64 (leBytes 64 l.toNat) };
    ((at_ g).begin.core.spNat 64 64 = g.toNat ∧ (at_ g).begin.core.ownBad 64 64 = none ∧ cardFlagsOk 0 1 = true ∧
      (lineWord g 4).toNat + 4 * 1 ≤ spSize 0 ∧ (lineWord g 3).toNat % 16 = 0 ∧ lineWord g 12 = 0 ∧ lineWord g 13 = 0 ∧ lineWord g 14 = 0) ∧
    (at_ g).begin.placeOk 0 0 16 ∧ (at_ g).begin.placeOk 0 0x400 16 ∧
    ((at_ c).begin.core.spNat 64 64 = c.toNat ∧ (at_ c).begin.core.ownBad 64 64 = none ∧ (at_ c).begin.mayName 0 ∧ bits (lineWord c 0) 3 0 = 0 ∧ bits (lineWord c 0) 15 8 = 2 ∧ bits (lineWord c 0) 23 16 < 2 ∧
      (lineWord c 2).toNat + 4 * 4 ≤ spSize 0 ∧ (∀ k, k < 7 → lineWord c (8 + k) = 0)) := by
  refine ⟨by decide +kernel, ⟨by decide, by decide, fun _ => rfl, by decide⟩, ⟨by decide, by decide, fun _ => rfl, by decide⟩, by decide +kernel,
    by decide +kernel, .inr (by decide +kernel), by decide +kernel⟩

/-! ## Classes A and B -/

/-- The moraine core of channel 0 on die 0. -/
def moraine (f : Core → Core) (l : FMap Word) : State :=
  unit 0x8000 false fun c => f { c with fore := { c.fore with running := true, g := l } }

/-- Class-P row 0 of bank 0 and class-D row 0; a bank with a promoted row, pinned and not; 384 pinned slots, none free. -/
theorem test_witness_DramForms :
    let s := moraine id [(0, 0), (1, 2), (2, 0x36000000), (3, 0x3F), (4, 0x40)]
    let b (p : Bool) : Bank := ⟨[(3, ⟨0, 0, p, 0⟩)], 1⟩
    isMoraine s.me = true ∧ ownRow s.me (s.begin.globAddr (.even 0) 64).toNat = some ⟨0, 0, true⟩ ∧ s.begin.dev.bankFree 0 = true ∧
    s.begin.dev.homeBad 0x200000040 64 = none ∧ s.begin.dev.heldLines (bankDie 0) (bankChannel 0) < 64 ∧
    (∃ t, LoadsInto (.line 2) false (readLE s.begin.dev.mem 0x200000040 64) s.begin t) ∧
    (Reads .gz s.begin 0 s.begin ∧ (64 : Nat) % 64 = 0 ∧ isMarkhor 0 = true ∧ dieOf 0 = dieOf s.me ∧ (s.begin.dev.receivers 0).Nodup) ∧
    (let w : BankWait := ⟨s.me, 0, ⟨0x200000000, 1, 0⟩⟩
      let u := onDev s fun d => { d with bankq := [(0, List.replicate 64 w.op)] }
      let v := onDev u fun d => { d with linesWait := [(0, [w])] };
      (u.begin.dev.waitLines 0 0 = [] ∧ 64 ≤ u.begin.dev.heldLines (bankDie 0) (bankChannel 0)) ∧ v.begin.dev.waitLines 0 0 ≠ []) ∧
    ownRow s.me (s.begin.pairOf (.even 1)).toNat = some ⟨0, 0, false⟩ ∧
    ((b true).slotOf 0 = some 3 ∧ FMap.find (b true).slots 3 = some ⟨0, 0, true, 0⟩ ∧ (b false).slotOf 1 = none ∧ (b true).freeSlot = some 0 ∧
      oldest (b false).slots = some (3, ⟨0, 0, false, 0⟩) ∧ oldest (b true).slots = none) ∧
    (∃ t, Stores (.g 10) 0xC0000000 s.begin t) ∧ (moraine (fun c => { c with cr := { c.cr with priv := true } }) []).begin.baseCore.cr.priv = true :=
  ⟨by decide, by decide, by decide, by decide, by decide, ⟨_, rfl⟩, ⟨rfl, by decide⟩, by decide +kernel, by decide, by decide, ⟨_, rfl⟩, rfl⟩
/-- R200: the sixty-fifth line waits at its controller, and later groups of its stream go on. -/
theorem test_dst_waits_at_its_controller : let s := onDev (moraine id [(1, 2)]) fun d => { d with bankq := [(0, List.replicate 64 ⟨0x200000000, 1, 0⟩)] }
    let t := stateOf (exec (.dstL ⟨0, .even 0, 64⟩) s) s
    t.blocked = false ∧ t.dev.waitLines 0 0 = [⟨0x8000, 0, ⟨0x200000040, 2 ^ 33, 0⟩⟩] ∧ (t.dev.bankOps 0).length = 64 := by decide +kernel
theorem find_of_map (f : Nat → Promo) (l : List Nat) (k : Nat) (h : k ∈ l) : (FMap.find (l.map fun j => (j, f j)) k).isSome = true := by
  induction l with
  | nil => cases h
  | cons a t ih =>
    simp only [List.map_cons, FMap.find]
    split
    · rfl
    · rename_i ne
      exact ih ((List.mem_cons.mp h).resolve_left fun e => ne e.symm)
theorem test_witness_DramForms_full : (⟨(List.range 384).map fun k => (k, ⟨k, 0, true, 0⟩), 0⟩ : Bank).freeSlot = none ∧
    oldest ((List.range 384).map fun k => (k, (⟨k, 0, true, 0⟩ : Promo))) = none := by
  refine ⟨?_, by decide +kernel⟩
  unfold Bank.freeSlot
  rw [List.find?_eq_none]
  intro k h e
  have f := find_of_map (fun k => ⟨k, 0, true, 0⟩) (List.range 384) k h
  rw [Option.isNone_iff_eq_none.mp e] at f
  cases f
/-- R203: a class-P row answers 3 in bits [31:30]. R202: a promotion takes the lowest free slot. -/
theorem test_dpro : (stateOf (exec (.dpro ⟨.g 10, .even 0⟩) (moraine id [(1, 2)])) (regs [])).stream.reg 10 = 0xC0000000 ∧
    (stateOf (exec (.dpro ⟨.g 10, .even 0⟩) (moraine id [(0, 0x36000000), (1, 0x3F)])) (regs [])).dev.banks = [(0, ⟨[(0, ⟨0, 0, false, 0⟩)], 1⟩)] := by decide +kernel

/-- A trapped activation; one without; a page that is mapped, one that is not, and an address with bits [63:52] wrong. -/
theorem test_witness_SystemForms :
    let p : Suspended := ⟨Stream.reset, Stream.reset, some ⟨0, none, false, 0⟩, false, true⟩
    let s := unit 0 false fun c => { c with cr := { c.cr with priv := true }, susp := some p, tlb := [⟨0, 0, 0, true, true, true⟩] }
    s.begin.baseCore.cr.priv = true ∧ s.begin.baseCore.susp = some p ∧ (∀ a ∈ s.begin.baseCore.fore.acc ++ s.begin.baseCore.hind.acc, a.kind.isStore = true) ∧
    p.hind.region.st ≠ .postDraw ∧ (unit 0 false fun c => { c with cr := { c.cr with priv := true } }).begin.core.susp = none ∧
    s.begin.core.tlbFind 0x7FFF = some ⟨0, 0, 0, true, true, true⟩ ∧ (s.begin.core.tlbFind 0x8000 = none ∧ (s.begin.dev.walkNow 0 0 0x8000).map (·.1) = some none) ∧
    (let u := onDev s fun d => { d with mem := [(0, 1), (1, 0x80), (0x8000, 3)] };
      u.begin.core.tlbFind 0x8000 = none ∧ ((u.begin.dev.walkNow 0 0 0x8000).map (·.1.isSome)) = some true) ∧
    (0x0010000000000000 : DWord) ≠ ((0x0010000000000000 : DWord).extractLsb' 0 52).signExtend 64 :=
  ⟨rfl, rfl, by decide, by decide, rfl, by decide, by decide +kernel, by decide +kernel, by decide⟩
/-- A handler with its loads back and no publication, and not; a trapped stream in post-draw state. -/
theorem test_witness_SystemForms_rett :
    let p : PostDraw := ⟨1, 0, true, 0, 0, 0x2000, false⟩
    let r (st : RegionSt) : Region := ⟨st, [], [], none, some p, 0, none⟩
    let held : Suspended := ⟨{ Stream.reset with region := r .postDraw }, Stream.reset, none, false, false⟩
    let s (f : Core → Core) := unit 0 false fun c => f { c with cr := { c.cr with priv := true, epc := 0x2000 }, susp := some held }
    let free (c : Core) : Prop := (∀ a ∈ c.fore.acc ++ c.hind.acc, a.kind.isStore = true) ∧ c.fore.struck = none ∧ c.hind.struck = none ∧
      ¬(c.hind.region.st = .opened ∧ c.hind.region.post.isSome = true)
    free (s id).begin.baseCore ∧ ¬free (s fun c => { c with hind := { c.hind with struck := some (0, 0) } }).begin.baseCore ∧
    ¬free (s fun c => { c with hind := { c.hind with region := r .opened } }).begin.baseCore ∧
    ¬free (s fun c => { c with hind := { c.hind with acc := [access .load] } }).begin.baseCore ∧
    (r .postDraw).post = some p ∧ p.pc = (s id).begin.baseCore.cr.epc := by decide +kernel
theorem test_rett : (stateOf (exec .rett (unit 0 false fun c => { c with cr := { c.cr with priv := true, epc := 0x2000 }, susp := some ⟨Stream.reset, Stream.reset, none, false, false⟩ })) (regs [])).core.fore.pc = 0x2000 ∧
    (stateOf (exec .rett (regs [])) (regs [])).took = some .priv := by decide +kernel

/-! ## Traps, records and activations -/

/-- Handler 255 valid, and not; trap handling under way. -/
theorem test_witness_TrapEntry :
    let h : HEntry := ⟨0x3000, 0, 0, 0, true⟩
    let s := unit 0 true fun c => { c with handlers := [(255, h)] }
    (s.baseCore.act = some ⟨0, none, false, 0⟩ ∧ (s.baseCore.handler 255).valid = true ∧ s.begin.core.act = some ⟨0, none, false, 0⟩ ∧
      (s.begin.core.handler 255).valid = true) ∧
    (unit 0 true fun c => { c with handlers := [(255, h)], act := some ⟨0, none, true, 0⟩ }).baseCore.act = some ⟨0, none, true, 0⟩ ∧
    ((regs []).baseCore.handler 255).valid = false := ⟨⟨rfl, rfl, rfl, rfl⟩, rfl, rfl⟩
/-- R326, R329: `svc 9` by hind: cause code of SVC with bit 8, NextPC, 9; handler 255 at its PC. -/
theorem test_svc : let t := stateOf (exec (.svc 9) (unit 0 true fun c => { c with handlers := [(255, ⟨0x3000, 0, 0, 0, true⟩)] })) (regs [])
    t.core.cr.epc = 0x1001 ∧ t.core.cr.tval = 9 ∧ t.core.cr.cause.getLsbD 8 = true ∧ t.core.fore.pc = 0x3000 ∧ t.core.cr.priv = true := by decide +kernel
/-- T − 1 and T records; seven and eight privileged ones; a fold that fits; a ring with room, and full. -/
theorem test_witness_DriftQueueArrivals :
    let w : Waiting := ⟨0, 0, false, 0, [], 0⟩
    let c (n : Nat) : Core := { Core.reset 0 with dq := { DriftQ.reset with waiting := List.replicate n w }, handlers := [(0, ⟨0, 0, 1, 1, true⟩)] }
    ((c 63).stopped = false ∧ recNet (0 : Line) ≠ 2 ∧ (c 63).dq.ringCount = 0 ∧ (c 63).dq.waiting.length < (c 63).dq.limit) ∧
    (w.takes ((c 1).handler 0) 0 ∧ (c 1).dq.waiting = [] ++ w :: []) ∧ ((Core.reset 0).dq.limit ≤ 64 ∧ (Core.reset 0).dq.spill = false) ∧
    (¬w.takes ((Core.reset 0).handler 0) 0) ∧ recNet (lineOfWords [recWord0 255 2 0 false 0]) = 2 ∧
    (let r : DriftQ := ⟨[], [], 1, true, 0x2FDC0, 64, 0, 0, none⟩; r.ringCount < r.ringLen / 64 ∧ r.ringBase + 64 ≤ spSize 0 ∧
      ({ r with ringCount := 1 } : DriftQ).ringLen / 64 ≤ 1) := by
  refine ⟨by decide +kernel, ⟨?_, rfl⟩, by decide, ?_, by decide +kernel, by decide⟩
  · unfold Waiting.takes; decide +kernel
  · unfold Waiting.takes; decide +kernel
theorem test_witness_Folding : (∀ k ∈ [1, 2, 3, 12, 13], (⟨0, 0, BitVec.ofNat 4 k, 0x1FFF, true⟩ : HEntry).op.toNat = k) ∧
    (⟨0, 0, 1, 1, true⟩ : HEntry).mask.getLsbD 0 = true ∧
    recCount (lineOfWords [recWord0 0 0 13 false 0]) + recCount (0 : Line) ≤ 13 ∧
    13 < recCount (lineOfWords [recWord0 0 0 13 false 0]) + recCount (lineOfWords [recWord0 0 0 1 false 0]) := by decide +kernel
/-- R256: `adds.w` folds 2^31 − 1 and 1 to 2^31 − 1 and keeps the exact sum, so that −1 after it gives 2^31 − 1 once more. -/
theorem test_fold_adds : let e : HEntry := ⟨0, 0, 2, 1, true⟩
    let r (v : Word) : Line := lineOfWords [recWord0 0 0 1 false 0, 0, 0, v]
    ((fold e ⟨r 0x7FFFFFFF, 0, false, 0, [], 0⟩ (r 1)).bind fun w => fold e w (r 0xFFFFFFFF)).map (fun w => lineWord w.r 3) = some 0x7FFFFFFF := by decide +kernel
theorem test_witness_ActivationStart : ((Core.reset 0).handler 0).valid = false ∧
    (((Device.reset.setCore 0 { Core.reset 0 with handlers := [(0, ⟨0x1002, 0, 0, 0, true⟩)] }).core 0).handler (recHandler 0)).valid = true := by decide +kernel
theorem test_activation_start : let d := Device.reset.setCore 0 { Core.reset 0 with handlers := [(0, ⟨0x1002, 0, 0, 0, true⟩)], cr := { CRegs.reset with qdir := 1, frm := 2 } }
    let k := (d.startRecord 0 (lineOfWords [0, 5, 0, 9]) false 0).core 0
    k.fore.pc = 0x1002 ∧ k.fore.reg 1 = 5 ∧ k.fore.reg 3 = 9 ∧ k.cr.qdir = 0 ∧ k.cr.frm = 2 := by decide +kernel

/-! ## Events -/

/-- A device with one core that runs nothing. -/
def resting (f : Core → Core) : State := onDev State.reset fun d => d.setCore 0 (f (Core.reset 0))

/-- A waiting record of handler 0, arrived at cycle 0. -/
def waits : Waiting := ⟨0, 0, false, 0, [], 0⟩

/-- A privileged record; a record and a task to start again; one waiting record behind none; a task alone; nothing; a busy core;
a ring with one record; a record that has waited 8,192 cycles. -/
theorem test_witness_DispatchEvents :
    let c (f : Core → Core) := (resting f).dev.core 0
    ((c id).act = none ∧ (c id).susp = none ∧ (c id).stopped = false ∧ (c id).dq.priv = [] ∧ (c id).redeliver = [] ∧ (c id).dq.waiting = [] ∧
      (c id).deque = [] ∧ (c id).dq.ringCount = 0) ∧
    (c fun c => { c with dq := { c.dq with priv := [7] } }).dq.priv = 7 :: [] ∧
    (∃ a, (c fun c => { c with redeliver := [⟨0, none, false, 0⟩] }).redeliver = a :: [] ∧ a.task = none) ∧
    (∃ a x, (c fun c => { c with redeliver := [⟨0, some ⟨0, 0, []⟩, false, 0⟩, ⟨0, none, false, 0⟩] }).redeliver = a :: [⟨0, none, false, 0⟩] ∧ a.task = some x) ∧
    ((c fun c => { c with dq := { c.dq with waiting := [waits, waits] } }).dq.waiting = [] ++ waits :: [waits] ∧
      ∀ x ∈ [waits], (c id).priority 0 x ≤ (c id).priority 0 waits) ∧
    ((c id).priority 8191 waits = 0 ∧ (c id).priority 8192 waits = 3) ∧
    (c fun c => { c with deque := [⟨0, 0, []⟩] }).deque = ⟨0, 0, []⟩ :: [] ∧ (c fun c => { c with stopped := true }).stopped = true ∧
    (let q := (c fun c => { c with dq := { c.dq with ringCount := 1, ringLen := 64 } }).dq; q.ringCount ≠ 0 ∧ q.waiting.length < q.limit) ∧
    ([waits][0]? = some waits ∧ 8192 ≤ 8192 - waits.since) :=
  ⟨by decide, rfl, ⟨_, rfl, rfl⟩, ⟨_, _, rfl, rfl⟩, ⟨rfl, by decide +kernel⟩, by decide +kernel, rfl, rfl, by decide, by decide +kernel⟩
/-- Records that can start, by their handler's entry or by that of handler 255, and one that cannot. -/
theorem test_witness_DispatchEvents_starts :
    let c (h : FMap HEntry) := (resting fun c => { c with handlers := h }).dev.core 0
    ((c [(0, ⟨0x40, 0, 0, 0, true⟩)]).handler (recHandler 0)).valid = true ∧ ((c [(255, ⟨0x40, 0, 0, 0, true⟩)]).handler 255).valid = true ∧
    ((c []).handler (recHandler 0)).valid = false ∧ ((c []).handler 255).valid = false := by decide +kernel
/-- R300, R330: a record that cannot start stops the core, which keeps it. -/
theorem test_dispatch_keeps_record : let s := resting fun c => { c with dq := { c.dq with waiting := [waits], priv := [] } }
    let c := (stateOf (exec (.activationDispatch 0) s) s).dev.core 0
    c.stopped = true ∧ c.dq.waiting = [waits] := by decide +kernel
theorem test_dispatch_highest_priority : let hi : Waiting := { waits with r := lineOfWords [recWord0 1 0 0 false 0] }
    ((stateOf (exec (.activationDispatch 0) (resting fun c => { c with handlers := [(0, ⟨0x40, 0, 0, 0, true⟩), (1, ⟨0x80, 3, 0, 0, true⟩)], dq := { c.dq with waiting := [waits, hi] } })) (resting id)).dev.core 0).fore.pc = 0x80 := by decide +kernel

/-- An entry ready to leave, for this package and for another, with a fabric group up; a message of each kind alone on its way. -/
theorem test_witness_MessageEvents :
    let e (r : Line) : SendEntry := ⟨.record, r, [0], false, false, none, false, none⟩
    let s (r : Line) := resting fun c => { c with sendq := [(0, [e r])] }
    let far : Line := lineOfWords [0, 0, 0x5000000]
    ((s 0).dev.core 0).netQueue 0 = e 0 :: [] ∧ (e 0).held = false ∧ (e 0).inFlight = false ∧ recPackage (e 0).r = 0 ∧ recPackage (e far).r ≠ 0 ∧
    ((s 0).dev.link (.group 0)).st = .up ∧ ((s 0).dev.offer 0 0).isSome = true ∧ (s 0).dev.claimPool 0 0 = none ∧
    ((resting fun c => { c with stopped := true }).dev.offer 0 0).isNone = true ∧ (s 0).dev.twins.all (·.1 != 0) = true ∧
    ((resting fun c => { c with sp := [(32, 2)] }).dev.decrement 0 0 32).isSome = true ∧
    ((resting fun c => { c with stopped := true }).dev.decrement 0 0 32).isNone = true ∧
    ((resting fun c => { c with sp := [(32, 2)] }).dev.decrementAt 0 0 32).isSome = true ∧
    ((resting fun c => { c with stopped := true }).dev.decrementAt 0 0 32).isNone = true ∧ ([⟨0, 3⟩] : List AckGroup)[0]? = some ⟨0, 3⟩ ∧
    1 < (readWord ((resting fun c => { c with sp := [(32, 2)] }).dev.core 0).sp 32).toNat ∧ (readWord (Core.reset 0).sp 196592).toNat = 0 := by decide +kernel
/-- A message of core 0, alone on its way to itself: with a poison, and going abroad. -/
def flight (k : MsgKind) (p : BitVec 4) (abroad : Nat) : Flight := ⟨k, 0, 0, 0, some 0, 0, true, none, 0, 0, p, abroad, none⟩
theorem test_witness_MessageEvents_deliverable (k : MsgKind) (p : BitVec 4) (abroad : Nat) :
    Deliverable { Device.reset with flights := [flight k p abroad] } 0 (flight k p abroad) :=
  ⟨rfl, fun _ _ h => absurd h (Nat.not_lt_zero _), .inr rfl⟩
/-- It stays, with a poison and without; it goes on. Over the fabric: a group is up, or none; the group of one that has left is up,
or down with another up; a member of another package answers there. -/
theorem test_witness_MessageEvents_fabric :
    (∀ k : Fin 3, Device.reset.onward (flight (match k with | 0 => .record | 1 => .token | 2 => .decrement) 1 0) = none) ∧
    (flight .record 1 0).poison ≠ 0 ∧ Device.reset.onward (flight .record 0 5) = some 5 ∧
    (let e (x : Option (Nat × Nat)) : SendEntry := ⟨.record, lineOfWords [0, 0, 0x5000000], [0], false, false, none, x.isSome, x⟩
      let down (d : Device) (l : List Nat) : Device := l.foldl (fun d k => d.setLink (.group k) ⟨3, .down⟩) d
      let d := (resting fun c => { c with sendq := [(0, [e none])] }).dev
      recPackage (e none).r = 5 ∧ d.fabricGroup 5 = some 2 ∧ (∀ k, k < 3 → ((down d [0, 1, 2]).link (.group k)).st ≠ .up) ∧
      ((e (some (7, 2))).fab = some (7, 2) ∧ (d.link (.group 2)).st = .up ∧ (e (some (7, 2))).dsts = [0] ∧ (e (some (7, 2))).ack = none) ∧
      (((down d [2]).link (.group 2)).st ≠ .up ∧ (down d [2]).fabricGroup 5 = some 0)) ∧
    ((resting fun c => { c with home := some (5, 0) }).dev.core 0).home = some (5, 0) := by decide +kernel
/-- R294: a record for package 5 leaves with number 0 on group 2, and on group 0 with that number once group 2 is down. -/
theorem test_fabric_leaves_again : let e : SendEntry := ⟨.record, lineOfWords [0, 0, 0x5000000], [0], false, false, none, false, none⟩
    let s := resting fun c => { c with sendq := [(0, [e])] }
    let t := stateOf (exec (.sendQueueDepart 0 0) s) s
    let u := onDev t fun d => d.setLink (.group 2) ⟨3, .down⟩
    ((t.dev.core 0).netQueue 0).map (·.fab) = [some (0, 2)] ∧ FMap.get t.dev.fabSent 5 0 = 1 ∧
    (((stateOf (exec (.sendQueueDepart 0 0) u) u).dev.core 0).netQueue 0).map (·.fab) = [some (0, 0)] := by decide +kernel
/-- R346, R347: an acknowledgement reaches the sender's twin too; a record to another package uses its group. -/
theorem test_ack_and_link_use : let s := onDev (resting id) fun d => { d with acks := [⟨0, 3⟩], twins := [(0, 8)] }
    let d := (stateOf (exec (.multicastAckComplete 0) s) s).dev
    let e : SendEntry := ⟨.record, lineOfWords [0, 0, 0x5000000], [0], false, false, none, false, none⟩
    let u := resting fun c => { c with sendq := [(0, [e])] }
    ((d.core 0).mbox 3, (d.core 8).mbox 3) = (1, 1) ∧ (stateOf (exec (.sendQueueDepart 0 0) u) u).dev.usesLink 0 (.group 2) = true ∧
    u.dev.usesLink 0 (.group 2) = false := by decide +kernel
theorem test_record_arrives : let s := onDev (resting id) fun d => { d with flights := [{ flight .record 0 0 with src := none }] }
    let t := stateOf (exec (.recordArrival 0) s) s
    (t.dev.core 0).dq.waiting.length = 1 ∧ (t.dev.core 0).recv = 1 ∧ t.dev.flights = [] := by decide +kernel

/-- A thief (its LFSR 0xACE1 goes to 0xE270, which picks the ninth of fifteen candidates); answers; a claim record for pool 1
of a die, with room; an idle claimant; a term of each action whose counter is satisfied, and one whose counter is not. -/
theorem test_witness_StealClaimAndTermEvents :
    let d := (resting id).dev
    d.maySteal 0 = true ∧ (d.stealCandidates 0).length = 15 ∧ (d.core 0).lfsr.getLsbD 0 = true ∧
    (d.stealCandidates 0)[(((0xACE1 : BitVec 16) >>> 1) ^^^ 0xB400).toNat % 15]? = some 72 ∧ (72 : Nat) ≠ 0 ∧ (d.core 72).deque = [] ∧
    ([⟨0, 0, []⟩, ⟨1, 0, []⟩] : List Task) = [⟨0, 0, []⟩] ++ [⟨1, 0, []⟩] ∧
    (∀ st ∈ [Steal.asked none, .asked (some (8, ⟨0, 0, []⟩)), .backoff 0], ((resting fun c => { c with steal := st }).dev.core 0).steal = st) ∧
    (let e : Device := { (resting fun c => { c with pool := 1 }).dev with
        slots := [(1, ⟨0x28000, 0, 1, 0, true, false⟩)], claimq := [(0, [⟨0, 1⟩])], regs := [(0x2000001004, 0x100)] };
      e.claimPool 0 0 = some 1 ∧ (e.claims 0).length < 256 ∧ e.claims 0 = [] ++ ⟨0, 1⟩ :: [] ∧ longestIdle e (e.idleClaimants 0 1) = some 0) ∧
    d.idleClaimants 0 1 = [] ∧
    (∀ a ∈ [1, 2, 3, 4], let c := (resting fun c => { c with xcount := [(0, ⟨0x1000, 1⟩)], xterm := [(7, ⟨BitVec.ofNat 32 (a * 2 ^ 16 + 1), 0, 0, false⟩)] }).dev.core 0;
      c.termTrue 7 = true ∧ bits (c.term 7).cfg 18 16 = a ∧ (c.term 7).holding = false) ∧
    (d.core 0).termTrue 7 = false ∧ (∀ j, j < 7 → ((d.core 0).term j).holding = true ∨ (d.core 0).termTrue j = false) ∧
    (let c := (resting fun c => { c with xcount := [(0, ⟨0x1000, 1⟩)], xterm := [(0, ⟨0x10001, 0, 0, false⟩)] }).dev.core 0;
      (c.term 0).holding = false ∧ c.termTrue 0 = true ∧ (c.term 7).holding = false) ∧
    ((resting fun c => { c with xterm := [(7, ⟨0x40001, 0, 0, true⟩)] }).dev.core 0 |>.term 7).holding = true ∧
    (let e : Device := { d with claimq := [(0, List.replicate 256 ⟨0, 1⟩)] }; 256 ≤ (e.claims 0).length) ∧
    ((resting fun c => { c with stopped := true, xterm := [(7, ⟨0x40001, 0, 0, false⟩)] }).dev.core 0 |>.consume 7 |>.arrive 0 0
      (lineOfWords [recWord0 0 0 1 false 0, 0x107, 0, 1]) 0) = none ∧
    ((resting fun c => { c with xterm := [(7, ⟨0x40001, 0, 0, false⟩)] }).dev.core 0 |>.consume 7 |>.arrive 0 0 (lineOfWords [recWord0 0 0 1 false 0, 0x107, 0, 1]) 0).isSome = true := by
  decide +kernel
/-- A victim with a task, alone and as the primary of a pair whose secondary has the same task; a secondary. -/
theorem test_witness_StealClaimAndTermEvents_victims :
    let t : Task := ⟨1, 0, []⟩
    let d : Device := (((resting id).dev.modCore 72 fun c => { c with deque := [⟨0, 0, []⟩, t] }).modCore 80 fun c => { c with deque := [t] })
    (∀ w ∈ [[], [(72, 80)]], let e : Device := { d with twins := w }
      (∀ x ∈ e.twins, x.2 ≠ 72) ∧ (∀ j ∈ e.receivers 72, (e.core j).deque.getLast? = some t) ∧ (e.receivers 72).Nodup ∧
      (e.core 72).deque = [⟨0, 0, []⟩] ++ [t]) ∧
    (∃ x ∈ ({ d with twins := [(0, 72)] } : Device).twins, x.2 = 72) := by decide +kernel
theorem test_term_fires : let s := resting fun c => { c with xcount := [(0, ⟨0x2000, 3⟩)], xterm := [(7, ⟨0x10001, 0, 0, false⟩)] }
    let c := (stateOf (exec (.termFire 0 7) s) s).dev.core 0
    (c.term 7).credits = 1 ∧ (c.counter 0).count = 1 := by decide +kernel

/-- R273: terms 0 and 7 share a counter that holds one firing; the lower one fires, and 7 is not asked out of order. -/
theorem test_terms_fire_in_order : let s := resting fun c => { c with xcount := [(0, ⟨0x1000, 1⟩)], xterm := [(0, ⟨0x10001, 0, 0, false⟩), (7, ⟨0x10001, 0, 0, false⟩)] }
    let t := (stateOf (exec (.termFire 0 0) s) s).dev.core 0
    (t.term 0).credits = 1 ∧ (t.term 7).credits = 0 ∧ (stateOf (exec (.termFire 0 7) s) s).dev = s.dev := by decide +kernel

/-- A command that has not started and one that has; a gate with a credit and without; an `mma` with one row to go, within the
budget and at it; a completed one; a link row; a vector instruction under way. -/
theorem test_witness_MatrixEvents :
    let m (n : Nat) (x : Bool) (r : Nat) : MxCmd := ⟨n, 3, false, 7, x, false, 0xB0, 0xA0, 0, 64, 0x001F3F30, r, 0⟩
    let c (k : MxCmd) (w : Nat) := (resting fun c => { c with mxu := { c.mxu with cmds := [k], latch := some ⟨3, 0x001F3F30, [], false⟩, winRows := w } }).dev.core 0
    ((c (m 3 false 0) 0).mxu.cmds = m 3 false 0 :: [] ∧ (m 3 false 0).executing = false ∧ ∀ t, t < 8 → bits ((c (m 3 false 0) 0).term t).cfg 18 16 ≠ 1) ∧
    (let g : XTerm := ⟨0x10001, 0, 0, false⟩; bits g.cfg 18 16 = 1 ∧ g.credits = 0) ∧
    ((m 3 true 64).executing = true ∧ (m 3 true 64).rows = (m 3 true 64).m ∧ (m 3 true 63).rows < (m 3 true 63).m) ∧
    ((c (m 3 true 63) 127).mxu.winRows < min (c (m 3 true 63) 127).cr.mxbud (Device.reset.governor 0) ∧
      min (c (m 3 true 63) 128).cr.mxbud (Device.reset.governor 0) ≤ (c (m 3 true 63) 128).mxu.winRows) ∧
    (let u (w : Nat) (f : Option Nat) (n : Nat) := onDev (resting fun c => { c with mxu := { c.mxu with winNo := w, govFrom := f } }) fun d => { d with cycle := n };
      ((u 1 (some 200) 300).dev.core 0).mxu.govFrom = some 200 ∧ (u 1 (some 200) 300).dev.budgetOf 0 ≠ 0 ∧ (u 1 (some 200) 300).dev.stalledOf 0 = 56 ∧
      (u 1 (some 200) 255).dev.stalledOf 0 = 55 ∧ 200 / 128 = 255 / 128 ∧ 200 / 128 ≠ 300 / 128 ∧
      0 ∈ (u 1 (some 200) 300).dev.listedOf 0 ∧ ((u 1 (some 200) 300).dev.core 0).mxu.winNo ≠ 300 / 128 ∧ ((u 1 none 128).dev.core 0).mxu.winNo = 128 / 128 ∧
      0 ∉ (u 1 none 128).dev.listedOf 1) ∧
    (c (m 3 true 63) 127).mxu.halted = false ∧
    ([⟨0, 1, ⟨3, 0, 0, false⟩⟩] : List LinkFlight)[0]? = some ⟨0, 1, ⟨3, 0, 0, false⟩⟩ ∧
    ((resting fun c => { c with vecBusy := 1 }).dev.core 0).vecBusy ≠ 0 ∧ ((resting id).dev.core 0).vecBusy = 0 := by decide +kernel
/-- R159, R366: a row that has waited from cycle 200 of its die is admitted at 300, in the next window: 56 cycles stalled, to
the end of the window that refused it. -/
theorem test_governor_counts_cycles : let m : MxCmd := ⟨3, 3, false, 7, true, false, 0xB0, 0xA0, 0, 64, 0x001F3F30, 0, 0⟩
    let s := onDev (resting fun c => { c with mxu := { c.mxu with cmds := [m], latch := some ⟨3, 0x001F3F30, [], false⟩, winNo := 1, winRows := 128, govFrom := some 200 } })
      fun d => { d with cycle := 300 }
    let t := (stateOf (exec (.mxuRowStream 0) s) s).dev.core 0
    t.cr.mxstl = 56 ∧ t.mxu.winNo = 2 ∧ t.mxu.winRows = 1 ∧ t.mxu.govFrom = none := by decide +kernel
/-- R178: `mclr acc0` clears v0 to v63 and leaves v64; R166: its tag is the last. -/
theorem test_mclr_completes : let s := resting fun c => { c with mxu := { c.mxu with cmds := [⟨5, 0, false, 7, true, false, 0xB0, 0, 0, 0, 0, 0, 0⟩] }, rows := [(0, 9), (64, 9)] }
    let c := (stateOf (exec (.mxuCommandComplete 0) s) s).dev.core 0
    c.row 0 0 = 0 ∧ c.row 0 64 = 9 ∧ c.mxu.cmds = [] ∧ c.mxu.lastTag = 7 := by decide +kernel

/-- An access at the head of its bank; a locked line; queries that all slices have counted and that one has not; locks free and
held; writes on their way; walks that end, go on and fail. -/
theorem test_witness_MemoryEvents :
    let a := access
    (∀ k ∈ [AccKind.load, .volLoad, .store, .volStore], ((unit 0 false fun c => { c with fore := { c.fore with acc := [a k] } }).dev.core 0).fore.acc[0]? = some (a k)) ∧
    (Device.reset.locked 64 = false ∧ ({ Device.reset with locks := [(1, ⟨some (8, false), []⟩)] } : Device).locked 64 = true) ∧
    (let x (sq : Option Nat) (b : Bool) : Access := { a .store with pa := 0x30000000, seq := sq, arrived := b };
      Device.reset.accessCrosses 0 .volStore 0x30000000 = true ∧ Device.reset.accessCrosses 0 .load 64 = false ∧
      ((x (some 0) true).seq.isSome = true ∧ (x (some 0) true).arrived = true) ∧ (x (some 0) false).arrived = false ∧ (x none false).seq = none) ∧
    (let q : Query := ⟨false, 3, .sys, .sys, false, false⟩
     let c (n : Nat) := unit 0 false fun c => { c with queries := [q], sentTo := [⟨0, 3, 2⟩], counted := [⟨0, 3, n⟩] };
      ((c 2).dev.core 0).queries = [] ++ q :: [] ∧ countAt ((c 2).dev.core 0).counted 0 3 = 2 ∧ countAt ((c 1).dev.core 0).counted 0 3 ≠ 2 ∧
      q.inst.hasSlice 0 = true) ∧
    (let r : Region := ⟨.opened, [], [⟨64, 64, 0, 1⟩], some 0, none, 0, none⟩; r.pass = some 0 ∧ r.lines[0]? = some 64 ∧ (Device.reset.lock 1).writer = none ∧
      (∀ x ∈ (Device.reset.lock 1).readers, x = Device.reset.lockName 0 false) ∧ (Device.reset.core 0).home = none ∧
      ({ Device.reset with memPoison := [4] } : Device).loadBad 0 64 4 true = some 64 ∧
      Device.reset.linkIdle 0 64 = true ∧ ({ Device.reset with heldPackets := [(1, [packet 0])] } : Device).linkIdle 0 0x30000000 = false) ∧
    ((resting fun c => { c with nbq := [⟨8, false, 0, 4, 1, false, false⟩] }).dev.core 0).nbq = ⟨8, false, 0, 4, 1, false, false⟩ :: [] ∧
    ((resting fun c => { c with portq := [⟨0x8000, 0, 1, 2, false⟩] }).dev.core 0).portq = ⟨0x8000, 0, 1, 2, false⟩ :: [] ∧
    (let op : BankOp := ⟨0x200000000, 1, 0⟩; let w : BankWait := ⟨0x8000, 0, op⟩
      let d (n : Nat) (l : List BankWait) : Device := { Device.reset with bankq := [(0, List.replicate (n + 1) op)], linesWait := [(0, l)] }
      let e (n : Nat) : Device := { d n [w] with bankq := FMap.put (d n [w]).bankq 0 (List.replicate n op) [] };
      (d 0 [w]).bankOps 0 = op :: [] ∧ (d 0 []).waitLines 0 0 = [] ∧ (d 0 [w]).waitLines (bankDie 0) (bankChannel 0) = w :: [] ∧ (e 63).heldLines 0 0 < 64 ∧
      64 ≤ (e 64).heldLines 0 0) ∧
    Device.reset.walkLevel 0 0 0 = .fail := by decide +kernel
/-- An access to another die, with a dirty copy of its line in the cluster, and without. -/
theorem test_witness_MemoryEvents_back :
    let s (k : AccKind) := (dirtyAway []).modStream fun t => { t with acc := [{ access k with pa := 0x30000000 }] }
    (∀ k ∈ [AccKind.volLoad, .volStore], ((s k).dev.core 0).susp = none ∧ ((s k).dev.core 0).fore.acc[0]? = some { access k with pa := 0x30000000 } ∧
      (s k).dev.accessCrosses 0 k 0x30000000 = true ∧ ((s k).dev.copy (pkgCluster 0) (0x30000000 / 64)).map (·.mask) = some 1) ∧
    ((resting id).dev.copy (pkgCluster 0) (0x30000000 / 64)) = none := by decide +kernel
/-- R280: the write-back of the line leaves ahead of the access, and is counted in the round. -/
theorem test_write_back_first : let s := (dirtyAway []).modStream fun t => { t with acc := [{ access .volLoad with pa := 0x30000000 }] }
    let t := stateOf (exec (.globalLoadReturn 0 false 0) s) s
    (t.dev.packets 0 1).map (fun p => (p.seqNo, match p.body with
      | .writeBack pa _ _ _ _ => pa
      | _ => 0)) = [(0, 0x30000000), (1, 0)] ∧ (t.dev.core 0).sentTo.length = 1 := by decide +kernel
/-- R211: bit 0 of an entry is valid; an inner entry leads to the next table. -/
theorem test_walk_goes_on : let d : Device := { Device.reset with mem := [(0, 1), (1, 0x80)] }; d.walkLevel 0 0 0 = .pointer 0x8000 := rfl

/-- A card of core 0: `w`, without counter or descriptor. -/
def card (core : Nat) (w : Work) : Card := ⟨core, false, 7, 0, w, false, 0, none, [], [], ⟨0, []⟩⟩
def jobOf (c : Card) (st : JobStage) : Job := ⟨0, c, st, 0, none, none, none, [], false, false, false, false, 0⟩

/-- Cards in each stage, with and without something of its stream on its way; an overlapping job ahead, and none; a granule that
moves, one whose address does not translate, one whose bank is at work; a gather with its index in and out of range; groups of two
cards that agree and that do not; a finished job with a counter here, at a core that refuses it, and in another package. -/
theorem test_witness_EngineEvents :
    let copy : Card := card 0 (.copy (.sp 0) 1024 (.sp 0) 2048 32)
    let lost : Card := card 0 (.copy .glob 0 (.sp 0) 2048 16)
    let gather : Card := card 0 (.gather (.sp 0) 1024 1 16 4096 1 (.sp 8) 2048 0xFFFFFFFF 64)
    let d := (resting fun c => { c with fifo := [copy] }).dev
    let e (l : List Job) : Device := { d with jobs := l }
    ((d.core 0).fifo = copy :: [] ∧ d.passed 0 false copy.before = true ∧ (d.jobs.filter fun j => j.die == dieOf 0).length < 512 ∧
      ∀ t, t < 8 → bits ((d.core 0).term t).cfg 18 16 ≠ 2) ∧
    ((unit 0 false fun c => { c with fore := { c.fore with acc := [access .store] } }).dev.passed 0 false ⟨1, []⟩ = false ∧
      (unit 0 false fun c => { c with fore := { c.fore with acc := [access .store] } }).dev.passed 0 false ⟨0, []⟩ = true ∧
      d.passed 0 false ⟨0, [(8, 1)]⟩ = false) ∧
    (d.inboxRoom copy = true ∧ (let w : Card := { copy with writes := [⟨.sp 0, 2048, 32⟩] }; (jobOf w .unit).behind (jobOf w .unit) = true) ∧ (jobOf gather .unit).behind (jobOf copy .unit) = false) ∧
    (∃ x, (e [jobOf copy .inbox]).moveGran 0 copy (.sp 0) 1024 (.sp 0) 2048 = .ok x) ∧
    (∃ x c a, (e [jobOf lost .inbox]).moveGran 0 lost .glob 0 (.sp 0) 2048 = .fault x c a) ∧
    (∃ x, ({ d with bankq := [(0, [⟨0x200000000, 0, 0⟩])] } : Device).moveGran 0 copy (.sp 0) 1024 .dram 0x200000000 = .wait x) ∧
    (∀ b, ({ jobOf copy .inbox with fault := some .page, served := b } : Job).fault = some .page ∧
      ({ jobOf copy .inbox with fault := some .page, served := b } : Job).served = b) ∧
    ((jobOf gather .inbox).stage = .inbox ∧ (jobOf gather .inbox).fault = none ∧ (jobOf gather .inbox).index = none) ∧
    ((readWord (d.core 0).sp 4096).toNat < 1 ∧ 1 ≤ (readWord ((resting fun c => { c with sp := [(4096, 1)] }).dev.core 0).sp 4096).toNat) ∧
    (∃ v b x y, (e [jobOf gather .inbox]).readGran 0 gather (.sp 0) 1024 = .ok ((v, b), x) ∧ x.writeGran 0 gather (.sp 8) 2048 v b = .ok y) ∧
    (∃ x c a, (e [jobOf gather .inbox]).readGran 0 gather .glob 0 = .fault x c a) ∧
    (let c (id rank n : Nat) : Card := card id (.coll 0 0 2 rank 5 0 0 n 64)
      let g (n : Nat) : Device := e [jobOf (c 0 1 4) .inbox, jobOf (c 8 0 n) .inbox];
      (g 4).collGroup 0 = some [0, 1] ∧ [c 0 1 4, c 8 0 4].all (c 0 1 4).agrees = true ∧ ([c 0 1 4, c 8 0 4].map Card.rank).Nodup ∧
      ([c 0 1 4, c 8 0 4].map (·.core)).Nodup ∧ [c 0 1 4, c 8 0 3].all (c 0 1 4).agrees = false ∧ ¬([c 0 1 4, c 8 1 4].map Card.rank).Nodup) ∧
    ((jobOf copy .done).stage = .done ∧ copy.counter = none ∧ copy.desc = none ∧ gather.desc = some 64) ∧
    (d.ownerOf 0 8 = .inl 8 ∧ ((resting fun c => { c with sp := [(32, 2)] }).dev.decrementAt 0 0 32).isSome = true ∧
      ((resting fun c => { c with stopped := true }).dev.decrementAt 0 0 32).isNone = true) ∧
    (let x : Device := (resting fun c => { c with home := some (5, 0) }).dev
      let y : Device := ([0, 1, 2].foldl (fun d k => d.setLink (.group k) ⟨3, .down⟩) x);
      y.ownerOf 0 8 = .inr 5 ∧ ((y.fabricGroup 5).isSome && Config.fabricAccepts y.tick) = false) := by
  refine ⟨by decide +kernel, by decide +kernel, by decide +kernel, ⟨_, rfl⟩, ⟨_, _, _, rfl⟩, ⟨_, rfl⟩, fun _ => ⟨rfl, rfl⟩, by decide, by decide +kernel,
    ⟨_, _, _, _, rfl, rfl⟩, ⟨_, _, _, rfl⟩, by decide +kernel, by decide +kernel, by decide +kernel, ?_⟩
  exact ⟨by decide +kernel, rfl⟩
theorem test_witness_EngineEvents_links : (((resting fun c => { c with sp := [(32, 2)] }).dev.useDies 0 0 0).decrementAt 0 0 32).isSome = true ∧
    (((resting fun c => { c with stopped := true }).dev.useDies 0 0 0).decrementAt 0 0 32).isNone = true := by decide +kernel
theorem test_copy_granule : let c := card 0 (.copy (.sp 0) 1024 (.sp 8) 2048 16)
    let s := onDev (resting fun k => { k with sp := [(1026, 9)] }) fun d => { d with jobs := [jobOf c .inbox] }
    let t := stateOf (exec (.copyGranule 0) s) s
    (t.dev.core 8).sp = [(2050, 9)] ∧ t.dev.jobs.map (·.stage) = [.done] := by decide +kernel

/-- A running module whose cores 0 and 8 of dies 0 and 1 have handlers 0 and 5. -/
def up (f : Device → Device) : State :=
  let h : FMap HEntry := [(0, ⟨0x40, 0, 0, 0, true⟩), (5, ⟨0x80, 0, 0, 0, true⟩)]
  onDev State.reset fun d => f { d with
    boot := .running, cores := [0, 8, 4096, 4104].map fun id => (id, { Core.reset id with handlers := h }) }

/-- A record that binds cores 0 and 8 of die 0, one that a code rejects, one valid already, one being cleared; a move to die 1. -/
theorem test_witness_TeamEvents :
    let b : BindRec := ⟨0x20000, 0, 3, 0, true, false⟩
    let d := (up id).dev
    let e := (up fun d => { d with slots := [(1, b)] }).dev
    d.boot = .running ∧ (d.slot 7 255).valid = false ∧ (0x20000 : Word).getLsbD 17 = true ∧ (0 : Word).getLsbD 17 = false ∧ d.bindCode 0 1 b = 0 ∧
    d.bindCode 0 1 ⟨0x20000, 0, 0, 0, true, false⟩ ≠ 0 ∧ b.members 0 = [0, 8] ∧ ((d.core 0).dq.waiting = [] ∧ 0 < (d.core 0).dq.limit) ∧
    e.slot 0 1 = b ∧ bits (0x20300 : Word) 9 8 = 3 ∧ (∀ i, i < 32 → i ≠ 8 → i ≠ 9 → (0x20300 : Word).getLsbD i = b.w0.getLsbD i) ∧
    (∀ id, id ∈ b.members 0 → (e.core id).idle = true ∧ (e.core id).pool = 0) ∧
    ((unit 0 false id).dev.core 0).idle = false ∧ (e.slot 1 1).valid = false ∧ bits b.w0 16 15 = 0 := by
  decide +kernel
/-- The management core of a die, writing a word. -/
def byDie (k : Nat) : RegAccess := ⟨.management k, 4⟩
/-- A module in which the team of cores 0 and 8 of die 0 is bound, portable and with its start records waiting. -/
def bound (f : Device → Device) : State := stateOf (exec (.bindRecordWrite (byDie 0) 0 1 ⟨0x60000, 0, 3⟩ none) (up f)) (up f)
/-- A team that can move: to die 1 of its partition; to die 3 of package 2, which lends to its launch; one from package 2 that lands
on slots lent to its launch; a secondary record at clusters apart from its primary's, and beside it. -/
theorem test_witness_TeamEvents_moves :
    let offer : Offer := ⟨2, 3, 0, 0, false, 2⟩
    let d := (bound fun d => { d with offers := [offer] }).dev
    let b := d.slot 0 1
    (b.valid = true ∧ b.clearing = false ∧ b.pool = 0 ∧ b.portable = true ∧ b.members 0 = 0 :: [8]) ∧
    (∀ id ∈ b.members 0, d.movable b.handler id = true ∧ (d.core id).pool = 0 ∧ (d.core id).home = none) ∧
    (d.target b 0 = some 1 ∧ d.landing b 1 = some 0 ∧ (d.slot 1 1).valid = false ∧ (up id).dev.target b 0 ≠ some 2) ∧
    (d.packable [0, 8] = true ∧ ({ d with acks := [⟨8, 0⟩] } : Device).packable [0, 8] = false) ∧
    (d.lender b (d.launchOf 0) = some ⟨2, 3⟩ ∧ d.pkgNum ≠ 2 ∧ (bound id).dev.lender b (d.launchOf 0) = none) ∧
    (let m : MovedTeam := ⟨2, 0, ⟨2, 3⟩, 1, ⟨d.pkgNum, 1⟩, 1, { b with w0 := 0x60000 }, [(0, Core.reset 0), (8, Core.reset 8)], []⟩
      let e : Device := { d with travel := [m], lent := [⟨2, 0, 1, false, 0x8000⟩] };
      e.travel = [m] ∧ m.src.pkg ≠ e.pkgNum ∧ m.dst.pkg = e.pkgNum ∧ (e.slot 1 1).valid = false ∧ m.home ≠ e.pkgNum ∧ e.landing m.bind 1 = some 0 ∧
      e.lent.find? (fun l => l.pkg == m.home && l.part == m.part && l.die == m.dst.die && l.isS == m.bind.isS) = some ⟨2, 0, 1, false, 0x8000⟩) ∧
    (let t (a : Word) : BindRec := ⟨0x20000, a, 3, 0, true, false⟩;
      ((t 4).members 0).foldl (fun d id => d.modCore id fun c => { c with handlers := [(0, ⟨0x40, 0, 0, 0, true⟩)] }) d |>.bindCode 0 2 (t 4) = 0) ∧
    (let t (a : Word) : BindRec := ⟨0x20000, a, 3, 0, true, false⟩;
      d.pairable 0 1 (t 4) = true ∧ d.pairable 0 1 (t 2) = true ∧ d.pairable 0 1 (t 1) = false) ∧
    ((⟨.management 0, 2⟩ : RegAccess).bytes ≠ 4 ∧ (byDie 1).agent ≠ .management 0) := by decide +kernel
/-- R310: after a move from die 0 to die 1 and one to package 2, the first ids lead there. -/
theorem test_team_moves_twice : let s := bound fun d => { d with offers := [⟨2, 3, 0, 0, false, 2⟩] }
    let t := stateOf (exec (.teamMigration ⟨s.dev.pkgNum, 0⟩ 1 ⟨s.dev.pkgNum, 1⟩ 1) s) s
    let u := stateOf (exec (.teamMigration ⟨t.dev.pkgNum, 1⟩ 1 ⟨2, 3⟩ 1) t) t
    t.dev.awayOf 8 = none ∧ t.dev.placeOf 8 = 4104 ∧ t.dev.partOfCore 8 = t.dev.partOf 1 ∧ u.dev.awayOf 8 = some 2 := by decide +kernel
/-- R308, R309: the team moves to die 1 with its start records, and messages for its members follow. R310: away in package 2,
its ids lead there. -/
theorem test_team_moves : let s := bound fun d => { d with offers := [⟨2, 3, 0, 0, false, 2⟩] }
    let t := stateOf (exec (.teamMigration ⟨s.dev.pkgNum, 0⟩ 1 ⟨s.dev.pkgNum, 1⟩ 1) s) s
    let u := stateOf (exec (.teamMigration ⟨s.dev.pkgNum, 0⟩ 1 ⟨2, 3⟩ 1) s) s
    t.dev.placeOf 8 = 4104 ∧ (t.dev.core 4104).dq.waiting.length = 1 ∧ (t.dev.slot 0 1).valid = false ∧
    u.dev.awayOf 8 = some 2 ∧ u.dev.travel.map (fun m => m.members.map (·.1)) = [[0, 8]] := by decide +kernel
theorem test_bind_gives_start_records : let s := up id
    let t := stateOf (exec (.bindRecordWrite (byDie 0) 0 1 ⟨0x20305, 0, 3⟩ none) s) s
    ((t.dev.core 8).dq.waiting.map fun w => (recHandler w.r, lineWord w.r 3, lineWord w.r 4)) = [(5, 1, 2)] ∧ ((t.dev.core 8).handler 5).prio = 3 := by decide +kernel

/-- A module with one entry at the head of partition 0's queue. -/
def queued (e0 e1 e2 e3 : Nat) (data : Line) : State := up fun d => { d with
  regs := [(0x2001800000, 1), (0x2001800004, 0x10)],
  mem := writeBytes [] 0x1000000000 (leBytes 4 e0 ++ leBytes 4 e1 ++ leBytes 8 e2 ++ leBytes 4 e3 ++ List.replicate 44 0 ++ leBytes 64 data.toNat),
  launches := [(0, ⟨0, 1, false, 0, false, false, 0, none, none, false⟩)] }

/-- An entry of each kind is next, as it was written; its fields at their bounds; cores that may be loaded; the registers that
kind 3 writes; row 0 of the fixed window; sweeps of an idle partition. -/
theorem test_witness_LaunchEvents_entries :
    (∀ k ∈ [0, 1, 2, 3, 4, 5, 6, 7], ((queued k 0 0 0 0).dev.nextEntry 0).map (fun e => (bits e.e0 3 0, bits e.e0 15 4, bits e.e0 31 16, e.clear)) =
      some (k, 0, 0, true)) ∧
    ((queued 0x18 0 0 0 0).dev.nextEntry 0).map (fun e => bits e.e0 15 4) = some 1 := by decide +kernel
theorem test_witness_LaunchEvents :
    let d := (up id).dev
    (isCore 0 = true ∧ d.partOfCore 0 = 0 ∧ isCore 1 = false) ∧ (recCount 0 ≤ 13 ∧ recNet 0 % 2 = 0 ∧ recPackage 0 = 0) ∧
    recNet (lineOfWords [recWord0 0 1 0 false 0]) % 2 = 1 ∧ 13 < recCount (lineOfWords [recWord0 0 0 14 false 0]) ∧
    (bits (255 : Word) 31 8 = 0 ∧ bits (0x1FFFD7 : Word) 3 3 = 0 ∧ bits (0x1FFFD7 : Word) 7 4 ≤ 13 ∧ bits (0xFFFFFFFFFFFC4 : DWord) 2 0 ≤ 4) ∧
    (d.core 0).loadable = true ∧ ((unit 0 false id).dev.core 0).loadable = false ∧ (d.writeReg 0 false 0 3).isSome = true ∧ (d.writeReg 0 true 9 3).isSome = true ∧
    (bits (0x2FFC0 : Word) 5 0 = 0 ∧ bits (0x2FFC0 : Word) 17 0 + 64 ≤ spSize 0 ∧ inImage 0 0x2FDC0 = false ∧ inImage 0 0x2FFC0 = true) ∧
    (d.rowsIn 0 0x200000000 4 = true ∧ rowAt 0x200000000 = some ⟨0, 0, true⟩ ∧ d.bankOps 0 = []) ∧
    ((d.launch 0).batchOpen = false ∧ (d.launch 0).quiet = false ∧ d.partOf 7 = 0) ∧ d.sweepNow 0 = (true, 0, 0) ∧
    ((unit 0 false id).dev.sweepNow 0).1 = false := by decide +kernel
theorem test_launch_record_and_error : let s := queued 1 0 0 0 (lineOfWords [5])
    let t := queued 7 0 0 0 0
    (stateOf (exec (.launchEntryRecord 0) s) s).dev.flights.map (fun f => (f.dst, f.r)) = [(0, 5)] ∧
    ((stateOf (exec (.launchEntryRecord 0) t) t).dev.launch 0).err = 1 := by decide +kernel

/-- A supervisor of the partition; credits that fit the 64 and that do not; a die that runs nothing; a notice held and 64 of them;
no launch yet; the bounds of application memory; the egress window at its base, its slot 1,023, and a token that may leave. -/
theorem test_witness_RegisterEvents :
    let d := (up id).dev
    let e := (up fun d => { d with regs := [(0x2002000000, 1), (0x2002000004, 0x10), (0x2002000014, 0x10), (0x200200001C, 5)], mem := [(0x1000000000, 1), (0x1000000004, 1), (0x100000000C, 1)] }).dev
    d.boot = .running ∧ (isMarkhor (bits (0x10008 : Word) 15 0) = true ∧ d.partOfCore 8 = 0 ∧ (0x10008 : Word).getLsbD 16 = true) ∧
    ((List.range 8).map fun k => if k = 0 then bits (0x0800 : Word) 14 8 else bits (d.part k).qos 14 8).sum = 64 ∧
    64 < ((List.range 8).map fun k => if k = 0 then bits (0x0900 : Word) 14 8 else bits (d.part k).qos 14 8).sum ∧
    (d.cores.map (·.1)).Nodup ∧ (let c := { Core.reset 0 with mxu := { (Core.reset 0).mxu with govFrom := some 0, winRows := 128 } };
      c.mxu.govFrom.isSome = true ∧ min c.cr.mxbud (d.governor 0) ≤ c.mxu.winRows) ∧
    d.dieFree 7 = true ∧ (∀ p ∈ d.launches, p.2.launchOpen = false ∧ p.2.batches = 0) ∧ d.supervisor 0 = none ∧
    ((d.setPart 0 ⟨0x10008, 0, 0, [⟨true, 0⟩]⟩).supervisor 0 = some 8 ∧ ((d.setPart 0 ⟨0x10008, 0, 0, [⟨true, 0⟩]⟩).give 0 8 ⟨true, 0⟩).isSome = true ∧ d.awayOf 8 = none) ∧
    ((d.part 0).held.length < 64 ∧ 64 ≤ ((d.setPart 0 { d.part 0 with held := List.replicate 64 ⟨false, 0⟩ }).part 0).held.length) ∧
    bits (FMap.get [((0x2001000800 : Nat), BitVec.ofNat 32 (causeCode .irq))] 0x2001000800 0) 7 0 = causeCode .irq ∧
    (0x1000000000 ≤ 0x1FFFFFFFF0 ∧ 0x1FFFFFFFF0 + 16 ≤ 0x2000000000 ∧ 0x0FFFFFFFFF < 0x1000000000) ∧
    (e.egressBase = some 0x1000000000 ∧ readWord e.mem 0x100000000C = 1 ∧ (readWord e.mem 0x1000000008).toNat < (readWord e.mem 0x1000000000).toNat ∧
      (readWord e.mem 0x1000000008).toNat < (readWord e.mem 0x1000000004).toNat ∧ (e.ert + 1) % 4096 ≠ 5 ∧
      (readWord e.mem (0x1000000000 + 2048 * 1023 + 12)).getLsbD 0 = false) := by decide +kernel
theorem test_qos_limit : let s := up id
    bits ((stateOf (exec (.partQosWrite ⟨⟨.application, 4⟩, 0⟩ 0x00FF0800) s) s).dev.part 0).qos 23 16 = 128 ∧
    ((stateOf (exec (.partQosWrite ⟨⟨.application, 4⟩, 0⟩ 0x00FF0900) s) s).dev.part 0).qos = Part.reset.qos ∧
    (stateOf (exec (.partQosWrite ⟨⟨.application, 2⟩, 0⟩ 0x00FF0800) s) s).dev = s.dev := by decide +kernel
/-- An agent that a register obeys and that it does not; the private memory's last word, the window, its hole and what is beyond. -/
theorem test_witness_RegisterEvents_access :
    let d := (up fun d => { d with dieParts := [(1, 1)] }).dev
    ((byDie 0).bytes = 4 ∧ (byDie 0).agent = .management 0 ∧ d.partOf 0 = 0) ∧ (∀ k, k < 8 → (byDie 1).agent = .management k → d.partOf k ≠ 0) ∧
    (⟨.application, 2⟩ : RegAccess).bytes ≠ 4 ∧ byDie 0 ≠ ⟨.application, 4⟩ ∧
    (FMap.get (d.manage 0 0x3FFFFC 4 (.write 7)).mgmtMem 0 [] = [(0x3FFFFC, 7)] ∧ (0x3FFFFC + 4 ≤ 0x400000)) ∧
    FMap.get (d.manage 0 0xF0000008 4 .read).mgmtReply 0 9 = 0 ∧ d.manage 0 0xF0110000 4 (.write 7) = d ∧
    FMap.get (d.manage 0 0x400000 1 .read).mgmtFaults 0 [] = [0x400000] := by
  refine ⟨by decide +kernel, ?_, by decide, by decide, by decide +kernel⟩
  intro k _ h
  cases h
  decide +kernel

/-- The last granule of a scratchpad; an activation that may roll back; a partition with every die and one with none; the two home
spaces; a package that is not this one; links in each state; a refused image, and the images that the free verifier accepts. -/
theorem test_witness_DeviceEvents :
    let d := (up id).dev
    16 * 0x2FFF < spSize 0 ∧
    (let c := (unit 0 false id).dev.core 0; (∃ a, c.act = some a ∧ a.handling = false) ∧ c.cr.redo = false ∧ c.fore.region.post = none ∧
      c.hind.region.post = none ∧ c.fore.region.pass = none ∧ c.hind.region.pass = none) ∧
    (d.diesOf 0 ≠ [] ∧ d.diesOf 7 = [] ∧ d.drained (d.diesOf 0) = true ∧ FMap.find d.shadow 7 = none) ∧
    (isCore 0 = true ∧ d.partOfCore 0 = 0 ∧ (d.part 0).sup.getLsbD 16 = false ∧ ({ d with dieParts := [(0, 1)] } : Device).partOfCore 0 ≠ 0) ∧
    (let e (n : Nat) : Device := { d with heldPackets := [(1, [packet n])] }
      let cut : Device := (List.range 8).foldl (fun d k => [k + 1, k + 2].foldl (fun d j => d.setLink (.boundary k j) ⟨3, .down⟩) d) (e 0);
      (e 0).packets 0 1 = [packet 0] ∧ (packet 0).arrived = false ∧ (e 0).expected 0 1 = 0 ∧ (e 1).packets 0 1 = [packet 1] ∧
      (e 0).routeOpen (routeOf false 0 1) = true ∧ cut.routeOpen (routeOf false 0 1) = false ∧
      0 < ({ d with nextSeq := [(1, 1)] } : Device).expected 0 1) ∧
    (255 ≠ d.pkgNum ∧ FMap.get d.heldFab 255 [] = [] ∧ ((d.setPart 0 ⟨0x20000, 0, 0, []⟩).part 0).sup.getLsbD 17 = true) ∧
    (linkExists (.boundary 0 1) = true ∧ linkExists (.group 2) = true ∧ (d.link (.group 2)).st = .up) ∧
    (∀ st ∈ [LinkSt.up, .retraining, .down], ((d.setLink (.group 2) ⟨1, st⟩).link (.group 2)).st = st) :=
  ⟨by decide, ⟨⟨_, rfl, rfl⟩, rfl, rfl, rfl, rfl, rfl⟩, by decide, by decide, by decide, by decide, by decide⟩
/-- An image that the key of a module whose every field is 0 but a 1 verifies: the neutral point for the key and for R, and 0 for
S, satisfy the equation of RFC 8032 for any message. -/
def signed (v : Nat) : Image := ⟨[], leBytes 114 1, v⟩
theorem test_witness_DeviceEvents_boot : Device.reset.boot = .off ∧
    ed448Verify (leBytes 57 (1 : BitVec 456).toNat) (leBytes 64 (digest (signed 1).bytes).toNat) (signed 1).signature = true ∧
    ed448Verify (leBytes 57 (1 : BitVec 456).toNat) (leBytes 64 (digest []).toNat) [] = false ∧
    ((signed 1).version < ({ Device.reset with secVer := 2 } : Device).secVer ∧ Device.reset.secVer ≤ (signed 1).version ∧
      max Device.reset.secVer (signed 1).version ≤ (signed 1).version ∧ (signed 0).version < max Device.reset.secVer (signed 1).version) :=
  ⟨rfl, by decide +kernel, by decide +kernel, by decide⟩
/-- RFC 8032, section 7.4, the first vector: the signature of the empty message. -/
theorem test_ed448_sign : ed448Sign (leBytes 57
      0x6C82A562CB808D10D632BE89C8513EBF6C929F34DDFA8C9F63C9960EF6E348A3528C8A3FCC2F044E39A3FC5B94492F8F032E7549A20098F95B).reverse [] =
    (leBytes 114 0x533A37F6BBE457251F023C0D88F976AE2DFB504A843E34D2074FD823D41A591F2B233F034F628281F2FD7A22DDD47D7828C59BD0A21BFD3980FF0D2028D4B18A9DF63E006C5D1C2D345B925D8DC00B4104852DB99AC5C7CDDA8530A113A0F4DBB61149F05A7363268C71D95808FF2E652600).reverse := by
  decide +kernel
theorem test_rail_loss : let s := up id
    (stateOf (exec (.railLoss (.group 2)) s) s).dev.link (.group 2) = ⟨1, .up⟩ := by decide +kernel

/-! ## Steps and frames -/

/-- `mov g1, g2` and `mov g2, g1` as a pair in slots 0 and 1 (lanes 0 and 1, target bit of slot 0), and the first alone. -/
def swapLine : Line := makeLine [0x030001020000000000000000, 0x030002010000000000000000] (1 + 0x1E * 2 ^ 4 + 2 ^ 9)
def swapper (l : Line) : State := ((regs [(1, 5), (2, 6)]).withLine l)

def movLine : Line := wordLine 0x030001020000000000000000

theorem test_witness_StepRunsTheDecodedGroup (l : Line) : let s := swapper l
    let s0 := State.offer { s.advance with agenda := [] } 0 false
    s.agenda = .turn 0 false :: [] ∧ isCore 0 = true ∧ (s.dev.core 0).stopped = false ∧ s0.stream.running = true ∧ s.dev.twinOf 0 = none ∧
    s0.issue.pc = 0 ∧ s0.stream.entering = none ∧ s0.stream.ending = false ∧ s0.stream.struck = none ∧ s0.core.dying = none :=
  ⟨rfl, by decide, rfl, rfl, rfl, rfl, rfl, rfl, rfl, rfl⟩
theorem test_witness_StepRunsTheDecodedGroup_one : parityOk movLine = true ∧ lineCause movLine = none ∧ pairBit movLine 0 = false ∧
    (halfAt movLine 0 0).placed = true ∧ (halfAt movLine 0 0).code = 0x030001020000000000000000 ∧
    decode 0x030001020000000000000000 = .ok (.mov (.w (.reg (.g 1)) (.reg (.g 2)))) :=
  ⟨by decide +kernel, by decide +kernel, by decide +kernel, by decide +kernel, by decide +kernel, rfl⟩
theorem test_witness_StepRunsTheDecodedGroup_fits : let i : Instr := .mov (.w (.reg (.g 1)) (.reg (.g 2))); let j : Instr := .mov (.w (.reg (.g 2)) (.reg (.g 1)))
    i.preCause 0 false = none ∧ j.preCause 0 false = none ∧ (regs [(1, 5), (2, 6)]).stream.held i = false ∧ (regs [(1, 5), (2, 6)]).stream.held j = false ∧
    (∀ r ∈ i.mainDests, r ∉ j.mainDests) ∧ leaves i = false ∧ (stateOf (exec i (regs [])) (regs [])).took = none := by decide
theorem test_witness_StepRunsTheDecodedGroup_two : parityOk swapLine = true ∧ lineCause swapLine = none ∧ pairBit swapLine 0 = true ∧
    (halfAt swapLine 0 0).placed = true ∧ (halfAt swapLine 0 1).placed = true ∧ (halfAt swapLine 0 0).code = 0x030001020000000000000000 ∧
    (halfAt swapLine 0 1).code = 0x030002010000000000000000 :=
  ⟨by decide +kernel, by decide +kernel, by decide +kernel, by decide +kernel, by decide +kernel, by decide +kernel, by decide +kernel⟩
/-- A `pcom` that has not drawn, beside a half that waits and one that completes. -/
theorem test_witness_StepRunsTheDecodedGroup_pcom :
    let s := inRegion ⟨.opened, [], [], none, none, 0, none⟩
    let p : State := { s with issue := { s.issue with paired := true } }
    (p.stream.region.st = .opened ∧ p.stream.region.post = none) ∧
    (stateOf (exec (.mov (.w (.reg (.g 1)) (.reg (.q 1)))) (p.modCore fun c => { c with cr := { c.cr with qdir := 2 } })) p).blocked = true ∧
    ((stateOf (exec (.mov (.w (.reg (.g 1)) (.imm 1))) p) p).blocked = false ∧ (stateOf (exec (.mov (.w (.reg (.g 1)) (.imm 1))) p) p).took = none) := by decide +kernel
/-- R28: the halves of a pair read what was before the group. -/
theorem test_pair_swaps : let t := stateOf (step (swapper swapLine)) (regs [])
    (t.dev.core 0).fore.reg 1 = 6 ∧ (t.dev.core 0).fore.reg 2 = 5 ∧ (t.dev.core 0).fore.pc = 2 := by decide +kernel
theorem test_withFetchWord : let t := stateOf (step (State.reset.withFetchWord 96 0x001101020000000000000005)) (regs [])
    (t.dev.core 0).fore.reg 1 = 5 ∧ (t.dev.core 0).fore.pc = 1 := by decide +kernel
/-- R339: a load that has come back poisoned; a publication of the other stream, which a trap waits for. -/
theorem test_witness_GroupChecksTrap_struck :
    let s (f : Core → Core) := (swapper swapLine).modCore f
    ((s fun c => { c with fore := { c.fore with struck := some (0x40, 7) } }).offer 0 false).stream.struck = some (0x40, 7) ∧
    ((s fun c => { c with hind := { c.hind with region := ⟨.opened, [], [], none, some ⟨1, 0, true, 0, 0, 0, false⟩, 0, none⟩ } }).offer 0 false).core.publishing true = true ∧
    ((s id).offer 0 false).core.publishing true = false := by decide +kernel
/-- An error on a core that publishes: with a line left, and with none; a record that waits to start again, and a task. -/
def publisher (ws : List WsLine) (e : Option Dying) : State := (swapper swapLine).modCore fun c =>
  { c with dying := e, fore := { c.fore with region := ⟨.opened, [], ws, none, some ⟨1, 0, true, 0, 0, 0, false⟩, 0, none⟩ } }
theorem test_witness_DeviceEvents_dying :
    (let c := (publisher [⟨64, 64, 7, 1⟩] none).dev.core 0; (∃ a, c.act = some a ∧ a.handling = false) ∧ c.fore.region.post.isSome = true ∧
      c.hind.region.post = none ∧ c.fore.region.pass = none ∧ c.hind.region.pass = none ∧ c.cr.redo = false) ∧
    ((publisher [⟨64, 64, 7, 1⟩] none).dev.linkIdle 0 64 = true ∧ (onDev (publisher [] none) fun d => { d with heldPackets := [(1, [packet 0])] }).dev.linkIdle 0
      0x30000000 = false) ∧
    ([⟨0, none, false, 0⟩][0]? = some (⟨0, none, false, 0⟩ : Activation)) ∧ ([⟨0, 0, []⟩][0]? = some (⟨0, 0, []⟩ : Task)) :=
  ⟨⟨⟨_, rfl, rfl⟩, rfl, rfl, rfl, rfl, rfl⟩, by decide +kernel, rfl, rfl⟩
/-- R236: the error waits; the stream's turns publish the line and end the activation, whose record starts again. -/
theorem test_dying : let s := publisher [⟨64, 64, 7, 1⟩] none
    let t := stateOf (exec (.uncorrectableError (.activation 0 2)) s) s
    let d := t.dev.completes 0 false ⟨2, 0, none⟩
    let e := d.completes 0 false ⟨2, 0, none⟩
    (t.dev.core 0).dying = some ⟨2, 0, none⟩ ∧ (t.dev.core 0).act.isSome = true ∧ readByte d.mem 64 = 7 ∧ (d.core 0).act.isSome = true ∧
    (e.core 0).act = none ∧ (e.core 0).redeliver.length = 1 ∧ (e.core 0).dying = none := by decide +kernel
/-- An activation in trap handling; an error that then waits, and that ends with the stop; a write-back counted, and not. -/
theorem test_witness_DeviceEvents_halts :
    let a : Activation := ⟨0, none, true, 0⟩
    let c := (unit 0 false fun c => { c with act := some a }).dev.core 0
    (c.act = some a ∧ a.handling = true ∧ c.fore.region.post = none ∧ c.hind.region.post = none) ∧
    (∀ h ∈ [none, some Cause.uncorr], (⟨2, 0, h⟩ : Dying).halts = h) := by decide +kernel
/-- R236, R330: the stop waits for the publication, whose line is written before the core stops. -/
theorem test_dying_in_handling : let s := (publisher [⟨64, 64, 7, 1⟩] none).modCore fun c => { c with act := some ⟨0, none, true, 0⟩ }
    let t := stateOf (exec (.uncorrectableError (.activation 0 2)) s) s
    let d := t.dev.completes 0 false ((t.dev.core 0).dying.getD ⟨0, 0, none⟩)
    let e := d.completes 0 false ((d.core 0).dying.getD ⟨0, 0, none⟩)
    (t.dev.core 0).dying.isSome = true ∧ readByte d.mem 64 = 7 ∧ (d.core 0).stopped = false ∧ (e.core 0).stopped = true ∧ (e.core 0).dying = none := by decide +kernel
/-- An error that waits; a trap held by an earlier load, and by none. -/
theorem test_witness_GroupChecksTrap_waits : ((publisher [] (some ⟨2, 0, none⟩)).offer 0 false).core.dying = some ⟨2, 0, none⟩ ∧
    ((swapper swapLine).offer 0 false).core.loadsDone false = true ∧
    (((swapper swapLine).modStream fun t => { t with acc := [access .load] }).offer 0 false).core.loadsDone false = false := by decide +kernel
/-- R329: a poisoned answer of a suspended stream: its load issues again, with those behind it; the store stays. -/
def suspendedLoads : State := onDev ((regs []).modCore fun c => { c with
    susp := some ⟨{ c.fore with acc := [access .load, access .store, access .load] }, Stream.reset, c.act, false, false⟩ })
  fun d => { d with memPoison := [4] }
theorem test_witness_MemoryEvents_struck : (∃ p, (suspendedLoads.dev.core 0).susp = some p ∧ p.fore.acc[0]? = some (access .load)) ∧
    (access .load).seq = none ∧ suspendedLoads.dev.accessCrosses 0 .load 64 = false ∧ (suspendedLoads.dev.loadBad 0 64 4 false).isSome = true :=
  ⟨⟨_, rfl, rfl⟩, rfl, by decide +kernel, by decide +kernel⟩
theorem test_suspended_load_again : ((stateOf (exec (.globalLoadReturn 0 false 0) suspendedLoads) (regs [])).dev.core 0).susp.map (fun p =>
    (p.fore.pc, p.fore.struck, p.fore.acc.map (·.kind))) = some (0x1000, none, [.store]) := by decide +kernel
/-- It takes POISON at its load's group, before the group that it would issue. -/
theorem test_struck : let t := stateOf (step ((swapper swapLine).modCore fun c => { c with fore := { c.fore with struck := some (0x40, 7) } })) (regs [])
    t.took = some .poison ∧ (t.dev.core 0).cr.epc = 0x40 ∧ (t.dev.core 0).cr.tval = 7 := by decide +kernel
/-- A malformed PC; a slot without its target bit; a line, a group and a word that are not allowed. -/
theorem test_witness_GroupChecksTrap :
    (bits (0x1008 : DWord) 5 3 ≠ 0 ∧ 4 < bits (0x1005 : DWord) 2 0 ∧ 4 < bits (0x1007 : DWord) 2 0) ∧ targetBit swapLine 1 = false ∧
    lineCause (makeLine [] (2 ^ 14)) = some .illline ∧ lineCause (makeLine [] (1 + 2 ^ 10)) = some .illline ∧ lineCause (makeLine [] 3) = some .illpair ∧
    (let l := makeLine [0x100000000000000000000000] (2 ^ 4); lineCause l = none ∧ (halfAt l 0 0).placed = false) ∧
    (let l := makeLine [0xC00000000000000000000000] 0; lineCause l = none ∧ (halfAt l 0 0).placed = true) := by decide +kernel
theorem test_witness_DecodeOfEncode : (Instr.nop).wf = true ∧ isEvent .nop = false ∧ (Instr.svc 0xFFFFFFFF).wf = true := by decide
/-- Memories in canonical form, listed bytes among them, and a step from them. -/
theorem test_witness_StepsKeep : (swapper swapLine).dev.wf ∧ (queued 1 0 0 0 5).dev.wf ∧
    (match step (swapper swapLine) with
      | .next _ => true
      | _ => false) = true :=
  ⟨⟨by decide +kernel, by decide +kernel, by decide +kernel⟩, ⟨by decide +kernel, by decide +kernel, by decide⟩, by decide +kernel⟩
theorem test_witness_RegisterFormsFrame : let i := Instr.add (.w (.reg (.g 2)) (.g 1) (.imm 1))
    let t := stateOf (exec i (regs [])) (regs [])
    let w := Instr.mov (.w (.win .e 15 0) (.imm 1))
    (wordForm i = true ∧ t.took = none ∧ t.blocked = false ∧ (1 : Nat) ∉ i.uses.wr ∧ 2 ∈ i.uses.wr ∧ (64 : Nat) ∉ i.uses.wr) ∧ windowOfForm i = none ∧
    windowOfForm w = some .e ∧ neighbour 0 .e = some 8 ∧ (stateOf (exec w beside) (regs [])).took = none := by decide +kernel
theorem test_witness_HomeBytesAndEvents : isEvent (.st ⟨.sub .w (.g 1), .glob .gz, 0⟩) = false ∧ reachesHome (.st ⟨.sub .w (.g 1), .glob .gz, 0⟩) = false ∧
    isEvent (.governorWindow 0) = true := by decide

end Sys2Proof.Tests
end

section
/-!
SUPPORT. Class 0: the operations of R59 and R60 in the terms of the manual, and the instructions that only combine a result
with its destination and latch.
-/

namespace Sys2Proof.Machine

/-! ## Operations (R59, R60) -/

theorem addSat_eq {w : Nat} (a b : BitVec w) :
    addSat a b = BitVec.ofInt w (max (-(2 ^ (w - 1))) (min (2 ^ (w - 1) - 1) (a.toInt + b.toInt))) := by
  rw [addSat, satInt_eq]

theorem subSat_eq {w : Nat} (a b : BitVec w) :
    subSat a b = BitVec.ofInt w (max (-(2 ^ (w - 1))) (min (2 ^ (w - 1) - 1) (a.toInt - b.toInt))) := by
  rw [subSat, satInt_eq]

/-- Two choices that differ only where the operands are equal, and then between equal results. -/
theorem ite_lt_eq_ite_le {α β : Type} [LinearOrder β] {i j : β} {p q : α} (h : i = j → p = q) :
    (if i < j then p else q) = if i ≤ j then p else q := by
  rcases lt_trichotomy i j with hlt | heq | hgt
  · rw [if_pos hlt, if_pos hlt.le]
  · rw [h heq, ite_self, ite_self]
  · rw [if_neg hgt.not_gt, if_neg hgt.not_ge]

theorem minSigned_eq {w : Nat} (a b : BitVec w) : minSigned a b = if a.toInt ≤ b.toInt then a else b := by
  simp only [minSigned, BitVec.slt_iff_toInt_lt]
  exact ite_lt_eq_ite_le BitVec.toInt_inj.1

theorem maxSigned_eq {w : Nat} (a b : BitVec w) : maxSigned a b = if a.toInt ≤ b.toInt then b else a := by
  simp only [maxSigned, BitVec.slt_iff_toInt_lt]
  exact ite_lt_eq_ite_le fun h => (BitVec.toInt_inj.1 h).symm

theorem minUnsigned_eq {w : Nat} (a b : BitVec w) : minUnsigned a b = if a.toNat ≤ b.toNat then a else b := by
  simp only [minUnsigned, BitVec.ult_iff_toNat_lt]
  exact ite_lt_eq_ite_le BitVec.eq_of_toNat_eq

theorem maxUnsigned_eq {w : Nat} (a b : BitVec w) : maxUnsigned a b = if a.toNat ≤ b.toNat then b else a := by
  simp only [maxUnsigned, BitVec.ult_iff_toNat_lt]
  exact ite_lt_eq_ite_le fun h => (BitVec.eq_of_toNat_eq h).symm

/-- The high word of a 64-bit pattern of an integer is its floor quotient by 2^32. -/
theorem extractHigh_ofInt (z : Int) : (BitVec.ofInt 64 z).extractLsb' 32 32 = BitVec.ofInt 32 (z / 2 ^ 32) := by
  apply BitVec.eq_of_toNat_eq
  simp only [BitVec.extractLsb'_toNat, BitVec.toNat_ofInt, Nat.shiftRight_eq_div_pow]
  omega

theorem mulHighS_eq (a b : Word) : mulHighS a b = (a.signExtend 64 * b.signExtend 64).extractLsb' 32 32 := by
  rw [BitVec.signExtend, BitVec.signExtend, ← BitVec.ofInt_mul, extractHigh_ofInt]
  rfl

theorem mulHighU_eq (a b : Word) : mulHighU a b = (a.setWidth 64 * b.setWidth 64).extractLsb' 32 32 := by
  apply BitVec.eq_of_toNat_eq
  have ha : (a.setWidth 64).toNat = a.toNat := BitVec.toNat_setWidth_of_le (by decide)
  have hb : (b.setWidth 64).toNat = b.toNat := BitVec.toNat_setWidth_of_le (by decide)
  simp only [mulHighU, BitVec.extractLsb'_toNat, BitVec.toNat_mul, BitVec.toNat_ofNat, ha, hb, Nat.shiftRight_eq_div_pow]
  generalize a.toNat * b.toNat = p
  omega

/-- The quotient 2^31 of the overflow case has the pattern of −2^31. -/
theorem divS_eq (a b : Word) : divS a b = if b = 0 then 0xFFFFFFFF else if a = 0x80000000 ∧ b = 0xFFFFFFFF then 0x80000000
    else BitVec.ofInt 32 (a.toInt.tdiv b.toInt) := by
  by_cases h : a = 0x80000000 ∧ b = 0xFFFFFFFF
  · obtain ⟨rfl, rfl⟩ := h
    decide
  · rw [if_neg h, divS]

theorem remS_eq (a b : Word) : remS a b = if b = 0 then a else if a = 0x80000000 ∧ b = 0xFFFFFFFF then 0
    else BitVec.ofInt 32 (a.toInt - b.toInt * a.toInt.tdiv b.toInt) := by
  by_cases h : a = 0x80000000 ∧ b = 0xFFFFFFFF
  · obtain ⟨rfl, rfl⟩ := h
    decide
  · rw [if_neg h, remS, Int.tmod_def]

theorem remU_eq (a b : Word) : remU a b = if b = 0 then a else a - BitVec.ofNat 32 (b.toNat * (a.toNat / b.toNat)) := by
  have h : BitVec.ofNat 32 (a.toNat % b.toNat) + BitVec.ofNat 32 (b.toNat * (a.toNat / b.toNat)) = a := by
    rw [← BitVec.ofNat_add, Nat.mod_add_div, BitVec.ofNat_toNat, BitVec.setWidth_eq]
  rw [remU, BitVec.eq_sub_iff_add_eq.2 h]

/-- The word that a compare writes is 1 where its relation holds, and 0 elsewhere. -/
theorem flagWord_of {p : Prop} {c : Bool} {r : Word} (hc : c = true ↔ p) (h : r = 1 ∧ p ∨ r = 0 ∧ ¬p) : flagWord c = r := by
  rcases h with ⟨rfl, hp⟩ | ⟨rfl, hp⟩
  · simp [flagWord, hc.2 hp]
  · simp [flagWord, mt hc.1 hp]

theorem not_slt_iff {w : Nat} (a b : BitVec w) : (!a.slt b) = true ↔ b.toInt ≤ a.toInt := by
  simp [BitVec.slt_eq_decide]

theorem not_ult_iff {w : Nat} (a b : BitVec w) : (!a.ult b) = true ↔ b.toNat ≤ a.toNat := by
  simp [BitVec.ult_eq_decide]

/-! ## Rows of a table of forms (R59) -/

/-- The instruction of a row has the shape `int3`, with the row's operation at both its widths. -/
def Int3Row (row : (Int3 → Instr) × ((w : Nat) → BitVec w → BitVec w → BitVec w)) : Prop :=
  ∃ (opW : Word → Word → Word) (opD : DWord → DWord → DWord), (∀ f s, exec (row.1 f) s = run (int3 opW opD f) s) ∧
    (∀ a b, opW a b = row.2 32 a b) ∧ ∀ a b, opD a b = row.2 64 a b

/-- The instruction of a row has the shape `int3W`, with the row's operation. -/
def Int3WRow (row : (Int3W → Instr) × (Word → Word → Word)) : Prop :=
  ∃ op : Word → Word → Word, (∀ f s, exec (row.1 f) s = run (int3W op f) s) ∧ ∀ a b, op a b = row.2 a b

/-- The instruction of a row has the shape `compare`, and decides the row's relation at both its widths. -/
def CompareRow (row : (Cmp → Instr) × ((w : Nat) → BitVec w → BitVec w → Prop)) : Prop :=
  ∃ (relW : Word → Word → Bool) (relD : DWord → DWord → Bool), (∀ f s, exec (row.1 f) s = run (compare relW relD f) s) ∧
    (∀ a b, relW a b = true ↔ row.2 32 a b) ∧ ∀ a b, relD a b = true ↔ row.2 64 a b

section
variable {row : (Int3 → Instr) × ((w : Nat) → BitVec w → BitVec w → BitVec w)}

theorem Int3Row.exec_w (h : Int3Row row) {d : WDst} {a : Src} {b : ISrc} {x y : Word} {s s1 s2 s3 : State}
    (ha : Reads a s.begin x s1) (hb : ReadsI b s1 y s2) (hd : Writes d (row.2 32 x y) s2 s3) :
    exec (row.1 (.w d a b)) s = .next (s3.latched (row.2 32 x y)) := by
  obtain ⟨opW, opD, hexec, hopW, -⟩ := h
  rw [← hopW] at hd
  rw [hexec, ← hopW]
  exact int3_w ha hb hd

theorem Int3Row.exec_d (h : Int3Row row) (d a : PairReg) (b : PSrc) (s : State) :
    let r := row.2 64 (s.begin.pairOf a) (s.begin.psrcOf b)
    exec (row.1 (.d d a b)) s = .next ((s.begin.putPair d r).latched (r.extractLsb' 0 32)) := by
  obtain ⟨opW, opD, hexec, -, hopD⟩ := h
  simp only [hexec, ← hopD]
  exact int3_d

end

theorem Int3WRow.exec_eq {row : (Int3W → Instr) × (Word → Word → Word)} (h : Int3WRow row) {d : WDst} {a : Src} {b : ISrc}
    {x y : Word} {s s1 s2 s3 : State} (ha : Reads a s.begin x s1) (hb : ReadsI b s1 y s2) (hd : Writes d (row.2 x y) s2 s3) :
    exec (row.1 ⟨d, a, b⟩) s = .next (s3.latched (row.2 x y)) := by
  obtain ⟨op, hexec, hop⟩ := h
  rw [← hop] at hd
  rw [hexec, ← hop]
  exact int3W_of ha hb hd

section
variable {row : (Cmp → Instr) × ((w : Nat) → BitVec w → BitVec w → Prop)}

theorem CompareRow.exec_w (h : CompareRow row) {d : WDst} {a : Src} {b : ISrc} {x y r : Word} {s s1 s2 s3 : State}
    (ha : Reads a s.begin x s1) (hb : ReadsI b s1 y s2) (hr : r = 1 ∧ row.2 32 x y ∨ r = 0 ∧ ¬row.2 32 x y)
    (hd : Writes d r s2 s3) : exec (row.1 (.w d a b)) s = .next (s3.latched r) := by
  obtain ⟨relW, relD, hexec, hrelW, -⟩ := h
  obtain rfl := flagWord_of (hrelW x y) hr
  rw [hexec]
  exact compare_w ha hb hd

theorem CompareRow.exec_d (h : CompareRow row) {d : WDst} {a : PairReg} {b : PSrc} {r : Word} {s t : State}
    (hr : r = 1 ∧ row.2 64 (s.begin.pairOf a) (s.begin.psrcOf b) ∨ r = 0 ∧ ¬row.2 64 (s.begin.pairOf a) (s.begin.psrcOf b))
    (hd : Writes d r s.begin t) : exec (row.1 (.d d a b)) s = .next (t.latched r) := by
  obtain ⟨relW, relD, hexec, -, hrelD⟩ := h
  obtain rfl := flagWord_of (hrelD _ _) hr
  rw [hexec]
  exact compare_d hd

end

/-- Settles O1: each row of the three tables has its shape, by the equation of its operation. -/
theorem integerArithmetic : Obligations.IntegerArithmetic := by
  refine ⟨fun row hrow => ?arithmetic, fun row hrow => ?division, fun row hrow r => ?compares⟩
  case arithmetic =>
    suffices h : Int3Row row from ⟨fun _ _ _ _ _ _ _ _ _ => h.exec_w, h.exec_d⟩
    revert row
    simp only [List.forall_mem_cons, List.not_mem_nil, false_imp_iff, implies_true, and_true]
    refine ⟨?add, ?sub, ?adds, ?subs, ?mul, ?min, ?max, ?minu, ?maxu, ?and, ?or, ?xor, ?andn, ?shl, ?shr, ?sra, ?rol⟩
    case adds => exact ⟨_, _, fun _ _ => rfl, addSat_eq, addSat_eq⟩
    case subs => exact ⟨_, _, fun _ _ => rfl, subSat_eq, subSat_eq⟩
    case min => exact ⟨_, _, fun _ _ => rfl, minSigned_eq, minSigned_eq⟩
    case max => exact ⟨_, _, fun _ _ => rfl, maxSigned_eq, maxSigned_eq⟩
    case minu => exact ⟨_, _, fun _ _ => rfl, minUnsigned_eq, minUnsigned_eq⟩
    case maxu => exact ⟨_, _, fun _ _ => rfl, maxUnsigned_eq, maxUnsigned_eq⟩
    case add | sub | mul | and | or | xor | andn | shl | shr | sra | rol =>
      exact ⟨_, _, fun _ _ => rfl, fun _ _ => rfl, fun _ _ => rfl⟩
  case division =>
    suffices h : Int3WRow row from fun _ _ _ _ _ _ _ _ _ => h.exec_eq
    revert row
    simp only [List.forall_mem_cons, List.not_mem_nil, false_imp_iff, implies_true, and_true]
    exact ⟨⟨_, fun _ _ => rfl, mulHighS_eq⟩, ⟨_, fun _ _ => rfl, mulHighU_eq⟩, ⟨_, fun _ _ => rfl, divS_eq⟩,
      ⟨_, fun _ _ => rfl, fun _ _ => rfl⟩, ⟨_, fun _ _ => rfl, remS_eq⟩, ⟨_, fun _ _ => rfl, remU_eq⟩⟩
  case compares =>
    suffices h : CompareRow row from ⟨fun _ _ _ _ _ _ _ _ _ => h.exec_w, fun _ _ _ _ _ => h.exec_d⟩
    revert row
    simp only [List.forall_mem_cons, List.not_mem_nil, false_imp_iff, implies_true, and_true]
    refine ⟨?seq, ?sne, ?slt, ?sge, ?sltu, ?sgeu⟩
    case seq => exact ⟨_, _, fun _ _ => rfl, fun _ _ => beq_iff_eq, fun _ _ => beq_iff_eq⟩
    case sne => exact ⟨_, _, fun _ _ => rfl, fun _ _ => bne_iff_ne, fun _ _ => bne_iff_ne⟩
    case slt => exact ⟨_, _, fun _ _ => rfl, fun _ _ => BitVec.slt_iff_toInt_lt, fun _ _ => BitVec.slt_iff_toInt_lt⟩
    case sge => exact ⟨_, _, fun _ _ => rfl, not_slt_iff, not_slt_iff⟩
    case sltu => exact ⟨_, _, fun _ _ => rfl, fun _ _ => BitVec.ult_iff_toNat_lt, fun _ _ => BitVec.ult_iff_toNat_lt⟩
    case sgeu => exact ⟨_, _, fun _ _ => rfl, not_ult_iff, not_ult_iff⟩

/-! ## Selection, addresses, moves and the bound check (R59, R62, R63) -/

section
variable {s s1 s2 s3 s4 : State}

theorem exec_sel {f : SelOp} {x y z : Word} (ha : Reads f.a s.begin x s1) (hb : Reads f.b s1 y s2) (hc : Reads f.c s2 z s3)
    (hd : Writes f.d (if z ≠ 0 then x else y) s3 s4) : exec (.sel f) s = .next (s4.latched (if z ≠ 0 then x else y)) := by
  apply run_ok
  rw [bind_ok ha, bind_ok hb, bind_ok hc]
  exact deliverW_of hd

theorem exec_lea_w {d : WDst} {a b : Src} {n : Fin 8} {off x y : Word} (ha : Reads a s.begin x s1) (hb : Reads b s1 y s2)
    (hd : Writes d (x + (y <<< n.val) + off) s2 s3) :
    exec (.lea (.w d a b n off)) s = .next (s3.latched (x + (y <<< n.val) + off)) := by
  apply run_ok
  simp only []
  rw [bind_ok ha, bind_ok hb]
  exact deliverW_of hd

theorem exec_lea_d {d a : PairReg} {b : Src} {n : Fin 8} {off y : Word} (hb : Reads b s.begin y s1) :
    let r := s.begin.pairOf a + (y.signExtend 64 <<< n.val) + off.signExtend 64
    exec (.lea (.d d a b n off)) s = .next ((s1.putPair d r).latched (r.extractLsb' 0 32)) := by
  apply run_ok
  simp only []
  rw [bind_ok (readPair_run ..), bind_ok hb]
  exact deliverD_run ..

theorem exec_mov_w {d : WDst} {a : ISrc} {x : Word} (ha : ReadsI a s.begin x s1) (hd : Writes d x s1 s2) :
    exec (.mov (.w d a)) s = .next (s2.latched x) := by
  apply run_ok
  simp only []
  rw [bind_ok ha]
  exact deliverW_of hd

theorem exec_mov_d (d : PairReg) (a : PSrc) (s : State) : exec (.mov (.d d a)) s =
    .next ((s.begin.putPair d (s.begin.psrcOf a)).latched ((s.begin.psrcOf a).extractLsb' 0 32)) := by
  apply run_ok
  simp only []
  rw [bind_ok (readPSrc_run ..)]
  exact deliverD_run ..

theorem exec_nop (s : State) : exec .nop s = .next s.begin := run_ok (pure_run ..)

theorem exec_chkb_passes {f : ChkOp} {x y : Word} (ha : Reads f.a s.begin x s1) (hb : ReadsI f.b s1 y s2)
    (h : x.toNat < y.toNat) : exec (.chkb f) s = .next (s2.latched x) := by
  apply run_ok
  rw [bind_ok ha, bind_ok hb, if_pos (BitVec.ult_iff_toNat_lt.2 h)]
  exact writeLatch_run ..

theorem exec_chkb_traps {f : ChkOp} {x y : Word} (ha : Reads f.a s.begin x s1) (hb : ReadsI f.b s1 y s2)
    (h : y.toNat ≤ x.toNat) : exec (.chkb f) s = .next (s.takeTrap .bound s.issue.pc (x.setWidth 64)) := by
  apply run_trap
  rw [bind_ok ha, bind_ok hb, if_neg (mt BitVec.ult_iff_toNat_lt.1 h.not_gt)]
  exact trapW_run ..

end

/-- Settles O3, instruction by instruction; `chkb` by whether its check passes. -/
theorem selectAddressMoveCheck : Obligations.SelectAddressMoveCheck :=
  ⟨fun _ _ _ _ _ _ _ _ _ => exec_sel, fun _ _ _ _ _ _ _ _ _ _ _ => exec_lea_w, fun _ _ _ _ _ _ _ _ => exec_lea_d,
    fun _ _ _ _ _ _ => exec_mov_w, exec_mov_d, exec_nop, fun _ _ _ _ _ _ => exec_chkb_passes,
    fun _ _ _ _ _ _ => exec_chkb_traps⟩

end Sys2Proof.Machine
end

section
/-!
SUPPORT. The acceptance test: what an FP32 word stands for by its fields (R100), comparisons of non-negative values at a
common quantum, and the branches of the test (R120).
-/

namespace Sys2Proof.Machine

/-! ## FP32 words by their fields (R100) -/

/-- The sign of an FP32 word is its bit 31. -/
theorem unpack_neg_eq_getLsbD (r : Word) : decide (r.toNat / fp32.signBit % 2 = 1) = r.getLsbD 31 :=
  (Nat.testBit_eq_decide_div_mod_eq ..).symm

theorem f32_of_emax_zero {r : Word} (hex : r.toNat / 2 ^ 23 % 2 ^ 8 = 255) (hfr : r.toNat % 2 ^ 23 = 0) :
    f32 r = .inf (r.getLsbD 31) := by
  rw [← unpack_neg_eq_getLsbD]
  exact (if_pos hex).trans (if_pos hfr)

theorem f32_of_emax_pos {r : Word} (hex : r.toNat / 2 ^ 23 % 2 ^ 8 = 255) (hfr : r.toNat % 2 ^ 23 ≠ 0) :
    ∃ sig, f32 r = .nan sig :=
  ⟨_, (if_pos hex).trans (if_neg hfr)⟩

/-- A subnormal or a zero. -/
theorem f32_of_ex_zero {r : Word} (hex : r.toNat / 2 ^ 23 % 2 ^ 8 = 0) :
    f32 r = .fin (r.getLsbD 31) (r.toNat % 2 ^ 23) (-149) := by
  rw [← unpack_neg_eq_getLsbD]
  exact (if_neg (hex.trans_ne (by decide))).trans (if_pos hex)

/-- A normal number. -/
theorem f32_of_ex_normal {r : Word} (h255 : r.toNat / 2 ^ 23 % 2 ^ 8 ≠ 255) (h0 : r.toNat / 2 ^ 23 % 2 ^ 8 ≠ 0) :
    f32 r = .fin (r.getLsbD 31) (2 ^ 23 + r.toNat % 2 ^ 23) ((r.toNat / 2 ^ 23 % 2 ^ 8 : Nat) - 127 - 23) := by
  rw [← unpack_neg_eq_getLsbD]
  exact (if_neg h255).trans (if_neg h0)

theorem f32_of_isNanWord {r : Word} (h : isNanWord r) : ∃ sig, f32 r = .nan sig := by
  unfold isNanWord at h
  exact f32_of_emax_pos (by omega) (by omega)

/-- A word that is no NaN stands for an infinity or a finite value, with the sign of its bit 31. -/
theorem f32_of_not_isNanWord {r : Word} (h : ¬isNanWord r) :
    f32 r = .inf (r.getLsbD 31) ∨ ∃ m e, f32 r = .fin (r.getLsbD 31) m e := by
  unfold isNanWord at h
  by_cases h255 : r.toNat / 2 ^ 23 % 2 ^ 8 = 255
  · exact .inl (f32_of_emax_zero h255 (by omega))
  · by_cases h0 : r.toNat / 2 ^ 23 % 2 ^ 8 = 0
    · exact .inr ⟨_, _, f32_of_ex_zero h0⟩
    · exact .inr ⟨_, _, f32_of_ex_normal h255 h0⟩

theorem getLsbD_31_eq_false {r : Word} (h : r.toNat < 2 ^ 31) : r.getLsbD 31 = false := Nat.testBit_lt_two_pow h

/-- A word from that of 1 to that of +Inf is +Inf or a normal number whose quantum is 2^−23 or more. -/
theorem f32_of_one_le {r : Word} (h1 : 0x3F800000 ≤ r.toNat) (hinf : r.toNat ≤ 0x7F800000) :
    f32 r = .inf false ∨ ∃ m e, f32 r = .fin false m e ∧ 2 ^ 23 ≤ m ∧ -23 ≤ e := by
  have hpos : r.getLsbD 31 = false := getLsbD_31_eq_false (by omega)
  by_cases h255 : r.toNat / 2 ^ 23 % 2 ^ 8 = 255
  · exact .inl (hpos ▸ f32_of_emax_zero h255 (by omega))
  · exact .inr ⟨_, _, hpos ▸ f32_of_ex_normal h255 (by omega), by omega, by omega⟩

/-- A word between those of +0 and 1 has a positive significand below 2^24 and a quantum from 2^−149 to 2^−24. -/
theorem f32_bounds_of_lt_one {r : Word} {n : Bool} {m : Nat} {e : Int} (h : f32 r = .fin n m e) (h0 : 0 < r.toNat)
    (h1 : r.toNat < 0x3F800000) : 0 < m ∧ m < 2 ^ 24 ∧ -149 ≤ e ∧ e ≤ -24 := by
  by_cases hex : r.toNat / 2 ^ 23 % 2 ^ 8 = 0
  · cases (f32_of_ex_zero hex).symm.trans h
    omega
  · cases (f32_of_ex_normal (by omega) hex).symm.trans h
    omega

/-! ## Non-negative values at a common quantum -/

/-- Two non-negative values compare as their integers at any quantum 2^q that divides both. -/
theorem ltFin_iff_at {m l : Nat} {e g : Int} (q : Int) (he : q ≤ e) (hg : q ≤ g) :
    ltFin false m e false l g = true ↔ m * 2 ^ (e - q).toNat < l * 2 ^ (g - q).toNat := by
  have hsplit {x : Int} (hx : min e g ≤ x) : (x - q).toNat = (x - min e g).toNat + (min e g - q).toNat := by omega
  have hpow : 0 < 2 ^ (min e g - q).toNat := Nat.two_pow_pos _
  rw [hsplit (min_le_left e g), hsplit (min_le_right e g), pow_add, pow_add, ← mul_assoc, ← mul_assoc,
    Nat.mul_lt_mul_right hpow]
  simp only [ltFin, finAt, Bool.false_eq_true, if_false, decide_eq_true_eq]
  exact_mod_cast Iff.rfl

/-- A value is below 1 where its multiple of 2^−149 is below 2^149. -/
theorem ltFin_one_iff {m : Nat} {e : Int} (he : -149 ≤ e) :
    ltFin false m e false 1 0 = true ↔ m * 2 ^ (e + 149).toNat < 2 ^ 149 := by
  rw [ltFin_iff_at (-149) he (by decide), one_mul, sub_neg_eq_add]
  rfl

/-- d < (m · 2^e) · 2^32, both sides times 2^117. -/
theorem ltFin_draw_iff {d m : Nat} {e : Int} (he : -149 ≤ e) :
    ltFin false d 0 false m (e + 32) = true ↔ d * 2 ^ 117 < m * 2 ^ (e + 149).toNat := by
  rw [ltFin_iff_at (-117) (by decide) (by omega), show e + 32 - -117 = e + 149 by omega]
  rfl

theorem one_le_of_exponent {m : Nat} {e : Int} (hm : 2 ^ 23 ≤ m) (he : -23 ≤ e) : 2 ^ 149 ≤ m * 2 ^ (e + 149).toNat :=
  calc 2 ^ 149 = 2 ^ 23 * 2 ^ 126 := by norm_num
    _ ≤ m * 2 ^ (e + 149).toNat := Nat.mul_le_mul hm (Nat.pow_le_pow_right (by decide) (by omega))

theorem lt_one_of_exponent {m : Nat} {e : Int} (hm : m < 2 ^ 24) (he : e ≤ -24) : m * 2 ^ (e + 149).toNat < 2 ^ 149 :=
  calc m * 2 ^ (e + 149).toNat ≤ m * 2 ^ 125 := Nat.mul_le_mul_left m (Nat.pow_le_pow_right (by decide) (by omega))
    _ < 2 ^ 24 * 2 ^ 125 := Nat.mul_lt_mul_of_pos_right hm (by norm_num)
    _ = 2 ^ 149 := by norm_num

/-! ## The branches of the test (R120) -/

section
variable {r : Word} {n : Bool} {m : Nat} {e : Int} (d : Word)

theorem accept_of_nan {sig : Bool} (h : f32 r = .nan sig) : accept d r = (false, flagNV) := by
  simp only [accept, h]

theorem accept_of_inf (h : f32 r = .inf n) : accept d r = (!n, 0) := by
  simp only [accept, h]

theorem accept_of_nonpos (h : f32 r = .fin n m e) (hle : m = 0 ∨ n = true) : accept d r = (false, 0) := by
  simp only [accept, h]
  exact if_pos (by simpa using hle)

/-- A positive finite ratio: 1 or more accepts, and below 1 the draw is compared with it. -/
theorem accept_of_pos (h : f32 r = .fin false m e) (hm : 0 < m) (he : -149 ≤ e) :
    accept d r = (decide (2 ^ 149 ≤ m * 2 ^ (e + 149).toNat ∨ d.toNat * 2 ^ 117 < m * 2 ^ (e + 149).toNat), 0) := by
  have hpos : ¬(decide (m = 0) || false) = true := by simpa using hm.ne'
  simp only [accept, h]
  rw [if_neg hpos]
  by_cases h1 : ltFin false m e false 1 0 = true
  · have hlt := ((ltFin_one_iff he).1 h1).not_ge
    rw [if_neg (by simp [h1])]
    simp only [hlt, false_or, ← ltFin_draw_iff he, Bool.decide_eq_true]
  · have hge := not_lt.1 (mt (ltFin_one_iff he).2 h1)
    rw [if_pos (by simpa using h1), decide_eq_true (.inl hge)]

end

/-- −0 and +0 included. -/
theorem accept_of_negative_or_zero (d : Word) {r : Word} (hnan : ¬isNanWord r) (h : r.getLsbD 31 = true ∨ r = 0) :
    accept d r = (false, 0) := by
  rcases h with hneg | rfl
  · rcases f32_of_not_isNanWord hnan with hinf | ⟨m, e, hfin⟩
    · rw [accept_of_inf d hinf, hneg]
      rfl
    · exact accept_of_nonpos d hfin (.inr hneg)
  · exact accept_of_nonpos d (f32_of_ex_zero rfl) (.inl rfl)

/-- +Inf included. -/
theorem accept_of_one_le (d : Word) {r : Word} (h1 : 0x3F800000 ≤ r.toNat) (hinf : r.toNat ≤ 0x7F800000) :
    accept d r = (true, 0) := by
  rcases f32_of_one_le h1 hinf with h | ⟨m, e, h, hm, he⟩
  · exact accept_of_inf d h
  · rw [accept_of_pos d h (by omega) (by omega), decide_eq_true (.inl (one_le_of_exponent hm he))]

/-- Between 0 and 1 the test is the exact comparison of the draw with the ratio. -/
theorem accept_of_lt_one (d : Word) {r : Word} {m : Nat} {e : Int} (h : f32 r = .fin false m e) (h0 : 0 < r.toNat)
    (h1 : r.toNat < 0x3F800000) : accept d r = (decide (d.toNat * 2 ^ 117 < m * 2 ^ (e + 149).toNat), 0) := by
  obtain ⟨hm, hm24, he, he24⟩ := f32_bounds_of_lt_one h h0 h1
  simp only [accept_of_pos d h hm he, (lt_one_of_exponent hm24 he24).not_ge, false_or]

/-- Settles O33, range by range of the ratio. -/
theorem acceptanceIsExact : Obligations.AcceptanceIsExact := by
  refine fun d r => ⟨fun hnan => ?nan, accept_of_negative_or_zero d, accept_of_one_le d, fun m e h h0 h1 => ?below_one⟩
  case nan =>
    obtain ⟨sig, h⟩ := f32_of_isNanWord hnan
    exact accept_of_nan d h
  case below_one =>
    rw [accept_of_lt_one d h h0 h1]
    exact ⟨decide_eq_true_iff, rfl⟩

end Sys2Proof.Machine
end
